-- ==== Sys2Proof/Word.lean ====
section
/-! DEFINITION. The words, sparse stores and operand records of the commands of the block. -/

namespace Sys2Proof

/-- A byte of memory, of a register file or of a message. -/
abbrev Byte := BitVec 8

/-- The 32-bit word of FP32 values, loop registers, beads and general registers. -/
abbrev W32 := BitVec 32

/-- The 64-bit word of address registers, tally entries and engine instructions. -/
abbrev W64 := BitVec 64

/-- Sparse data by key: pairs in strictly rising key order, none equal to what an absent key reads as. -/
abbrev Store (β : Type) := List (Nat × β)

/-- The members of the Wavedun family (00_scope.md R4). -/
inductive Variant where
  | wdn4812 | wdn4808 | wdn2406 | wdn4812P
deriving DecidableEq, Repr

/-- The board rails of 20_package_electrical_cooling.md R519. -/
inductive Rail where
  | vin12 | vio18 | vgd12
deriving DecidableEq, Repr

/-- The three host-link events of 14_host_link.md R386 that begin a cold start. -/
inductive LinkReset where
  | hot | secondaryBus | linkDisable
deriving DecidableEq, Repr

/-- What a cold start meets that the block's state does not hold: how far it gets, which channels
fail training, pattern or checker test (stack, channel), and which other failure it meets (die, array index). -/
structure ColdEnv where
  reach : Nat
  straps : Nat
  variant : Variant
  gddrMiB : Nat
  failing : List (Nat × Nat)
  otherFail : Option (Nat × Nat)
  trialMs : Nat
deriving DecidableEq, Repr

/-- A stream command of 04_matrix_vector_tally_instructions.md R110 without its op byte. -/
structure SvuCmd where
  sfmt : Nat
  dfmt : Nat
  rnd : Bool
  sat : Bool
  cond : Nat
  count : Nat
  src1 : Nat
  src2 : Nat
  dst : Nat
  key : W64
  base : W64
  scalar : W32
  k : Nat
deriving DecidableEq, Repr

/-- The transport of an Ebund message (16_ebund_protocol.md R449); a UDP datagram has a source address. -/
inductive Transport where
  | doe
  | mctp
  | udp (source : W32)
  | internal
deriving DecidableEq, Repr

/-- Where a watch message goes (09_synchronisation.md R238): the XQ of a tensor core, or a steward. -/
inductive Target where
  | xq (core : Nat)
  | steward (core : Nat)
deriving DecidableEq, Repr

/-- A host access to a scratchpad window: a read of some bytes or a write of the bytes given. -/
inductive HostAcc where
  | read (len : Nat)
  | write (bytes : List Byte)
deriving DecidableEq, Repr

/-- An access to a bead's address by a unit that runs no instruction of this table (09 R232, 14 R390): the host or a steward. -/
inductive BeadAcc where
  | host (acc : HostAcc)
  | steward (core : Nat) (acc : HostAcc)
deriving DecidableEq, Repr

/-- One node drafted by the draft model for a session's tree (12_serving_sessions.md R335, R336). -/
structure DraftNode where
  token : Nat
  parent : Nat
deriving DecidableEq, Repr

/-- The drafted nodes of one session. -/
structure Draft where
  handle : Nat
  nodes : List DraftNode
deriving DecidableEq, Repr

/-- A report of a work item that stopped: the session it serves (none: the partition), cause and fault code (18 R486). -/
structure WorkFault where
  handle : Option Nat
  cause : Nat
  code : Nat
deriving DecidableEq, Repr

/-- The place of a part of a head's attention (11_attention_and_kv_cache.md R294): the engines of a stack, a tensor core over full
pages, or a tensor core over the in-row keys and the last page. -/
inductive Site where
  | stack (n : Nat)
  | core (t : Nat)
  | inRow (t : Nat)
deriving DecidableEq, Repr

/-- A key of a head: a cached position of the session, or a token of the batch row. -/
inductive KeyRef where
  | cached (pos : Nat)
  | inRow (j : Nat)
deriving DecidableEq, Repr

/-- One query head of one token of the batch row in one layer (R296, R299): its elements in E4M3, the absorbed query in the latent class. -/
structure HeadQuery where
  token : Nat
  layer : Nat
  head : Nat
  q : List Byte
deriving DecidableEq, Repr

/-- The keys and values, or latents, that a token of the batch row gets in every layer, in E4M3 after rotary encoding at its position
(R282), from the resident or the draft model: layer by layer, keys before values, head by head. -/
structure KvBytes where
  token : Nat
  draft : Bool
  bytes : List Byte
deriving DecidableEq, Repr

/-- What a step's kernels and launches delivered, as far as the environment gives it: FP32 logits per tree node of each session (root
first), and of a training job those that predict each of its tokens; faults and poison met, query heads, the keys and values of new
tokens, a training job's loss where its logits do not give it, and the gradients of its parameters. -/
structure StepResult where
  logits : List (Nat × List (List W32))
  faults : List WorkFault
  queries : List HeadQuery
  kv : List KvBytes
  loss : List (Nat × W32)
  grads : List (Nat × List W32)
deriving DecidableEq, Repr

/-- What the placement of a phase finds (13_partitions_and_placement.md R380, R381): room in some tier, and the pages that a pool
gets: 16 × partition + stack, pages. -/
structure PhaseEnv where
  room : Bool
  pool : List (Nat × Nat)
deriving DecidableEq, Repr

/-- The link a training reached (14_host_link.md R384). -/
structure LinkTrain where
  level : Nat
  width : Nat
  speed : Nat
deriving DecidableEq, Repr

/-- Why a locked or acquiring cadence source is left (10_cadence_and_power.md R255). -/
inductive LossReason where
  | announceTimeout
  | offset (ns : Int)
  | missingEdges (n : Nat)
  | rate (groupPs : Nat)
deriving DecidableEq, Repr

/-- The scope of a stop: one tensor core, which only stop 1 has, one partition, or the device (10 R261, R264). -/
inductive StopScope where
  | core (t : Nat)
  | partition (p : Nat)
  | device
deriving DecidableEq, Repr

/-- The kinds of wake events of 10 R266. -/
inductive Wake where
  | work
  | intakeWrite
  | ebund (t : Transport)
  | commit
  | doe
  | tolerance
  | thermalOrError
  | hostLink
deriving DecidableEq, Repr

/-- Power measured over a lease, in W: of the package and its highest over 10 µs, of unowned units, of each partition's stacks, cache
and links, of each tensor core with its clock at 1.30 GHz, and of a clock-gated core (10 R272–R274). -/
structure PowerEnv where
  package : Nat
  peak : Nat
  unowned : Nat
  draws : List Nat
  cores : List Nat
  gated : Nat
deriving DecidableEq, Repr

/-- A PTP message heard from a clock (10 R254): its announcement, by its data set in the order IEEE 1588 compares it, or a time with the
offset measured. -/
inductive PtpMsg where
  | announce (rank : List Nat)
  | sync (timeNs : Nat) (offsetNs : Int)
deriving DecidableEq, Repr

/-- Measured fields of a telemetry sample (17_ebund_dictionary.md R469). -/
structure SampleEnv where
  power : Nat
  die0 : Int
  die1 : Int
deriving DecidableEq, Repr

/-- The regulators of 13 R375; the first two have one bucket in each stack. -/
inductive RegKind where
  | stackPort (s : Nat)
  | engineTime (s : Nat)
  | gddr
  | span
  | hostLink
deriving DecidableEq, Repr

/-- A Span packet (15_span_links.md R420): header fields and payload bytes. -/
structure Packet where
  dstDev : Nat
  dstPart : Nat
  kind : Nat
  poison : Bool
  tag : Nat
  cls : Nat
  ackreq : Bool
  seq : Nat
  offset : Nat
  signal : W32
  payload : List Byte
deriving DecidableEq, Repr

/-- A received Span frame (15 R415–R417): its control block fields, whether every FEC codeword was correctable and the CRC
matched, the codewords corrected, and the packets that end in it. -/
structure Frame where
  number : Nat
  ack : Nat
  nak : Bool
  retrain : Bool
  credits : List Nat
  device : Nat
  caps : Bool
  fecOk : Bool
  corrected : Nat
  crcOk : Bool
  packets : List Packet
deriving DecidableEq, Repr

end Sys2Proof
end

