-- ==== Sys2Proof/Syntax.lean ====
section
/-! DEFINITION. The commands of the block: one constructor for every row of the table of operations. -/

namespace Sys2Proof

/-- The operations and events of the part. A row that names a core (t, of 0-63), a steward (i), a stack and engine (s, q), a
partition (p), a die (d) or a port (n) acts on that unit; a message is given as its bytes. -/
inductive Instr where
  /-- COLD_START (R494). -/
  | coldStart (env : ColdEnv)
  /-- RESET_ASSERT (R522). -/
  | resetAssert (ns : Nat)
  /-- RAIL_OUT_OF_RANGE (R521). -/
  | railOutOfRange (rail : Rail) (ns : Nat)
  /-- HOT_RESET (R386). -/
  | hotReset (kind : LinkReset) (env : ColdEnv)
  /-- FIRMWARE_TRIAL_TIMEOUT (R514). -/
  | firmwareTrialTimeout (ms : Nat)
  /-- ISSUE (R49). -/
  | issue (t : Nat)
  /-- MOV (R57). -/
  | mov (t : Nat)
  /-- MOVI (R57). -/
  | movi (t : Nat)
  /-- ADD (R57). -/
  | add (t : Nat)
  /-- ADDI (R57). -/
  | addi (t : Nat)
  /-- SUB (R57). -/
  | sub (t : Nat)
  /-- SHL (R57). -/
  | shl (t : Nat)
  /-- SHLI (R57). -/
  | shli (t : Nat)
  /-- SHR (R57). -/
  | shr (t : Nat)
  /-- SHRI (R57). -/
  | shri (t : Nat)
  /-- AND (R57). -/
  | and (t : Nat)
  /-- ANDI (R57). -/
  | andi (t : Nat)
  /-- OR (R57). -/
  | or (t : Nat)
  /-- ORI (R57). -/
  | ori (t : Nat)
  /-- NOP (R57). -/
  | nop (t : Nat)
  /-- LOOP (R59). -/
  | loop (t : Nat)
  /-- BARRIER (R64). -/
  | barrier (t : Nat)
  /-- BARRIER_MARKER_RELEASE (R64). -/
  | barrierMarkerRelease (t q : Nat)
  /-- END (R78). -/
  | endKernel (t : Nat)
  /-- KERNEL_END (R79). -/
  | kernelEnd (t : Nat)
  /-- STALL_LIMIT (R82). -/
  | stallLimit (t q : Nat)
  /-- WORK_PACKET (R73). -/
  | workPacket (t : Nat) (sc : Nat) (packet : List Byte)
  /-- PACKET_START (R74). -/
  | packetStart (t : Nat)
  /-- KERNEL_ABORT (R83). -/
  | kernelAbort (t : Nat)
  /-- MMA (R89). -/
  | mma (t : Nat)
  /-- ACLR (R93). -/
  | aclr (t : Nat)
  /-- MPUSH (R93). -/
  | mpush (t : Nat)
  /-- AST (R93). -/
  | ast (t : Nat)
  /-- ALD (R93). -/
  | ald (t : Nat)
  /-- VMOV (R97). -/
  | vmov (t : Nat)
  /-- VADD (R97). -/
  | vadd (t : Nat)
  /-- VMUL (R97). -/
  | vmul (t : Nat)
  /-- VFMA (R97). -/
  | vfma (t : Nat)
  /-- VMIN (R97). -/
  | vmin (t : Nat)
  /-- VMAX (R97). -/
  | vmax (t : Nat)
  /-- VCMP (R98). -/
  | vcmp (t : Nat)
  /-- VSEL (R97). -/
  | vsel (t : Nat)
  /-- VCVT (R99). -/
  | vcvt (t : Nat)
  /-- MLOGIC (R98). -/
  | mlogic (t : Nat)
  /-- VTGET (R97). -/
  | vtget (t : Nat)
  /-- VEXP2 (R100). -/
  | vexp2 (t : Nat)
  /-- VLOG2 (R100). -/
  | vlog2 (t : Nat)
  /-- VRCP (R100). -/
  | vrcp (t : Nat)
  /-- VRSQRT (R100). -/
  | vrsqrt (t : Nat)
  /-- VOCC (R101). -/
  | vocc (t : Nat)
  /-- VTWR (R102). -/
  | vtwr (t : Nat)
  /-- VTRD (R102). -/
  | vtrd (t : Nat)
  /-- TRAYPOP_VQ (R69). -/
  | traypopVq (t : Nat)
  /-- VFLAGS_VQ (R33). -/
  | vflagsVq (t : Nat)
  /-- TSUM (R105). -/
  | tsum (t : Nat)
  /-- TSUMSQ (R105). -/
  | tsumsq (t : Nat)
  /-- TMAX (R105). -/
  | tmax (t : Nat)
  /-- TMIN (R105). -/
  | tmin (t : Nat)
  /-- TARGMAX (R105). -/
  | targmax (t : Nat)
  /-- TARGMIN (R105). -/
  | targmin (t : Nat)
  /-- ROWSTAT (R105). -/
  | rowstat (t : Nat)
  /-- RSMERGE (R107). -/
  | rsmerge (t : Nat)
  /-- TRAYPOP_TQ (R69). -/
  | traypopTq (t : Nat)
  /-- TTWR (R102). -/
  | ttwr (t : Nat)
  /-- TTRD (R102). -/
  | ttrd (t : Nat)
  /-- VFLAGS_TQ (R33). -/
  | vflagsTq (t : Nat)
  /-- XLD (R120). -/
  | xld (t : Nat)
  /-- XST (R120). -/
  | xst (t : Nat)
  /-- XSEND (R428). -/
  | xsend (t : Nat)
  /-- INVAL (R216). -/
  | inval (t : Nat)
  /-- WB (R216). -/
  | wb (t : Nat)
  /-- WBINV (R216). -/
  | wbinv (t : Nat)
  /-- BADD (R237). -/
  | badd (t : Nat)
  /-- BSET (R237). -/
  | bset (t : Nat)
  /-- BWAIT (R239). -/
  | bwait (t : Nat)
  /-- BRD (R237). -/
  | brd (t : Nat)
  /-- WATCH_MESSAGE (R242). -/
  | watchMessage (target : Target)
  /-- WATCH_TIMEOUT (R240). -/
  | watchTimeout (die : Nat)
  /-- LEND (R244). -/
  | lend (t : Nat)
  /-- LEND_RECLAIM (R244). -/
  | lendReclaim (t : Nat)
  /-- RECKONING (R245). -/
  | reckoning (p : Nat)
  /-- SVU_ADD (R112). -/
  | svuAdd (i : Nat) (cmd : List Byte)
  /-- SVU_MUL (R112). -/
  | svuMul (i : Nat) (cmd : List Byte)
  /-- SVU_FMA (R112). -/
  | svuFma (i : Nat) (cmd : List Byte)
  /-- SVU_MIN (R112). -/
  | svuMin (i : Nat) (cmd : List Byte)
  /-- SVU_MAX (R112). -/
  | svuMax (i : Nat) (cmd : List Byte)
  /-- SVU_CMP (R112). -/
  | svuCmp (i : Nat) (cmd : List Byte)
  /-- SVU_SEL (R112). -/
  | svuSel (i : Nat) (cmd : List Byte)
  /-- SVU_CVT (R112). -/
  | svuCvt (i : Nat) (cmd : List Byte)
  /-- SVU_EXP2 (R112). -/
  | svuExp2 (i : Nat) (cmd : List Byte)
  /-- SVU_LOG2 (R112). -/
  | svuLog2 (i : Nat) (cmd : List Byte)
  /-- SVU_RCP (R112). -/
  | svuRcp (i : Nat) (cmd : List Byte)
  /-- SVU_RSQRT (R112). -/
  | svuRsqrt (i : Nat) (cmd : List Byte)
  /-- SVU_SUM (R112). -/
  | svuSum (i : Nat) (cmd : List Byte)
  /-- SVU_SUMSQ (R112). -/
  | svuSumsq (i : Nat) (cmd : List Byte)
  /-- SVU_REDUCE_MAX (R112). -/
  | svuReduceMax (i : Nat) (cmd : List Byte)
  /-- SVU_REDUCE_MIN (R112). -/
  | svuReduceMin (i : Nat) (cmd : List Byte)
  /-- SVU_ARGMAX (R112). -/
  | svuArgmax (i : Nat) (cmd : List Byte)
  /-- SVU_ARGMIN (R112). -/
  | svuArgmin (i : Nat) (cmd : List Byte)
  /-- SVU_ROWSTAT (R112). -/
  | svuRowstat (i : Nat) (cmd : List Byte)
  /-- SVU_RAND (R112). -/
  | svuRand (i : Nat) (cmd : List Byte)
  /-- SVU_TOPK (R540). -/
  | svuTopk (i : Nat) (cmd : List Byte)
  /-- SVU_SORT (R540). -/
  | svuSort (i : Nat) (cmd : List Byte)
  /-- SVU_TOPP (R540). -/
  | svuTopp (i : Nat) (cmd : List Byte)
  /-- SVU_SAMPLE (R540). -/
  | svuSample (i : Nat) (cmd : List Byte)
  /-- PROGRAM_LOAD (R186). -/
  | programLoad (s : Nat) (q0 q1 : Nat) (image : Nat) (p : Nat)
  /-- LAUNCH (R188). -/
  | launch (record : Nat) (sc : Nat)
  /-- LAUNCH_START (R189). -/
  | launchStart (s : Nat)
  /-- LAUNCH_COMPLETE (R190). -/
  | launchComplete (s : Nat)
  /-- LAUNCH_ABORT (R191). -/
  | launchAbort (s : Nat)
  /-- RUN_LIMIT (R191). -/
  | runLimit (s q : Nat)
  /-- BE_MOV (R172). -/
  | beMov (s q : Nat)
  /-- BE_MOVI (R172). -/
  | beMovi (s q : Nat)
  /-- BE_ADD (R172). -/
  | beAdd (s q : Nat)
  /-- BE_ADDI (R172). -/
  | beAddi (s q : Nat)
  /-- BE_SUB (R172). -/
  | beSub (s q : Nat)
  /-- BE_AND (R172). -/
  | beAnd (s q : Nat)
  /-- BE_ANDI (R172). -/
  | beAndi (s q : Nat)
  /-- BE_OR (R172). -/
  | beOr (s q : Nat)
  /-- BE_ORI (R172). -/
  | beOri (s q : Nat)
  /-- BE_SHL (R172). -/
  | beShl (s q : Nat)
  /-- BE_SHLI (R172). -/
  | beShli (s q : Nat)
  /-- BE_SHR (R172). -/
  | beShr (s q : Nat)
  /-- BE_SHRI (R172). -/
  | beShri (s q : Nat)
  /-- BE_NOP (R172). -/
  | beNop (s q : Nat)
  /-- BE_LOOP (R173). -/
  | beLoop (s q : Nat)
  /-- LDW (R174). -/
  | ldw (s q : Nat)
  /-- STW (R174). -/
  | stw (s q : Nat)
  /-- ASTL (R174). -/
  | astl (s q : Nat)
  /-- ALDL (R174). -/
  | aldl (s q : Nat)
  /-- WST (R174). -/
  | wst (s q : Nat)
  /-- WLD (R174). -/
  | wld (s q : Nat)
  /-- ROPEN (R175). -/
  | ropen (s q : Nat)
  /-- CRD (R176). -/
  | crd (s q : Nat)
  /-- ZSK (R177). -/
  | zsk (s q : Nat)
  /-- MAC (R179). -/
  | mac (s q : Nat)
  /-- FOLD (R180). -/
  | fold (s q : Nat)
  /-- BE_ACLR (R181). -/
  | beAclr (s q : Nat)
  /-- PUSH (R183). -/
  | push (s q : Nat)
  /-- HALT (R184). -/
  | halt (s q : Nat)
  /-- REFRESH (R159). -/
  | refresh (s q : Nat)
  /-- FORCED_REFRESH (R158). -/
  | forcedRefresh (s q : Nat)
  /-- SEAL (R150). -/
  | seal (s : Nat)
  /-- UNSEAL (R150). -/
  | unseal (s : Nat)
  /-- STRIP_OPERATION_COMPLETE (R152). -/
  | stripOperationComplete (s : Nat) (badBurst : Option Nat)
  /-- CHANNEL_DECLARED_FAILING (R160). -/
  | channelDeclaredFailing (s c : Nat)
  /-- STACK_REFRESH_DOUBLED (R157). -/
  | stackRefreshDoubled (s : Nat) (dram base : Int)
  /-- STACK_REFRESH_NORMAL (R157). -/
  | stackRefreshNormal (s : Nat) (dram base : Int)
  /-- STACK_THROTTLE (R163). -/
  | stackThrottle (s : Nat) (dram base : Int)
  /-- STACK_THROTTLE_RELEASE (R163). -/
  | stackThrottleRelease (s : Nat) (dram base : Int)
  /-- STACK_TRIP (R163). -/
  | stackTrip (s : Nat) (dram base : Int)
  /-- STACK_TRIP_RELEASE (R163). -/
  | stackTripRelease (s : Nat) (dram base : Int)
  /-- DIE_THROTTLE (R275). -/
  | dieThrottle (d : Nat) (temp : Int)
  /-- DIE_THROTTLE_RELEASE (R275). -/
  | dieThrottleRelease (d : Nat) (temp : Int)
  /-- DIE_TRIP (R275). -/
  | dieTrip (d : Nat) (temp : Int)
  /-- DIE_TRIP_RELEASE (R275). -/
  | dieTripRelease (d : Nat) (temp : Int)
  /-- DIE_SHUTDOWN (R275). -/
  | dieShutdown (d : Nat) (temp : Int)
  /-- COOLANT_FAULT (R533). -/
  | coolantFault (us : Nat)
  /-- COOLANT_FAULT_RELEASE (R533). -/
  | coolantFaultRelease (us : Nat)
  /-- PATROL_SCRUB (R477). -/
  | patrolScrub
  /-- REGULATOR_FAULT (R489). -/
  | regulatorFault
  /-- HOST_CXL_MEM_READ (R208). -/
  | hostCxlMemRead (dpa len : Nat)
  /-- HOST_CXL_MEM_WRITE (R208). -/
  | hostCxlMemWrite (dpa : Nat) (bytes : List Byte) (poison : Bool)
  /-- BEAD_WINDOW_WRITE (R232). -/
  | beadWindowWrite (die off : Nat) (acc : BeadAcc)
  /-- SCRATCHPAD_WINDOW_ACCESS (R390). -/
  | scratchpadWindowAccess (t off : Nat) (acc : HostAcc)
  /-- FAULTSUM_CLEAR (R389). -/
  | faultsumClear (v : W64)
  /-- LRESET (R398). -/
  | lreset (p : Nat) (v : W64)
  /-- INTAKE_SLOT_WRITE (R394). -/
  | intakeSlotWrite (p off : Nat) (bytes : List Byte)
  /-- TORN_PACKET_TIMEOUT (R394). -/
  | tornPacketTimeout (p lane : Nat)
  /-- INTAKE_QUEUE_ROOM (R397). -/
  | intakeQueueRoom (p : Nat)
  /-- OPEN (R322). -/
  | cmdOpen (p : Nat)
  /-- APPEND (R322). -/
  | append (p : Nat)
  /-- CANCEL (R349). -/
  | cancel (p : Nat)
  /-- CLOSE (R322). -/
  | close (p : Nat)
  /-- PARK (R322). -/
  | park (p : Nat)
  /-- RESUME (R322). -/
  | resume (p : Nat)
  /-- ADOPT (R322). -/
  | adopt (p : Nat)
  /-- SETDUE (R322). -/
  | setdue (p : Nat)
  /-- ADAPTER_LOAD (R357). -/
  | adapterLoad (p : Nat)
  /-- ADAPTER_RETIRE (R357). -/
  | adapterRetire (p : Nat)
  /-- NEG_PIN (R309). -/
  | negPin (p : Nat)
  /-- NEG_UNPIN (R309). -/
  | negUnpin (p : Nat)
  /-- TRAIN (R360). -/
  | train (p : Nat)
  /-- FENCE (R320). -/
  | fence (p : Nat)
  /-- UNKNOWN_OPCODE (R321). -/
  | unknownOpcode (p : Nat)
  /-- ADAPTER_LOAD_COMPLETE (R357). -/
  | adapterLoadComplete (p slot : Nat)
  /-- PRINT_COMPLETE (R307). -/
  | printComplete (p handle : Nat)
  /-- RECEIVE_TIMEOUT (R322). -/
  | receiveTimeout (p handle : Nat)
  /-- PAGE_PACKET_HOLD_EXPIRY (R355). -/
  | pagePacketHoldExpiry (p handle : Nat)
  /-- STEP_START (R325). -/
  | stepStart (p : Nat) (drafts : List Draft)
  /-- STEP_COMPLETE (R324). -/
  | stepComplete (p : Nat) (r : StepResult)
  /-- STATUS_ONLY_RECORD (R342). -/
  | statusOnlyRecord (p : Nat)
  /-- PARTITION_RESUME (R488). -/
  | partitionResume (p : Nat)
  /-- RING_CONTROL_WRITE (R402). -/
  | ringControlWrite (p : Nat) (off : Nat) (bytes : List Byte)
  /-- CONTROL_BLOCK_POLL (R402). -/
  | controlBlockPoll (p : Nat)
  /-- RING_MODERATION_TIMER (R407). -/
  | ringModerationTimer (p : Nat)
  /-- LINK_TRAINED (R385). -/
  | linkTrained (l : LinkTrain)
  /-- LINK_DOWN (R386). -/
  | linkDown
  /-- LINK_DOWN_LIMIT (R386). -/
  | linkDownLimit
  /-- CADENCE_TICK (R252). -/
  | cadenceTick
  /-- PTP_MESSAGE (R254). -/
  | ptpMessage (clock : Nat) (m : PtpMsg)
  /-- CADENCE_PULSE (R253). -/
  | cadencePulse (periodPs : Nat)
  /-- SOURCE_LOST (R255). -/
  | sourceLost
  /-- LOCK_LOST (R255). -/
  | lockLost (why : LossReason)
  /-- POWER_LEASE_RENEWAL (R272). -/
  | powerLeaseRenewal (m : PowerEnv)
  /-- REGULATOR_REFILL (R376). -/
  | regulatorRefill
  /-- REGULATED_TRAFFIC_START (R376). -/
  | regulatedTrafficStart (p : Nat) (k : RegKind) (size : Nat)
  /-- STOP_ENTRY (R261). -/
  | stopEntry (scope : StopScope) (n : Nat)
  /-- STOP_EXIT (R266). -/
  | stopExit (scope : StopScope) (why : Wake)
  /-- LATENCY_TOLERANCE_WRITE (R263). -/
  | latencyToleranceWrite (p : Nat) (v : W32)
  /-- STOP6_REQUEST (R268). -/
  | stop6Request (tr : Transport) (msg : List Byte)
  /-- POWER_DOWN_READY (R268). -/
  | powerDownReady
  /-- TELEMETRY_SAMPLE (R470). -/
  | telemetrySample (m : SampleEnv)
  /-- COMMIT_REQUEST (R454). -/
  | commitRequest (tr : Transport) (msg : List Byte)
  /-- COMMIT_TICK (R454). -/
  | commitTick
  /-- PARTITION_HOLD (R379). -/
  | partitionHold (p : Nat)
  /-- PHASED_COMMIT_APPLY (R380). -/
  | phasedCommitApply
  /-- PHASE_COMPLETE (R380). -/
  | phaseComplete (e : PhaseEnv)
  /-- HOLD_LIMIT (R381). -/
  | holdLimit (p : Nat)
  /-- ROLLBACK_COMPLETE (R381). -/
  | rollbackComplete
  /-- SHADOW_CLEAR (R453). -/
  | shadowClear (tr : Transport) (msg : List Byte)
  /-- READ (R445). -/
  | ebRead (tr : Transport) (msg : List Byte)
  /-- WRITE (R441). -/
  | ebWrite (tr : Transport) (msg : List Byte)
  /-- SEG_READ (R450). -/
  | segRead (tr : Transport) (msg : List Byte)
  /-- SEG_BEGIN (R451). -/
  | segBegin (tr : Transport) (msg : List Byte)
  /-- SEG_WRITE (R451). -/
  | segWrite (tr : Transport) (msg : List Byte)
  /-- SEG_END (R451). -/
  | segEnd (tr : Transport) (msg : List Byte)
  /-- SEG_ABORT (R445). -/
  | segAbort (tr : Transport) (msg : List Byte)
  /-- DESCRIBE (R446). -/
  | describe (tr : Transport) (msg : List Byte)
  /-- UNKNOWN_OP (R452). -/
  | unknownOp (tr : Transport) (msg : List Byte)
  /-- SEGMENT_TIMEOUT (R450). -/
  | segmentTimeout (handle : Nat)
  /-- HMAC_KEY_WRITE (R473). -/
  | hmacKeyWrite (tr : Transport) (msg : List Byte)
  /-- STACK_LOG_CLEAR (R466). -/
  | stackLogClear (tr : Transport) (msg : List Byte)
  /-- DIE_LOG_CLEAR (R466). -/
  | dieLogClear (tr : Transport) (msg : List Byte)
  /-- FIRMWARE_WRITE (R513). -/
  | firmwareWrite
  /-- FIRMWARE_ACTIVATE (R513). -/
  | firmwareActivate
  /-- FIRMWARE_CANCEL (R513). -/
  | firmwareCancel
  /-- FLASH_WRITE_COMPLETE (R513). -/
  | flashWriteComplete
  /-- FIRMWARE_VERIFY_COMPLETE (R505). -/
  | firmwareVerifyComplete
  /-- SPAN_FRAME (R417). -/
  | spanFrame (n : Nat) (f : Frame)
  /-- SPAN_PACKET_SEND (R418). -/
  | spanPacketSend (n : Nat)
  /-- SPAN_WRITE (R430). -/
  | spanWrite (n : Nat) (k : Packet)
  /-- SPAN_READ (R430). -/
  | spanRead (n : Nat) (k : Packet)
  /-- SPAN_PAGE (R437). -/
  | spanPage (n : Nat) (k : Packet)
  /-- SPAN_ACK (R426). -/
  | spanAck (n : Nat) (k : Packet)
  /-- SPAN_IDLE (R415). -/
  | spanIdle (n : Nat)
  /-- TRAINING_COMPLETE (R419). -/
  | trainingComplete (n width peer : Nat) (caps : Bool)
  /-- TRAINING_TIMEOUT (R419). -/
  | trainingTimeout (n : Nat)
  /-- DOWN_RETRY (R419). -/
  | downRetry (n : Nat)
  /-- BLOCK_LOCK_LOSS (R419). -/
  | blockLockLoss (n : Nat)
  /-- PORT_LOSS (R434). -/
  | portLoss (n : Nat)
  /-- SPAN_HOLD_EXPIRY (R435). -/
  | spanHoldExpiry (device : Nat)
  /-- DOE_DISCOVERY (R387). -/
  | doeDiscovery (index : Nat)
  /-- CDAT_TABLE_ACCESS (R387). -/
  | cdatTableAccess (handle : Nat)
  /-- GET_VERSION (R510). -/
  | getVersion (tr : Transport) (msg : List Byte)
  /-- GET_CAPABILITIES (R510). -/
  | getCapabilities (tr : Transport) (msg : List Byte)
  /-- NEGOTIATE_ALGORITHMS (R510). -/
  | negotiateAlgorithms (tr : Transport) (msg : List Byte)
  /-- GET_DIGESTS (R510). -/
  | getDigests (tr : Transport) (msg : List Byte)
  /-- GET_CERTIFICATE (R510). -/
  | getCertificate (tr : Transport) (msg : List Byte)
  /-- CHALLENGE (R510). -/
  | challenge (tr : Transport) (msg : List Byte)
  /-- GET_MEASUREMENTS (R511). -/
  | getMeasurements (tr : Transport) (msg : List Byte)
  /-- CONFIGURATION_REQUEST (R496). -/
  | configurationRequest (addr : Nat)
deriving DecidableEq, Repr

end Sys2Proof
end

