-- ==== Sys2Proof/Decode.lean ====
section
/-! DEFINITION. The commands that a word spells: none, since no row of the table of operations has an encoding of bits. -/

namespace Sys2Proof

/-- The command that a word of a row's bits spells. The rows are operations and events of the block, and no row gives a pattern
of bits; the instruction words of kernels and engine programs lie in the block's own memories (log entry 8). -/
def decodeTableWord (_nbits _w : Nat) : Option Instr := none

end Sys2Proof
end

