-- ==== Sys2Proof/Machine/Bits.lean ====
section
/-! DEFINITION. Sparse stores in canonical form, little-endian bytes and bit fields. -/

namespace Sys2Proof.Machine

open Sys2Proof

/-! ### Sparse stores -/

/-- What a store holds at a key: the listed value, or the default. -/
def sGet {β : Type} (d : β) : Store β → Nat → β
  | [], _ => d
  | (a, b) :: r, k => if a = k then b else sGet d r k

/-- A store without a key. -/
def sDel {β : Type} : Store β → Nat → Store β
  | [], _ => []
  | (a, b) :: r, k => if a = k then sDel r k else (a, b) :: sDel r k

/-- A store with a key listed, in key order. -/
def sIns {β : Type} : Store β → Nat → β → Store β
  | [], k, v => [(k, v)]
  | (a, b) :: r, k, v => if k < a then (k, v) :: (a, b) :: r else if k = a then (k, v) :: r else (a, b) :: sIns r k v

/-- A write to a store: writing the default unlists the key. -/
def sSet {β : Type} [DecidableEq β] (d : β) (m : Store β) (k : Nat) (v : β) : Store β :=
  if v = d then sDel m k else sIns m k v

/-- Strictly rising keys above a bound, none listed at the default. -/
def sWfFrom {β : Type} [DecidableEq β] (d : β) : Nat → Store β → Bool
  | _, [] => true
  | lo, (a, b) :: r => decide (lo ≤ a) && !decide (b = d) && sWfFrom d (a + 1) r

/-- The canonical form of a store. -/
def sWf {β : Type} [DecidableEq β] (d : β) (m : Store β) : Bool := sWfFrom d 0 m

/-- A store with a value changed by a function. -/
def sMod {β : Type} [DecidableEq β] (d : β) (m : Store β) (k : Nat) (f : β → β) : Store β :=
  sSet d m k (f (sGet d m k))

/-- Consecutive writes from a key on. -/
def sSetMany {β : Type} [DecidableEq β] (d : β) (m : Store β) : Nat → List β → Store β
  | _, [] => m
  | k, v :: vs => sSetMany d (sSet d m k v) (k + 1) vs

/-- Consecutive reads from a key on. -/
def sGetMany {β : Type} (d : β) (m : Store β) : Nat → Nat → List β
  | _, 0 => []
  | k, n + 1 => sGet d m k :: sGetMany d m (k + 1) n

/-- A store without the keys from `lo` up to, not including, `hi`. -/
def sDropRange {β : Type} (m : Store β) (lo hi : Nat) : Store β :=
  m.filter (fun e => decide (e.1 < lo) || decide (hi ≤ e.1))

/-! ### Bytes, little-endian (00_scope.md R8) -/

/-- The number that bytes spell, byte 0 least significant. -/
def leNat : List Byte → Nat
  | [] => 0
  | b :: r => b.toNat + 256 * leNat r

/-- `n` bytes of a number, byte 0 least significant. -/
def natLe : Nat → Nat → List Byte
  | 0, _ => []
  | n + 1, x => BitVec.ofNat 8 x :: natLe n (x / 256)

/-- The number in bytes `off` to `off + n - 1` of a structure. -/
def bytesAt (l : List Byte) (off n : Nat) : Nat := leNat ((l.drop off).take n)

/-- A structure with bytes replaced from an offset; bytes beyond its end are dropped. -/
def putBytes (l : List Byte) (off : Nat) (v : List Byte) : List Byte :=
  if off < l.length then (l.take off ++ v ++ l.drop (off + v.length)).take l.length else l

/-- A list filled or cut to a length. -/
def padTo (n : Nat) (l : List Byte) : List Byte := (l ++ List.replicate (n - l.length) 0).take n

/-- Bits `hi` down to `lo` of a number. -/
def fld (x hi lo : Nat) : Nat := (x >>> lo) % 2 ^ (hi + 1 - lo)

/-- One bit of a number. -/
def bitAt (x i : Nat) : Bool := (x >>> i) % 2 == 1

/-- A number with one bit set. -/
def setBit (x i : Nat) : Nat := if bitAt x i then x else x + 2 ^ i

/-- A number with one bit clear. -/
def clearBit (x i : Nat) : Nat := if bitAt x i then x - 2 ^ i else x

/-- A two's-complement number of `w` bits. -/
def signedOf (w x : Nat) : Int := if x % 2 ^ w < 2 ^ (w - 1) then Int.ofNat (x % 2 ^ w) else Int.ofNat (x % 2 ^ w) - 2 ^ w

/-- The low `w` bits of an integer in two's complement. -/
def unsignedOf (w : Nat) (x : Int) : Nat := (x % (2 ^ w : Int)).toNat

/-- Ceiling of a division. -/
def ceilDiv (a b : Nat) : Nat := (a + b - 1) / b

/-- `x` rounded up to a multiple of 64. -/
def roundup64 (x : Nat) : Nat := ceilDiv x 64 * 64

/-- Ceiling of the base-2 logarithm; 0 for 0 and 1. -/
def clog2 (n : Nat) : Nat := if n ≤ 1 then 0 else Nat.log2 (n - 1) + 1

/-- The entries of a list at which a condition holds, with their places. -/
def indexed {α : Type} (l : List α) : List (Nat × α) := (List.range l.length).zip l

/-- How many bits of a number below `n` are set. -/
def popCount (n x : Nat) : Nat := ((List.range n).filter (bitAt x)).length

/-- The positions below `n` at which a number has its bit set, in ascending order. -/
def bitsOf (n x : Nat) : List Nat := (List.range n).filter (bitAt x)

/-- Whether two ranges of bytes overlap: start and length of each. -/
def overlaps (a n b m : Nat) : Bool := decide (a < b + m) && decide (b < a + n)

/-- A list with one place replaced. -/
def setNth {α : Type} (l : List α) (i : Nat) (v : α) : List α := l.set i v

end Sys2Proof.Machine
end

