-- ==== Sys2Proof/Machine/Hash.lean ====
section
/-! DEFINITION. The generator, checks and digests the spec names: Philox-4×32-10 (R113), CRC-32C (R392), SHA-256 (R305),
SHA-384 and HMAC-SHA-384 (R449, R504). Words are natural numbers reduced at each step. -/

namespace Sys2Proof.Machine

open Sys2Proof

/-- A 32-bit word. -/
def w32 (x : Nat) : Nat := x % 4294967296

/-! ### Philox (R113) -/

/-- One round of the generator: counter words and key words to the next counter words. -/
def philoxRound (c : Nat × Nat × Nat × Nat) (k0 k1 : Nat) : Nat × Nat × Nat × Nat :=
  let p0 := 0xD2511F53 * c.1
  let p1 := 0xCD9E8D57 * c.2.2.1
  ((p1 / 4294967296) ^^^ c.2.1 ^^^ k0, w32 p1, (p0 / 4294967296) ^^^ c.2.2.2 ^^^ k1, w32 p0)

/-- The rounds that remain. -/
def philoxGo : Nat → Nat × Nat × Nat × Nat → Nat → Nat → Nat × Nat × Nat × Nat
  | 0, c, _, _ => c
  | n + 1, c, k0, k1 => philoxGo n (philoxRound c k0 k1) (w32 (k0 + 0x9E3779B9)) (w32 (k1 + 0xBB67AE85))

/-- Output word 0 for a key, a counter c and a purpose (R113). -/
def philox (key c purpose : Nat) : Nat :=
  (philoxGo 10 (w32 c, w32 (c / 4294967296), purpose, 0) (w32 key) (w32 (key / 4294967296))).1

/-- The 16-bit random integer of a stochastic rounding: purpose 0, bits 15:0 of word 0 (R114). -/
def srDraw (key base i : Nat) : Nat := philox key ((base + i) % 18446744073709551616) 0 % 65536

/-- A uniform draw as a multiple of 2^-24 (R114): purpose 1, word 0 shifted right by 8. -/
def uniformDraw (key base i : Nat) : Nat := philox key ((base + i) % 18446744073709551616) 1 / 256

/-! ### CRC-32C (R392) -/

/-- Eight bit steps of the reflected polynomial. -/
def crcBits : Nat → Nat → Nat
  | 0, c => c
  | n + 1, c => crcBits n (if c % 2 = 1 then (c / 2) ^^^ 0x82F63B78 else c / 2)

/-- CRC-32C of bytes: reflected, initial value and final exclusive OR all ones. -/
def crc32c (l : List Byte) : Nat :=
  l.foldl (fun c b => crcBits 8 (c ^^^ b.toNat)) 0xFFFFFFFF ^^^ 0xFFFFFFFF

/-! ### SHA-2 -/

/-- The big-endian number of bytes. -/
def beNat (l : List Byte) : Nat := l.foldl (fun a b => a * 256 + b.toNat) 0

/-- `n` big-endian bytes of a number. -/
def natBe (n x : Nat) : List Byte := (natLe n x).reverse

/-- A list cut into pieces of `n`. -/
def chunks {α : Type} (n : Nat) : Nat → List α → List (List α)
  | 0, _ => []
  | k + 1, l => if l.isEmpty then [] else l.take n :: chunks n k (l.drop n)

/-- Rotation right of a `w`-bit word. -/
def rotr (w x n : Nat) : Nat := (x >>> n) ||| ((x <<< (w - n)) % 2 ^ w)

/-- The constants in which SHA-2 with a word size is written: word bits, rotations and shifts of Σ0, Σ1, σ0, σ1. -/
structure ShaParams where
  w : Nat
  block : Nat
  s0 : Nat × Nat × Nat
  s1 : Nat × Nat × Nat
  m0 : Nat × Nat × Nat
  m1 : Nat × Nat × Nat

/-- SHA-256's rotations. -/
def sha256Params : ShaParams := ⟨32, 64, (2, 13, 22), (6, 11, 25), (7, 18, 3), (17, 19, 10)⟩

/-- SHA-384's rotations. -/
def sha512Params : ShaParams := ⟨64, 128, (28, 34, 39), (14, 18, 41), (1, 8, 7), (19, 61, 6)⟩

/-- Σ: three rotations. -/
def bigSigma (w : Nat) (r : Nat × Nat × Nat) (x : Nat) : Nat := rotr w x r.1 ^^^ rotr w x r.2.1 ^^^ rotr w x r.2.2

/-- σ: two rotations and a shift. -/
def smallSigma (w : Nat) (r : Nat × Nat × Nat) (x : Nat) : Nat := rotr w x r.1 ^^^ rotr w x r.2.1 ^^^ (x >>> r.2.2)

/-- The message schedule, newest word first. -/
def schedule (p : ShaParams) : Nat → List Nat → List Nat
  | 0, ws => ws
  | n + 1, ws =>
    let x := (smallSigma p.w p.m1 (ws.getD 1 0) + ws.getD 6 0 + smallSigma p.w p.m0 (ws.getD 14 0) + ws.getD 15 0) % 2 ^ p.w
    schedule p n (x :: ws)

/-- One round over the eight working words. -/
def shaRound (p : ShaParams) (v : List Nat) (kw : Nat × Nat) : List Nat :=
  match v with
  | [a, b, c, d, e, f, g, h] =>
    let mask := 2 ^ p.w - 1
    let ch := (e &&& f) ^^^ ((e ^^^ mask) &&& g)
    let t1 := h + bigSigma p.w p.s1 e + ch + kw.1 + kw.2
    let maj := (a &&& b) ^^^ (a &&& c) ^^^ (b &&& c)
    let t2 := bigSigma p.w p.s0 a + maj
    [(t1 + t2) % 2 ^ p.w, a, b, c, (d + t1) % 2 ^ p.w, e, f, g]
  | x => x

/-- One block. -/
def shaBlock (p : ShaParams) (ks : List Nat) (h : List Nat) (blk : List Byte) : List Nat :=
  let ws := ((chunks (p.w / 8) 16 blk).map beNat).reverse
  let sched := (schedule p (ks.length - 16) ws).reverse
  let v := (ks.zip sched).foldl (shaRound p) h
  (h.zip v).map (fun x => (x.1 + x.2) % 2 ^ p.w)

/-- The padded message. -/
def shaPad (p : ShaParams) (l : List Byte) : List Byte :=
  let tail := p.w / 4
  let zeros := (p.block - (l.length + 1 + tail) % p.block) % p.block
  l ++ [0x80#8] ++ List.replicate zeros 0 ++ natBe tail (8 * l.length)

/-- The final working words. -/
def shaRun (p : ShaParams) (ks iv : List Nat) (l : List Byte) : List Nat :=
  let padded := shaPad p l
  (chunks p.block (padded.length / p.block) padded).foldl (shaBlock p ks) iv

/-- SHA-256's round constants. -/
def sha256K : List Nat :=
  ([0x428a2f98, 0x71374491, 0xb5c0fbcf, 0xe9b5dba5, 0x3956c25b, 0x59f111f1, 0x923f82a4, 0xab1c5ed5] ++
   [0xd807aa98, 0x12835b01, 0x243185be, 0x550c7dc3, 0x72be5d74, 0x80deb1fe, 0x9bdc06a7, 0xc19bf174] ++
   [0xe49b69c1, 0xefbe4786, 0x0fc19dc6, 0x240ca1cc, 0x2de92c6f, 0x4a7484aa, 0x5cb0a9dc, 0x76f988da] ++
   [0x983e5152, 0xa831c66d, 0xb00327c8, 0xbf597fc7, 0xc6e00bf3, 0xd5a79147, 0x06ca6351, 0x14292967] ++
   [0x27b70a85, 0x2e1b2138, 0x4d2c6dfc, 0x53380d13, 0x650a7354, 0x766a0abb, 0x81c2c92e, 0x92722c85] ++
   [0xa2bfe8a1, 0xa81a664b, 0xc24b8b70, 0xc76c51a3, 0xd192e819, 0xd6990624, 0xf40e3585, 0x106aa070] ++
   [0x19a4c116, 0x1e376c08, 0x2748774c, 0x34b0bcb5, 0x391c0cb3, 0x4ed8aa4a, 0x5b9cca4f, 0x682e6ff3] ++
   [0x748f82ee, 0x78a5636f, 0x84c87814, 0x8cc70208, 0x90befffa, 0xa4506ceb, 0xbef9a3f7, 0xc67178f2])

/-- SHA-256's initial words. -/
def sha256Iv : List Nat :=
  [0x6a09e667, 0xbb67ae85, 0x3c6ef372, 0xa54ff53a, 0x510e527f, 0x9b05688c, 0x1f83d9ab, 0x5be0cd19]

/-- SHA-384's round constants. -/
def sha512K : List Nat :=
  ([0x428a2f98d728ae22, 0x7137449123ef65cd, 0xb5c0fbcfec4d3b2f, 0xe9b5dba58189dbbc] ++
   [0x3956c25bf348b538, 0x59f111f1b605d019, 0x923f82a4af194f9b, 0xab1c5ed5da6d8118] ++
   [0xd807aa98a3030242, 0x12835b0145706fbe, 0x243185be4ee4b28c, 0x550c7dc3d5ffb4e2] ++
   [0x72be5d74f27b896f, 0x80deb1fe3b1696b1, 0x9bdc06a725c71235, 0xc19bf174cf692694] ++
   [0xe49b69c19ef14ad2, 0xefbe4786384f25e3, 0x0fc19dc68b8cd5b5, 0x240ca1cc77ac9c65] ++
   [0x2de92c6f592b0275, 0x4a7484aa6ea6e483, 0x5cb0a9dcbd41fbd4, 0x76f988da831153b5] ++
   [0x983e5152ee66dfab, 0xa831c66d2db43210, 0xb00327c898fb213f, 0xbf597fc7beef0ee4] ++
   [0xc6e00bf33da88fc2, 0xd5a79147930aa725, 0x06ca6351e003826f, 0x142929670a0e6e70] ++
   [0x27b70a8546d22ffc, 0x2e1b21385c26c926, 0x4d2c6dfc5ac42aed, 0x53380d139d95b3df] ++
   [0x650a73548baf63de, 0x766a0abb3c77b2a8, 0x81c2c92e47edaee6, 0x92722c851482353b] ++
   [0xa2bfe8a14cf10364, 0xa81a664bbc423001, 0xc24b8b70d0f89791, 0xc76c51a30654be30] ++
   [0xd192e819d6ef5218, 0xd69906245565a910, 0xf40e35855771202a, 0x106aa07032bbd1b8] ++
   [0x19a4c116b8d2d0c8, 0x1e376c085141ab53, 0x2748774cdf8eeb99, 0x34b0bcb5e19b48a8] ++
   [0x391c0cb3c5c95a63, 0x4ed8aa4ae3418acb, 0x5b9cca4f7763e373, 0x682e6ff3d6b2b8a3] ++
   [0x748f82ee5defb2fc, 0x78a5636f43172f60, 0x84c87814a1f0ab72, 0x8cc702081a6439ec] ++
   [0x90befffa23631e28, 0xa4506cebde82bde9, 0xbef9a3f7b2c67915, 0xc67178f2e372532b] ++
   [0xca273eceea26619c, 0xd186b8c721c0c207, 0xeada7dd6cde0eb1e, 0xf57d4f7fee6ed178] ++
   [0x06f067aa72176fba, 0x0a637dc5a2c898a6, 0x113f9804bef90dae, 0x1b710b35131c471b] ++
   [0x28db77f523047d84, 0x32caab7b40c72493, 0x3c9ebe0a15c9bebc, 0x431d67c49c100d4c] ++
   [0x4cc5d4becb3e42b6, 0x597f299cfc657e2a, 0x5fcb6fab3ad6faec, 0x6c44198c4a475817])

/-- SHA-384's initial words. -/
def sha384Iv : List Nat :=
  ([0xcbbb9d5dc1059ed8, 0x629a292a367cd507, 0x9159015a3070dd17, 0x152fecd8f70e5939] ++
   [0x67332667ffc00b31, 0x8eb44a8768581511, 0xdb0c2e0d64f98fa7, 0x47b5481dbefa4fa4])

/-- SHA-256 of bytes. -/
def sha256 (l : List Byte) : List Byte := (shaRun sha256Params sha256K sha256Iv l).flatMap (natBe 4)

/-- SHA-384 of bytes. -/
def sha384 (l : List Byte) : List Byte := ((shaRun sha512Params sha512K sha384Iv l).flatMap (natBe 8)).take 48

/-- HMAC-SHA-384 of a message under a key (R449). -/
def hmacSha384 (key msg : List Byte) : List Byte :=
  let k := padTo 128 (if key.length > 128 then sha384 key else key)
  sha384 (k.map (fun b => b ^^^ 0x5C#8) ++ sha384 (k.map (fun b => b ^^^ 0x36#8) ++ msg))

end Sys2Proof.Machine
end

