-- ==== Sys2Proof/Config.lean ====
section
/-! DEFINITION. What the spec leaves open: one free function, with no body, from which every open value is drawn. -/

namespace Sys2Proof

/-- The open values of the block, one fresh natural number for every draw (log entry 7). Nothing can be proved of it: a claim
holds whatever it answers. A bit, a word or a choice among several outcomes is taken from it by the drawing operation. -/
opaque Config.freeNat : Nat → Nat

/-- The scale of the scores of a latent-class model, by its identity, in FP32: the spec gives log2 e / √d and no head dimension d for it
(log entry 94). -/
opaque Config.latentScale : Nat → BitVec 32

end Sys2Proof
end

