-- ==== Sys2Proof/Machine/Dict.lean ====
section
/-! DEFINITION. The dictionary of objects: one row for every object of the spec's object tables (R2, R82, R166, R200, R210,
R250, R276, R313, R364, R383, R412, R438, R457, R464–R474). -/

namespace Sys2Proof.Machine

open Sys2Proof

/-- A row of the dictionary: first index, how many indices (one per unit), first and last sub-index, type code (R440), access
class (0 RO, 1 RW, 2 WO, 3 RWS), longest value, BLOB entry size, length and value of the default, unit text (R460). -/
structure ObjRow where
  index : Nat
  units : Nat
  lo : Nat
  hi : Nat
  type : Nat
  access : Nat
  max : Nat
  entry : Nat
  dlen : Nat
  dval : Nat
  unit : String

/-- Objects of the 0x1000 range. -/
def dict1 : List ObjRow :=
  [⟨0x1000, 1, 0x01, 0x01, 9, 0, 32, 0, 0, 0, ""⟩,
   ⟨0x1000, 1, 0x02, 0x02, 9, 0, 32, 0, 0, 0, ""⟩,
   ⟨0x1000, 1, 0x03, 0x03, 3, 0, 2, 0, 2, 8090, ""⟩,
   ⟨0x1000, 1, 0x04, 0x04, 3, 0, 2, 0, 0, 0, ""⟩,
   ⟨0x1000, 1, 0x05, 0x05, 9, 0, 32, 0, 0, 0, ""⟩,
   ⟨0x1000, 1, 0x06, 0x06, 2, 0, 1, 0, 0, 0, ""⟩,
   ⟨0x1000, 1, 0x07, 0x07, 4, 0, 4, 0, 4, 1, ""⟩,
   ⟨0x1100, 1, 0x01, 0x01, 2, 0, 1, 0, 0, 0, "bit mask"⟩,
   ⟨0x1100, 1, 0x02, 0x02, 3, 0, 2, 0, 0, 0, "bit mask"⟩,
   ⟨0x1100, 1, 0x03, 0x03, 1, 0, 1, 0, 0, 0, ""⟩,
   ⟨0x1100, 1, 0x04, 0x04, 4, 0, 4, 0, 0, 0, "MiB"⟩,
   ⟨0x1100, 1, 0x05, 0x05, 3, 0, 2, 0, 0, 0, "bit mask"⟩,
   ⟨0x1100, 1, 0x06, 0x06, 3, 0, 2, 0, 0, 0, "W"⟩,
   ⟨0x1100, 1, 0x07, 0x07, 3, 0, 2, 0, 0, 0, "W"⟩,
   ⟨0x1100, 1, 0x08, 0x08, 3, 0, 2, 0, 0, 0, "bit mask"⟩]

/-- Objects of the 0x2000 range. -/
def dict2 : List ObjRow :=
  [⟨0x2000, 1, 0x01, 0x01, 3, 3, 2, 0, 2, 0, "W"⟩,
   ⟨0x2000, 1, 0x02, 0x02, 4, 0, 4, 0, 0, 0, "µs"⟩,
   ⟨0x2000, 1, 0x03, 0x03, 2, 0, 1, 0, 1, 0, ""⟩,
   ⟨0x2000, 1, 0x04, 0x04, 2, 1, 1, 0, 1, 5, ""⟩,
   ⟨0x2000, 1, 0x05, 0x05, 2, 2, 1, 0, 0, 0, ""⟩,
   ⟨0x2000, 1, 0x06, 0x06, 2, 1, 1, 0, 1, 4, ""⟩,
   ⟨0x2000, 1, 0x07, 0x07, 4, 0, 4, 0, 0, 0, "W"⟩,
   ⟨0x2000, 1, 0x08, 0x08, 4, 0, 4, 0, 0, 0, "W"⟩,
   ⟨0x2000, 1, 0x09, 0x09, 2, 0, 1, 0, 1, 0, "bit mask"⟩,
   ⟨0x2000, 1, 0x0A, 0x0A, 5, 0, 8, 0, 8, 0, "count"⟩,
   ⟨0x2010, 1, 0x01, 0x10, 4, 1, 4, 0, 4, 150, "µs"⟩,
   ⟨0x2011, 1, 0x01, 0x10, 2, 0, 1, 0, 1, 0, ""⟩,
   ⟨0x2020, 1, 0x01, 0x10, 3, 3, 2, 0, 2, 0, "W"⟩,
   ⟨0x2040, 1, 0x01, 0x01, 4, 3, 4, 0, 4, 200, "ct"⟩,
   ⟨0x2400, 1, 0x01, 0x01, 11, 0, 8, 0, 0, 0, "ct"⟩,
   ⟨0x2400, 1, 0x02, 0x02, 2, 3, 1, 0, 1, 0, ""⟩,
   ⟨0x2400, 1, 0x03, 0x03, 2, 0, 1, 0, 1, 0, ""⟩,
   ⟨0x2400, 1, 0x04, 0x04, 2, 0, 1, 0, 1, 0, ""⟩,
   ⟨0x2400, 1, 0x05, 0x05, 3, 3, 2, 0, 2, 1, "pulses"⟩,
   ⟨0x2400, 1, 0x06, 0x06, 3, 3, 2, 0, 2, 1, "ct"⟩,
   ⟨0x2400, 1, 0x07, 0x07, 7, 3, 8, 0, 8, 0, "ns"⟩,
   ⟨0x2400, 1, 0x08, 0x08, 4, 3, 4, 0, 4, 100, "ct"⟩,
   ⟨0x2400, 1, 0x09, 0x09, 6, 0, 4, 0, 4, 0, "0.001 ppm"⟩,
   ⟨0x2400, 1, 0x0A, 0x0A, 6, 0, 4, 0, 4, 0, "ns"⟩,
   ⟨0x2400, 1, 0x0B, 0x0B, 5, 0, 8, 0, 8, 0, "count"⟩,
   ⟨0x2400, 1, 0x0C, 0x0C, 5, 0, 8, 0, 8, 0, "count"⟩]

/-- Objects of the 0x3000 range. -/
def dict3 : List ObjRow :=
  [⟨0x3000, 16, 0x01, 0x01, 5, 3, 8, 0, 8, 0, "bit mask"⟩,
   ⟨0x3000, 16, 0x02, 0x02, 3, 3, 2, 0, 2, 0, "bit mask"⟩,
   ⟨0x3000, 16, 0x03, 0x03, 10, 3, 24, 2, 24, 0, ""⟩,
   ⟨0x3000, 16, 0x04, 0x04, 4, 3, 4, 0, 4, 0, "GiB"⟩,
   ⟨0x3000, 16, 0x05, 0x05, 2, 0, 1, 0, 1, 0, ""⟩,
   ⟨0x3000, 16, 0x06, 0x06, 2, 3, 1, 0, 1, 0, ""⟩,
   ⟨0x3000, 16, 0x07, 0x07, 5, 3, 8, 0, 8, 0, "address"⟩,
   ⟨0x3000, 16, 0x08, 0x08, 5, 3, 8, 0, 8, 0, "address"⟩,
   ⟨0x3000, 16, 0x09, 0x09, 4, 0, 4, 0, 4, 0, ""⟩,
   ⟨0x3000, 16, 0x0A, 0x0A, 3, 3, 2, 0, 2, 511, "bit mask"⟩,
   ⟨0x3000, 16, 0x0B, 0x0B, 4, 3, 4, 0, 4, 100000, "ct"⟩,
   ⟨0x3000, 16, 0x0C, 0x0C, 4, 3, 4, 0, 4, 10000, "ct"⟩,
   ⟨0x3000, 16, 0x0D, 0x0D, 4, 3, 4, 0, 4, 0, ""⟩,
   ⟨0x3000, 16, 0x0E, 0x0E, 4, 3, 4, 0, 4, 0, ""⟩,
   ⟨0x3000, 16, 0x0F, 0x0F, 10, 3, 512, 8, 0, 0, ""⟩,
   ⟨0x3000, 16, 0x10, 0x10, 5, 0, 8, 0, 8, 0, "count"⟩,
   ⟨0x3000, 16, 0x11, 0x11, 5, 0, 8, 0, 8, 0, "count"⟩,
   ⟨0x3000, 16, 0x12, 0x12, 5, 0, 8, 0, 8, 0, "count"⟩,
   ⟨0x3010, 1, 0x01, 0x01, 4, 3, 4, 0, 4, 100000, "ct"⟩,
   ⟨0x3010, 1, 0x04, 0x04, 4, 3, 4, 0, 4, 1000, "ct"⟩,
   ⟨0x3400, 16, 0x01, 0x0A, 4, 3, 4, 0, 4, 4294967295, "As R375"⟩,
   ⟨0x3400, 16, 0x0B, 0x0B, 5, 0, 8, 0, 8, 0, "count"⟩]

/-- Objects of the 0x4000 range. -/
def dict4 : List ObjRow :=
  [⟨0x4000, 12, 0x01, 0x01, 3, 1, 2, 0, 2, 65535, "bit mask"⟩,
   ⟨0x4000, 12, 0x02, 0x02, 3, 0, 2, 0, 2, 0, "bit mask"⟩,
   ⟨0x4000, 12, 0x03, 0x03, 5, 0, 8, 0, 8, 0, "bit mask"⟩,
   ⟨0x4000, 12, 0x04, 0x04, 4, 0, 4, 0, 4, 73728, "MiB"⟩,
   ⟨0x4000, 12, 0x05, 0x05, 4, 0, 4, 0, 4, 4608, "MiB"⟩,
   ⟨0x4000, 12, 0x06, 0x06, 2, 0, 1, 0, 1, 0, ""⟩,
   ⟨0x4000, 12, 0x07, 0x07, 6, 0, 4, 0, 0, 0, "0.01 °C"⟩,
   ⟨0x4000, 12, 0x08, 0x08, 6, 0, 4, 0, 0, 0, "0.01 °C"⟩,
   ⟨0x4000, 12, 0x09, 0x09, 5, 0, 8, 0, 8, 0, "count"⟩,
   ⟨0x4000, 12, 0x0A, 0x0A, 5, 0, 8, 0, 8, 0, "count"⟩,
   ⟨0x4000, 12, 0x0B, 0x0B, 5, 0, 8, 0, 8, 0, "count"⟩,
   ⟨0x4000, 12, 0x0C, 0x0C, 5, 0, 8, 0, 8, 0, "count"⟩,
   ⟨0x4000, 12, 0x0D, 0x0D, 2, 0, 1, 0, 1, 0, ""⟩,
   ⟨0x4000, 12, 0x0E, 0x0E, 5, 0, 8, 0, 8, 0, "address"⟩,
   ⟨0x4000, 12, 0x0F, 0x0F, 5, 0, 8, 0, 8, 0, "count"⟩,
   ⟨0x4000, 12, 0x10, 0x10, 10, 0, 18432, 32, 0, 0, ""⟩,
   ⟨0x4040, 1, 0x01, 0x0C, 4, 3, 4, 0, 4, 0, ""⟩,
   ⟨0x4800, 1, 0x01, 0x01, 4, 1, 4, 0, 4, 1000, "count"⟩,
   ⟨0x4800, 1, 0x02, 0x02, 4, 1, 4, 0, 4, 1000000, "ct"⟩,
   ⟨0x4800, 1, 0x03, 0x03, 4, 3, 4, 0, 4, 64, "ct"⟩,
   ⟨0x4800, 1, 0x10, 0x10, 5, 0, 8, 0, 8, 0, "count"⟩,
   ⟨0x4800, 1, 0x11, 0x11, 5, 0, 8, 0, 8, 0, "count"⟩,
   ⟨0x4800, 1, 0x12, 0x12, 5, 0, 8, 0, 8, 0, "count"⟩,
   ⟨0x4800, 1, 0x13, 0x13, 5, 0, 8, 0, 8, 0, "count"⟩,
   ⟨0x4800, 1, 0x14, 0x14, 5, 0, 8, 0, 8, 0, "count"⟩,
   ⟨0x4800, 1, 0x15, 0x15, 5, 0, 8, 0, 8, 0, "count"⟩,
   ⟨0x4800, 1, 0x16, 0x16, 5, 0, 8, 0, 8, 0, "count"⟩,
   ⟨0x4810, 12, 0x01, 0x01, 10, 0, 512, 32, 512, 0, ""⟩,
   ⟨0x4810, 12, 0x02, 0x02, 5, 0, 8, 0, 8, 0, "count"⟩]

/-- Objects of the 0x4000 range. -/
def dict4b : List ObjRow :=
  [⟨0x4810, 12, 0x03, 0x03, 5, 0, 8, 0, 8, 0, "count"⟩,
   ⟨0x4810, 12, 0x04, 0x04, 5, 0, 8, 0, 8, 0, "count"⟩,
   ⟨0x4810, 12, 0x05, 0x05, 5, 0, 8, 0, 8, 0, "count"⟩,
   ⟨0x4810, 12, 0x06, 0x06, 3, 3, 2, 0, 2, 8, "rows"⟩,
   ⟨0x4810, 12, 0x07, 0x07, 5, 0, 8, 0, 8, 0, "count"⟩,
   ⟨0x4810, 12, 0x08, 0x08, 1, 2, 1, 0, 0, 0, ""⟩,
   ⟨0x4820, 2, 0x01, 0x01, 10, 0, 512, 32, 512, 0, ""⟩,
   ⟨0x4820, 2, 0x02, 0x02, 5, 0, 8, 0, 8, 0, "count"⟩,
   ⟨0x4820, 2, 0x03, 0x03, 5, 0, 8, 0, 8, 0, "count"⟩,
   ⟨0x4820, 2, 0x04, 0x04, 5, 0, 8, 0, 8, 0, "count"⟩,
   ⟨0x4820, 2, 0x05, 0x05, 1, 2, 1, 0, 0, 0, ""⟩]

/-- Objects of the 0x5000 range. -/
def dict5 : List ObjRow :=
  [⟨0x5000, 1, 0x01, 0x01, 3, 0, 2, 0, 2, 4096, "sessions"⟩,
   ⟨0x5000, 1, 0x02, 0x02, 3, 0, 2, 0, 2, 8192, "tokens"⟩,
   ⟨0x5000, 1, 0x07, 0x07, 2, 3, 1, 0, 1, 2, "steps"⟩,
   ⟨0x5000, 1, 0x08, 0x08, 4, 3, 4, 0, 4, 1000000, "ct"⟩,
   ⟨0x5000, 1, 0x09, 0x09, 3, 0, 2, 0, 2, 0, "bit mask"⟩,
   ⟨0x5100, 16, 0x01, 0x01, 2, 0, 1, 0, 1, 0, ""⟩,
   ⟨0x5100, 16, 0x02, 0x02, 4, 0, 4, 0, 4, 0, "pages"⟩,
   ⟨0x5100, 16, 0x03, 0x03, 4, 0, 4, 0, 4, 0, "pages"⟩,
   ⟨0x5100, 16, 0x04, 0x04, 4, 3, 4, 0, 4, 0, "pages"⟩,
   ⟨0x5100, 16, 0x05, 0x05, 2, 0, 1, 0, 1, 4, "pages"⟩,
   ⟨0x5100, 16, 0x06, 0x06, 3, 3, 2, 0, 2, 64, "pages"⟩,
   ⟨0x5100, 16, 0x07, 0x07, 3, 3, 2, 0, 2, 8, "steps"⟩,
   ⟨0x5100, 16, 0x08, 0x08, 8, 3, 4, 0, 4, 1064304640, ""⟩,
   ⟨0x5100, 16, 0x09, 0x09, 1, 3, 1, 0, 1, 1, ""⟩,
   ⟨0x5100, 16, 0x0A, 0x0A, 4, 3, 4, 0, 4, 0, "pages"⟩,
   ⟨0x5100, 16, 0x0B, 0x0B, 4, 0, 4, 0, 4, 0, "pages"⟩,
   ⟨0x5100, 16, 0x0C, 0x0C, 5, 0, 8, 0, 8, 0, "count"⟩,
   ⟨0x5100, 16, 0x0D, 0x0D, 5, 0, 8, 0, 8, 0, "blocks"⟩,
   ⟨0x5100, 16, 0x0E, 0x0E, 5, 0, 8, 0, 8, 0, "count"⟩,
   ⟨0x5100, 16, 0x0F, 0x0F, 5, 0, 8, 0, 8, 0, "count"⟩,
   ⟨0x5100, 16, 0x10, 0x10, 5, 0, 8, 0, 8, 0, "count"⟩,
   ⟨0x5100, 16, 0x11, 0x11, 5, 0, 8, 0, 8, 0, "count"⟩,
   ⟨0x5100, 16, 0x12, 0x12, 2, 3, 1, 0, 1, 0, "members"⟩,
   ⟨0x5100, 16, 0x13, 0x13, 2, 3, 1, 0, 1, 255, "%"⟩,
   ⟨0x5200, 16, 0x01, 0x01, 3, 0, 2, 0, 2, 0, "sessions"⟩,
   ⟨0x5200, 16, 0x03, 0x03, 3, 3, 2, 0, 2, 8192, "tokens"⟩,
   ⟨0x5200, 16, 0x04, 0x04, 3, 3, 2, 0, 2, 512, "tokens"⟩,
   ⟨0x5200, 16, 0x05, 0x05, 3, 3, 2, 0, 2, 256, "sessions"⟩,
   ⟨0x5200, 16, 0x06, 0x06, 2, 3, 1, 0, 1, 4, "nodes"⟩,
   ⟨0x5200, 16, 0x07, 0x07, 2, 3, 1, 0, 1, 3, "levels"⟩]

/-- Objects of the 0x5000 range. -/
def dict5b : List ObjRow :=
  [⟨0x5200, 16, 0x08, 0x08, 2, 3, 1, 0, 1, 1, "children"⟩,
   ⟨0x5200, 16, 0x09, 0x09, 5, 0, 8, 0, 8, 0, "count"⟩,
   ⟨0x5200, 16, 0x0A, 0x0A, 5, 0, 8, 0, 8, 0, "count"⟩,
   ⟨0x5200, 16, 0x0B, 0x0B, 5, 0, 8, 0, 8, 0, "count"⟩,
   ⟨0x5200, 16, 0x0C, 0x0C, 5, 0, 8, 0, 8, 0, "count"⟩,
   ⟨0x5200, 16, 0x0D, 0x0D, 5, 0, 8, 0, 8, 0, "count"⟩,
   ⟨0x5200, 16, 0x0E, 0x0E, 5, 0, 8, 0, 8, 0, "count"⟩,
   ⟨0x5200, 16, 0x0F, 0x0F, 1, 0, 1, 0, 1, 0, ""⟩,
   ⟨0x5200, 16, 0x10, 0x10, 5, 0, 8, 0, 8, 0, "count"⟩,
   ⟨0x5800, 16, 0x01, 0x01, 2, 0, 1, 0, 1, 0, "slots"⟩,
   ⟨0x5800, 16, 0x02, 0x02, 10, 0, 1024, 16, 0, 0, ""⟩,
   ⟨0x5800, 16, 0x03, 0x03, 3, 0, 2, 0, 2, 256, ""⟩,
   ⟨0x5800, 16, 0x04, 0x04, 5, 0, 8, 0, 8, 0, "count"⟩]

/-- Objects of the 0x6000 range. -/
def dict6 : List ObjRow :=
  [⟨0x6000, 1, 0x01, 0x01, 3, 3, 2, 0, 2, 4095, ""⟩,
   ⟨0x6000, 1, 0x02, 0x02, 4, 3, 4, 0, 4, 1000000, "ct"⟩,
   ⟨0x6000, 1, 0x03, 0x03, 5, 0, 8, 0, 8, 0, "count"⟩,
   ⟨0x6000, 1, 0x04, 0x04, 5, 0, 8, 0, 8, 0, "count"⟩,
   ⟨0x6000, 1, 0x05, 0x05, 5, 0, 8, 0, 8, 0, "count"⟩,
   ⟨0x6010, 9, 0x01, 0x01, 2, 3, 1, 0, 1, 0, ""⟩,
   ⟨0x6010, 9, 0x02, 0x02, 2, 0, 1, 0, 1, 0, ""⟩,
   ⟨0x6010, 9, 0x03, 0x03, 2, 0, 1, 0, 1, 0, "lanes"⟩,
   ⟨0x6010, 9, 0x04, 0x04, 3, 0, 2, 0, 2, 4095, ""⟩,
   ⟨0x6010, 9, 0x05, 0x05, 5, 0, 8, 0, 8, 0, "count"⟩,
   ⟨0x6010, 9, 0x06, 0x06, 5, 0, 8, 0, 8, 0, "count"⟩,
   ⟨0x6010, 9, 0x07, 0x07, 5, 0, 8, 0, 8, 0, "count"⟩,
   ⟨0x6010, 9, 0x08, 0x08, 5, 0, 8, 0, 8, 0, "count"⟩,
   ⟨0x6010, 9, 0x09, 0x09, 5, 0, 8, 0, 8, 0, "count"⟩,
   ⟨0x6010, 9, 0x0A, 0x0A, 5, 0, 8, 0, 8, 0, "B"⟩,
   ⟨0x6010, 9, 0x0B, 0x0B, 5, 0, 8, 0, 8, 0, "B"⟩,
   ⟨0x6010, 9, 0x0C, 0x0C, 5, 0, 8, 0, 8, 0, "count"⟩,
   ⟨0x6040, 1, 0x01, 0x01, 10, 3, 8192, 2, 8192, 0, ""⟩,
   ⟨0x6100, 16, 0x01, 0x01, 10, 3, 65520, 16, 65520, 0, ""⟩,
   ⟨0x6100, 16, 0x02, 0x02, 5, 0, 8, 0, 8, 0, "count"⟩,
   ⟨0x6800, 1, 0x01, 0x01, 2, 0, 1, 0, 1, 0, ""⟩,
   ⟨0x6800, 1, 0x02, 0x02, 2, 0, 1, 0, 1, 0, "GT/s"⟩,
   ⟨0x6800, 1, 0x03, 0x03, 2, 0, 1, 0, 1, 0, "lanes"⟩,
   ⟨0x6800, 1, 0x04, 0x04, 2, 0, 1, 0, 1, 0, ""⟩,
   ⟨0x6800, 1, 0x05, 0x05, 1, 0, 1, 0, 1, 0, ""⟩,
   ⟨0x6800, 1, 0x06, 0x06, 4, 3, 4, 0, 4, 100, "ct"⟩,
   ⟨0x6800, 1, 0x07, 0x07, 4, 3, 4, 0, 4, 10000000, "ct"⟩,
   ⟨0x6800, 1, 0x08, 0x0B, 2, 3, 1, 0, 1, 0, "vector"⟩,
   ⟨0x6800, 1, 0x10, 0x10, 4, 3, 4, 0, 4, 0, "GiB"⟩,
   ⟨0x6800, 1, 0x11, 0x11, 10, 3, 128, 8, 0, 0, ""⟩]

/-- Objects of the 0x6000 range. -/
def dict6b : List ObjRow :=
  [⟨0x6800, 1, 0x12, 0x12, 4, 0, 4, 0, 4, 0, "MiB"⟩,
   ⟨0x6800, 1, 0x13, 0x13, 5, 0, 8, 0, 8, 0, "count"⟩,
   ⟨0x6800, 1, 0x14, 0x14, 5, 0, 8, 0, 8, 0, "count"⟩,
   ⟨0x6800, 1, 0x15, 0x15, 5, 0, 8, 0, 8, 0, "count"⟩,
   ⟨0x6800, 1, 0x16, 0x16, 5, 0, 8, 0, 8, 0, "count"⟩,
   ⟨0x6810, 16, 0x01, 0x01, 5, 3, 8, 0, 8, 0, "address"⟩,
   ⟨0x6810, 16, 0x02, 0x02, 4, 3, 4, 0, 4, 1048576, "B"⟩,
   ⟨0x6810, 16, 0x03, 0x03, 5, 3, 8, 0, 8, 0, "address"⟩,
   ⟨0x6810, 16, 0x04, 0x04, 2, 3, 1, 0, 1, 0, "vector"⟩,
   ⟨0x6810, 16, 0x05, 0x05, 3, 3, 2, 0, 2, 1, "records"⟩,
   ⟨0x6810, 16, 0x06, 0x06, 4, 3, 4, 0, 4, 50, "ct"⟩,
   ⟨0x6810, 16, 0x07, 0x07, 5, 0, 8, 0, 8, 0, "count"⟩,
   ⟨0x6810, 16, 0x08, 0x08, 5, 0, 8, 0, 8, 0, "count"⟩,
   ⟨0x6810, 16, 0x09, 0x09, 5, 0, 8, 0, 8, 0, "count"⟩,
   ⟨0x6810, 16, 0x0A, 0x0A, 5, 0, 8, 0, 8, 0, "count"⟩,
   ⟨0x6810, 16, 0x0B, 0x0B, 5, 0, 8, 0, 8, 0, "count"⟩,
   ⟨0x6810, 16, 0x0C, 0x0C, 5, 0, 8, 0, 8, 0, "count"⟩,
   ⟨0x6810, 16, 0x0D, 0x0D, 5, 0, 8, 0, 8, 0, "count"⟩]

/-- Objects of the 0x7000 range. -/
def dict7 : List ObjRow :=
  [⟨0x7000, 1, 0x01, 0x01, 4, 3, 4, 0, 4, 1000, "ct"⟩,
   ⟨0x7000, 1, 0x02, 0x02, 3, 0, 2, 0, 2, 4096, "samples"⟩,
   ⟨0x7000, 1, 0x03, 0x03, 5, 0, 8, 0, 8, 0, "count"⟩,
   ⟨0x7000, 1, 0x04, 0x04, 10, 0, 524288, 128, 524288, 0, ""⟩,
   ⟨0x7040, 1, 0x01, 0x01, 10, 0, 2048, 32, 0, 0, ""⟩,
   ⟨0x7041, 1, 0x01, 0x01, 10, 0, 512, 32, 0, 0, ""⟩,
   ⟨0x7800, 1, 0x01, 0x01, 2, 0, 1, 0, 0, 0, ""⟩,
   ⟨0x7800, 1, 0x02, 0x02, 1, 0, 1, 0, 1, 0, ""⟩,
   ⟨0x7800, 1, 0x10, 0x10, 10, 0, 1024, 64, 0, 0, ""⟩,
   ⟨0x7800, 1, 0x20, 0x20, 10, 2, 64, 1, 0, 0, ""⟩,
   ⟨0x7800, 1, 0x21, 0x21, 10, 1, 256, 8, 0, 0, ""⟩,
   ⟨0x7800, 1, 0x22, 0x22, 5, 0, 8, 0, 8, 0, "count"⟩,
   ⟨0x7800, 1, 0x23, 0x23, 5, 0, 8, 0, 8, 0, "count"⟩,
   ⟨0x7800, 1, 0x24, 0x24, 5, 0, 8, 0, 8, 0, ""⟩,
   ⟨0x7C00, 1, 0x01, 0x01, 9, 0, 32, 0, 0, 0, ""⟩,
   ⟨0x7C00, 1, 0x02, 0x02, 4, 0, 4, 0, 0, 0, ""⟩,
   ⟨0x7C00, 1, 0x03, 0x03, 10, 0, 32, 4, 0, 0, ""⟩,
   ⟨0x7C00, 1, 0x04, 0x04, 2, 0, 1, 0, 0, 0, ""⟩,
   ⟨0x7C00, 1, 0x05, 0x05, 2, 0, 1, 0, 1, 0, ""⟩,
   ⟨0x7C00, 1, 0x06, 0x06, 4, 0, 4, 0, 4, 0, ""⟩,
   ⟨0x7C00, 1, 0x10, 0x10, 5, 3, 8, 0, 8, 0, "address"⟩,
   ⟨0x7C00, 1, 0x11, 0x11, 4, 3, 4, 0, 4, 0, "B"⟩,
   ⟨0x7C00, 1, 0x12, 0x12, 2, 3, 1, 0, 1, 0, ""⟩,
   ⟨0x7F00, 1, 0x01, 0x01, 4, 2, 4, 0, 0, 0, ""⟩,
   ⟨0x7F00, 1, 0x02, 0x02, 4, 0, 4, 0, 4, 0, ""⟩,
   ⟨0x7F00, 1, 0x03, 0x03, 2, 0, 1, 0, 1, 0, ""⟩,
   ⟨0x7F00, 1, 0x04, 0x04, 2, 0, 1, 0, 1, 0, ""⟩,
   ⟨0x7F00, 1, 0x05, 0x05, 4, 0, 4, 0, 4, 0, ""⟩,
   ⟨0x7F00, 1, 0x06, 0x06, 1, 2, 1, 0, 0, 0, ""⟩,
   ⟨0x7F00, 1, 0x07, 0x07, 3, 0, 2, 0, 2, 0, "objects"⟩]

/-- Every object of the dictionary. -/
def dictRows : List ObjRow :=
  dict1 ++ dict2 ++ dict3 ++ dict4 ++ dict4b ++ dict5 ++ dict5b ++ dict6 ++ dict6b ++ dict7

/-- The row that holds an index and sub-index. -/
def dictFind (index sub : Nat) : Option ObjRow :=
  dictRows.find? (fun r => decide (r.index ≤ index) && decide (index < r.index + r.units) && decide (r.lo ≤ sub) && decide (sub ≤ r.hi))

/-- Whether an index exists (R458). -/
def dictHasIndex (index : Nat) : Bool :=
  dictRows.any (fun r => decide (r.index ≤ index) && decide (index < r.index + r.units))

/-- The highest sub-index of an index, which sub-index 0 holds (R439). -/
def dictTop (index : Nat) : Nat :=
  (dictRows.filter (fun r => decide (r.index ≤ index) && decide (index < r.index + r.units))).foldl (fun m r => Nat.max m r.hi) 0

/-- The key of an object in the stores of values. -/
def objKey (index sub : Nat) : Nat := index * 256 + sub

end Sys2Proof.Machine
end

