-- ==== Sys2Proof/Machine/State.lean ====
section
/-! DEFINITION. The state of the block: everything the spec gives the device, as plain data, and the state after reset. -/

namespace Sys2Proof.Machine

open Sys2Proof

/-- Why the block stops. It stops for nothing: every fault of the spec is a record, a counter or a report, and the device goes on. -/
inductive Fault where
  /-- Raised by no meaning; kept so that the type has a name for a stop. Safe. -/
  | stopped
deriving DecidableEq, Repr

/-- Why a command has no meaning in the model. -/
inductive Refusal where
  /-- Raised by the dispatcher for a row that has no meaning yet, with the row's name. Safe. -/
  | notModelled (mnemonic : String)
deriving DecidableEq, Repr

/-! ### Numbers -/

/-- An exact value: NaN, an infinity, or (-1)^neg * m * 2^e. A zero keeps its sign. -/
inductive Num where
  | nan
  | inf (neg : Bool)
  | fin (neg : Bool) (m : Nat) (e : Int)
deriving DecidableEq, Repr

/-! ### Messages that leave the block -/

/-- A Span packet that waits for a port, with the partition that sends it and the time its wait began (15 R434, R435). -/
structure TxPacket where
  pkt : Packet
  part : Nat
  since : Nat
  waited : Bool
deriving DecidableEq, Repr

/-- A watch message of 09 R241. -/
structure Msg where
  target : Target
  die : Nat
  bead : Nat
  status : Nat
  poison : Bool
  reclaimed : Bool
  value : W32
  stamp : Nat
  held : Bool
deriving DecidableEq, Repr

/-- What the block sends out (log entry 9). -/
inductive Output where
  | ebund (t : Transport) (counter : Nat) (bytes : List Byte)
  | spdm (t : Transport) (bytes : List Byte)
  | doe (bytes : List Byte)
  | msix (vector : Nat)
  | readiness
  | crs (addr : Nat)
  | config (addr : Nat)
  | packet (port : Nat) (bytes : List Byte)
  | control (port : Nat) (bytes : List Byte)
  | hostRead (bytes : List Byte) (poison : Bool)
  | backInvalidate (addr : Nat)
  | report (sc : Nat) (code : Nat) (detail : Nat)
  | watch (target : Target) (bytes : List Byte)
  | drift (sc pair : Nat) (producer consumer : Nat × Nat) (p c : W32)
deriving DecidableEq, Repr

/-! ### Memory -/

/-- A line of the shared cache (08 R205, 18 R476). -/
structure Line where
  data : List Byte
  dirty : Bool
  poison : Bool
deriving DecidableEq, Repr

/-- A latent error of a granule that the next read detects (18 R475): one that the granule's own code corrects, one that it cannot, or
one that the DRAM die corrects by itself before the system ECC sees it (06 R141). -/
inductive ErrKind where
  | onDie
  | corrected (syndrome : Nat)
  | uncorrectable (syndrome : Nat)
deriving DecidableEq, Repr

/-- A bead: 32-bit value and poison bit (09 R231). -/
structure Bead where
  value : W32
  poison : Bool
deriving DecidableEq, Repr

/-- A watch of 09 R238. -/
structure Watch where
  die : Nat
  bead : Nat
  cond : Nat
  value : W32
  target : Target
  timeout : Nat
  reg : Nat
deriving DecidableEq, Repr

/-- An entry of an error log (17 R466). -/
structure LogEntry where
  address : Nat
  syndrome : Nat
  count : Nat
  stamp : Nat
  source : Nat
  uncorrectable : Bool
  unit : Nat
deriving DecidableEq, Repr

/-! ### Tensor cores -/

/-- The last packet of a running XSEND, whose ACK completes it (15 R428). -/
structure SendWait where
  peer : Nat
  part : Nat
  tag : Nat
  seq : Nat
  lost : Bool
deriving DecidableEq, Repr

/-- An entry of a queue (03 R50, R51, R64): an instruction with the A and L registers captured at issue, or a barrier marker
with, for each queue of its wait mask, how many issued instructions must be complete; and the copy of its descriptor that a started
transfer uses throughout (05 R117). -/
structure QEntry where
  marker : Bool
  word : BitVec 128
  a : Store W64
  l : Store W32
  index : Nat
  iter : Nat
  waits : List Nat
  started : Bool
  since : Option Nat
  send : Option SendWait
  desc : Option (List Byte)
deriving DecidableEq, Repr

/-- A loop in progress (03 R59): first index of its body, index after its body, iterations left and iterations done. -/
structure LoopFrame where
  first : Nat
  last : Nat
  left : Nat
  iter : Nat
deriving DecidableEq, Repr

/-- A work packet of 03 R71, with the steward that wrote it. -/
structure WorkPkt where
  image : Nat
  presets : Nat
  record : Nat
  a0 : W64
  a1 : W64
  l0 : W32
  l1 : W32
  signal : W32
  tag : Nat
  partition : Nat
  flags : Nat
  sc : Nat
deriving DecidableEq, Repr

/-- The fault a completion record reports (03 R79). -/
structure FaultRec where
  queue : Nat
  code : Nat
  index : Nat
  iter : Nat
  detail : Nat
deriving DecidableEq, Repr

/-- The running kernel (03 R74–R83). -/
structure Kernel where
  pkt : WorkPkt
  count : Nat
  start : Nat
  next : Nat
  ended : Bool
  aborted : Bool
  fault : Option FaultRec
  discarded : Nat
  loops : List LoopFrame
  stall : Option (List Nat)
  stallSince : Nat
deriving DecidableEq, Repr

/-- A tensor core (03 R48, R52). Registers are sparse stores whose absent keys are 0: `v` by byte (512 each), `m` by bit (8,192
each), `acc` by element (32,768 each), `t` by entry (128 each), `tile` by cell (32 a row). `icache` holds 128-byte lines of the
kernel image by line number. In stop 1 a core is `gated`; `share` is its part of its partition's core budget, `draw` what it would
draw at 1.30 GHz, both in W, and `steps` by how many 65 MHz steps it is throttled when it would exceed its budget (10 R264, R272,
R273). -/
structure Core where
  a : Store W64
  l : Store W32
  v : Store Byte
  m : Store Bool
  acc : Store W32
  t : Store W64
  tile : Store W32
  vstatVq : W32
  vstatTq : W32
  tray : Store Nat
  nextPush : Nat
  queues : Store (List QEntry)
  issued : Store Nat
  completed : Store Nat
  kernel : Option Kernel
  pend : List WorkPkt
  lent : Bool
  parityErr : Store Bool
  icache : Store (List Byte)
  icacheErr : List Nat
  packetsDone : Nat
  dropped : Nat
  faults : Nat
  cycles : Nat
  lends : Nat
  waitSince : Option Nat
  gated : Bool
  restSince : Nat
  share : Nat
  draw : Nat
  steps : Nat
deriving DecidableEq, Repr

/-- A steward core's observable state (04 R111, 17 R471). -/
structure Steward where
  vstat : W32
  admitted : Nat
  streams : Nat
  accessFaults : Nat
  lastFault : Nat
deriving DecidableEq, Repr

/-! ### Stacks and bank engines -/

/-- The block stage of one lane: the exact sum and how many products it holds (07 R167). -/
structure Stage where
  sum : Num
  count : Nat
deriving DecidableEq, Repr

/-- A bank engine (07 R167). Stores: `g` by register, `pm` by index, `dm` by byte with `dmPoison` by word, `w` by byte (32 a
slot) with `wPoison` by slot, `x` and `xPoison` by entry, `z` by bit, `acc`, `accPoison` and `stage` by lane (256 each). `ecc` and
`arrErr` are latent errors (18 R475): one that the next instruction meets in program or data memory, and parity errors of W slots (key
the slot), X entries (0x1000 and the entry) and a0–a3 lanes (0x2000 and the lane). -/
structure Engine where
  g : Store W32
  pm : Store W64
  dm : Store Byte
  dmPoison : Store Bool
  w : Store Byte
  wPoison : Store Bool
  x : Store (BitVec 16)
  xPoison : Store Bool
  xfmt : Nat
  z : Store Bool
  le : W32
  acc : Store W32
  accPoison : Store Bool
  stage : Store Stage
  row : Option Nat
  loops : List LoopFrame
  pc : Nat
  running : Bool
  startAt : Nat
  partition : Nat
  ecc : Bool
  arrErr : Store Bool
  runs : Nat
  cols : Nat
  skipped : Nat
  stallref : Nat
  stallext : Nat
  faults : Nat
  lastCode : Nat
  lastIndex : Nat
deriving DecidableEq, Repr

/-- A launch record of 07 R187, with the steward that issued it. -/
structure LaunchRec where
  vec : Nat
  groups : Nat
  record : Nat
  signal : W32
  arg : W32
  p0 : W32
  pstride : W32
  kstride : Nat
  q0 : Nat
  q1 : Nat
  entry : Nat
  vlen : Nat
  xoff : Nat
  kwrap : Nat
  stack : Nat
  vfmt : Nat
  ngroups : Nat
  partition : Nat
  tag : Nat
  sc : Nat
deriving DecidableEq, Repr

/-- One push that a collector accepted: engine, lane offset, lanes and their poison bits (07 R183, R195). -/
structure Push where
  q : Nat
  off : Nat
  lanes : List W32
  poison : List Bool
deriving DecidableEq, Repr

/-- A group of a launch (07 R194) and the pushes it has. -/
structure Group where
  dst : Nat
  op : Nat
  fmt : Nat
  pushes : Nat
  width : Nat
  scale : W32
  signal : W32
  got : List Push
  written : Bool
deriving DecidableEq, Repr

/-- A launch that passed its checks (07 R189–R191): its groups, what its engines have done, the time they ran (in ct), and
whether its wait for a regulator is counted. -/
structure LaunchRun where
  record : LaunchRec
  groups : List Group
  start : Nat
  aborted : Bool
  firstFault : Option (Nat × Nat × Nat × Nat)
  halted : Nat
  faulted : Nat
  cols : Nat
  skipped : Nat
  stallref : Nat
  stallext : Nat
  poisoned : Nat
  time : Nat
  waited : Bool
deriving DecidableEq, Repr

/-- An order that a stack sequencer holds (07 R186): the load of a program image into a range of engines, or a launch. -/
inductive SeqOp where
  | load (q0 q1 image part : Nat)
  | launch (r : LaunchRec)
deriving DecidableEq, Repr

/-- A strip operation in progress (06 R150): seal or unseal, KEEP or CLEAR, regions, and whether the base die rewrites now. -/
structure StripOp where
  isSeal : Bool
  clear : Bool
  regions : Nat
  done : Nat
deriving DecidableEq, Repr

/-- A Prara stack. -/
structure Stack where
  mapOut : Nat
  failing : Nat
  errBursts : List (Nat × Nat × Nat)
  prot : Nat
  trans : Nat
  stripOp : Option StripOp
  refresh : Nat
  doubled : Bool
  thermal : Nat
  dram : Int
  base : Int
  owed : Store Nat
  scrubRow : Nat
  seq : List SeqOp
  named : List SeqOp
  reload : List SeqOp
  ready : Option LaunchRun
  launch : Option LaunchRun
  engines : Store Engine
  log : List (Option LogEntry)
deriving DecidableEq, Repr

/-! ### Partitions: intake, sessions, steps, rings -/

/-- A lane of an intake window (14 R394, R398): its expected sequence, whether it is stopped, when the slot of the expected sequence
was first written with a wrong check, and the slots written since its last reset. -/
structure Lane where
  expected : Nat
  stopped : Bool
  badSince : Option Nat
  fresh : Store Bool
deriving DecidableEq, Repr

/-- An accepted command packet, marked when it must be answered BAD_COMMAND (14 R394). -/
structure Accepted where
  bytes : List Byte
  bad : Bool
deriving DecidableEq, Repr

/-- A page of a partition (11 R286, R288, R290): its tier (01 R18); the device address of its row 0 in the stacks, where a spilled page
lay before, and its stripe width; its rows and the model they are for; what it holds; its shipment references; the number of
steps that must be complete before it may be freed (R291); and, while it is spilled, its rows' bytes with their poison. Its other
references are the sessions and nodes that list it. -/
structure Page where
  tier : Nat
  addr : Nat
  w : Nat
  rows : Nat
  model : Nat
  draft : Bool
  fill : Nat
  ppos : Nat
  score : W32
  ship : Nat
  poisoned : Bool
  untilStep : Nat
  stow : List (List Byte × Bool)
deriving DecidableEq, Repr

/-- A negative node (11 R305). -/
structure Negative where
  model : Nat
  adapter : Nat
  aver : Nat
  hash : Nat
  parent : Nat
  tokens : List Nat
  page : Nat
  pinned : Bool
  lastPrint : Nat
deriving DecidableEq, Repr

/-- A token entry of a step record (12 R346). -/
structure TokEntry where
  flags : Nat
  handle : Nat
  token : Nat
  pos : Nat
deriving DecidableEq, Repr

/-- A status entry of a step record (12 R347), with its place in the order of admissions and events (R344). -/
structure StatusEntry where
  ord : Nat
  status : Nat
  opcode : Nat
  handle : Nat
  tag : Nat
  detail : Nat
deriving DecidableEq, Repr

/-- The states of 12 R322. FREE is the absence of a session. -/
inductive SessState where
  | admitted | receiving | prefill | decode | shipping | idle | parked | draining | training
deriving DecidableEq, Repr

/-- What a training forward pass saves of one query head (11 R311): its merged pair (m, S), and the probabilities that the backward
pass forms from them. -/
structure SavedRow where
  token : Nat
  layer : Nat
  head : Nat
  m : W32
  s : W32
  probs : List W32
deriving DecidableEq, Repr

/-- A training job of 12 R360–R363: the block's fields; where the next dataset word lies, the words left of the sequence under way, the
position of its next token and the sequence's number (R361); the master copy of A and B and the two moments by parameter, in the
order of the payload of R356 (R362); the rows saved for the backward pass (11 R311); and of the optimizer step under way how many tokens
counted in the loss, with the cross-entropies of those whose logits are known. -/
structure Job where
  lr : W32
  beta1 : W32
  beta2 : W32
  decay : W32
  alpha : W32
  modules : Nat
  next : Nat
  left : Nat
  pos : Nat
  seq : Nat
  x : Store W32
  m : Store W32
  v : Store W32
  saved : List SavedRow
  counted : Nat
  ce : List W32
  slot : Nat
  adapter : Nat
  version : Nat
  base : Nat
  rank : Nat
  steps : Nat
  done : Nat
  batch : Nat
  tokensDone : Nat
  report : Nat
  data : Nat
  seqs : Nat
  key : W64
deriving DecidableEq, Repr

/-- A session (12 R314–R340). `base` is the position of the turn's first prompt token; `taken` and `done` count the turn's prompt
tokens in committed and in completed steps; `ahead` are pages taken for committed steps that hold no token yet, and `draftPages` those of
the draft model (R340); `history` holds the token of each position and whether it came in a prompt; a CANCEL
waits as its tag, its deciding step and its place in the partition log. -/
structure Session where
  handle : Nat
  state : SessState
  order : Nat
  turn : Nat
  prompt : List Nat
  base : Nat
  taken : Nat
  done : Nat
  maxnew : Nat
  generated : Nat
  due : Nat
  budget : Nat
  slot : Option Nat
  register : Bool
  keep : Bool
  proofs : Bool
  ship : Bool
  nodes : Nat
  temp : W32
  topp : W32
  topk : Nat
  key : W64
  stops : List Nat
  peer : Nat
  ppart : Nat
  phandle : Nat
  pages : List Nat
  ahead : List Nat
  draftPages : List Nat
  cached : Nat
  history : List (Nat × Bool)
  pendingTok : Option Nat
  steps : Nat
  delivered : Nat
  cancel : Option (Nat × Nat × Nat)
  cancels : List (Nat × Nat × Nat)
  held : List TokEntry
  final : Option Nat
  lastStep : Option Nat
  received : Nat
  total : Option Nat
  admittedAt : Nat
  adopted : Bool
  ended : Bool
  parking : Bool
  job : Option Job
deriving DecidableEq, Repr

/-- What a committed step gives one session (12 R325, R329): tokens, whether a prefill chunk, and whether it ends the prompt. -/
structure Share where
  handle : Nat
  turn : Nat
  tokens : Nat
  isPrefill : Bool
  lastChunk : Bool
  train : Bool
deriving DecidableEq, Repr

/-- A committed step (12 R325); `inStack` is its path under 01 R14. -/
structure CStep where
  number : Nat
  shares : List Share
  intake : Nat
  nodeLimit : Nat
  depth : Nat
  branching : Nat
  sample : Nat
  decay : W32
  inStack : Bool
deriving DecidableEq, Repr

/-- The tree of a session in the step in flight (12 R335), with the ancestor word of each node (11 R280). -/
structure Tree where
  handle : Nat
  nodes : List DraftNode
  words : List W64
deriving DecidableEq, Repr

/-- A token tag (11 R277). -/
structure Tag where
  pos : Nat
  seg : Nat
  par : Nat
deriving DecidableEq, Repr

/-- A segment of a batch row (11 R277): its session, whether it is a tree, the place of its first token among the step's tokens row after
row, and its token ids. -/
structure Seg where
  handle : Nat
  tree : Bool
  first : Nat
  toks : List Nat
deriving DecidableEq, Repr

/-- A part of a KV head of a session (11 R294): its place, its pages, whether latent rows are expanded into per-head keys and values
(R299), and for a stack part the bank page lists of each launch, by the engine's bank-linear index (R288, R297). -/
structure KvPart where
  site : Site
  pages : List Nat
  expanded : Bool
  launches : List (List (Nat × List W32))
deriving DecidableEq, Repr

/-- How the keys of a KV head of a session are divided (11 R294). -/
structure Split where
  handle : Nat
  head : Nat
  parts : List KvPart
deriving DecidableEq, Repr

/-- The kinds of work of 01 R14. -/
inductive StepWork where
  | products | attention | elementwise | sampling
deriving DecidableEq, Repr

/-- Who does a part of a layer (01 R14). -/
inductive WorkSite where
  | engines | cores | split | stewards
deriving DecidableEq, Repr

/-- The merged result of a query head for one token (11 R295): m, s and the output. -/
structure HeadOut where
  token : Nat
  layer : Nat
  head : Nat
  m : W32
  s : W32
  o : List W32
deriving DecidableEq, Repr

/-- The step in flight (12 R324): its batch rows with their segments, its training tokens' marks (12 R361), the page lists it carries as
page numbers and as the bytes of their entries (11 R288), and how it divides the work. -/
structure Flight where
  step : CStep
  start : Nat
  trees : List Tree
  rows : List (List Tag)
  segs : List Seg
  marks : List (Nat × List Bool)
  lists : List (Nat × List Nat)
  entries : List (Nat × List Byte)
  splits : List Split
  plan : List (StepWork × WorkSite)
deriving DecidableEq, Repr

/-- The ring of a partition (14 R401–R408). -/
structure Ring where
  producer : Nat
  lastseq : Option Nat
  seq : Nat
  consumer : Nat
  want : W64
  lastWant : W64
  written : List (Nat × Nat)
  waited : Bool
deriving DecidableEq, Repr

/-- An adapter slot (12 R357), with the tag and the place in the partition log of the load that fills it, and the fields and payload of
its image (R356) as the stewards lay it out. -/
structure Slot where
  state : Nat
  id : Nat
  version : Nat
  tier : Nat
  rank : Nat
  tag : Nat
  ord : Nat
  image : Nat
  bytes : Nat
  poisoned : Bool
  modules : Nat
  fmt : Nat
  alpha : W32
  payload : List Byte
deriving DecidableEq, Repr

/-- A resident or draft model (13 R370), with its manifest's header, the ranges (address, bytes) that its manifest names, and its
weights in entry order as (role, layer, elements) (R371). -/
structure Model where
  identity : Nat
  kind : Nat
  kvclass : Nat
  layers : Nat
  dmodel : Nat
  vocab : Nat
  kvheads : Nat
  kvdim : Nat
  header : List Byte
  named : List (Nat × Nat)
  weights : List (Nat × Nat × Nat)
deriving DecidableEq, Repr

/-- A page packet held for a handle with no ADOPT, since its arrival (12 R355). -/
structure HeldPages where
  handle : Nat
  since : Nat
  pkt : Packet
deriving DecidableEq, Repr

/-- A containment found and not yet carried out (18 R487, R488): scope by handle (none: partition), cause, code, class. -/
structure Containment where
  handle : Option Nat
  cause : Nat
  code : Nat
deriving DecidableEq, Repr

/-- A packet that arrived ahead of the sequence (15 R425): once performed, 0 its signal is dropped, 1 it is applied, 2 applied with
poison set. -/
structure Arrival where
  port : Nat
  pkt : Packet
  performed : Option Nat
deriving DecidableEq, Repr

/-- A shipment reference (15 R437): the session and page, the peer, and the sequence number of the page's last packet. -/
structure ShipRef where
  handle : Nat
  page : Nat
  peer : Nat
  ppart : Nat
  seq : Nat
deriving DecidableEq, Repr

/-- A partition; `waits` are the intake lanes whose slots wait for room in the queue, in order (14 R397), and `heads` the merged query heads
that the step last completed left (11 R295). -/
structure Part where
  lanes : Store Lane
  slots : Store Byte
  slotErr : Store ErrKind
  waits : List Nat
  queue : List Accepted
  sessions : List Session
  orderNo : Nat
  logNo : Nat
  committed : List CStep
  flight : Option Flight
  stepNo : Nat
  doneNo : Option Nat
  lastIntake : Nat
  owed : List StatusEntry
  deferred : List (Nat × StatusEntry)
  model : Option Model
  draft : Option Model
  heads : List HeadOut
  pages : Store Page
  pool : Store Nat
  nextPage : Nat
  negatives : List Negative
  adapters : Store Slot
  ring : Ring
  heldPages : List HeldPages
  buckets : Store Int
  held : Bool
  holdReached : Bool
  contained : Option Nat
  cont : List Containment
  stop : Nat
  boundary : Nat
  idleSince : Nat
  reckoned : Nat
  budget : Nat
  coreBudget : Nat
  tokensSince : Nat
  txSeq : Store Nat
  lastAck : Store Nat
  rxNext : Store Nat
  arrived : Store (List Arrival)
  ships : List ShipRef
deriving DecidableEq, Repr

/-! ### Span ports -/

/-- A Span port (15 R415–R419). `waited` says that the packet first in `rx` waits for a regulator, and that its wait is counted (13
R376). -/
structure Port where
  state : Nat
  width : Nat
  peer : Nat
  caps : Bool
  txFrame : Nat
  rxFrame : Nat
  unacked : List (Nat × List TxPacket)
  nak : Bool
  fails : Nat
  credits : List Nat
  freed : List Nat
  queue : List TxPacket
  rx : List Packet
  waited : Bool
deriving DecidableEq, Repr

/-! ### Ebund, commits, update, link -/

/-- An open segmented transfer (16 R450, R451). -/
structure Transfer where
  handle : Nat
  principal : Nat
  write : Bool
  staged : Bool
  index : Nat
  sub : Nat
  total : Nat
  data : Store Byte
  seen : Store Bool
  last : Nat
deriving DecidableEq, Repr

/-- Staging and commit (16 R453–R457). `values` are in the commit and not yet in force; `before` are those it replaced, and `saved`
the models and pools; `stripped` are the strip operations carried out (stack, regions). -/
structure Commit where
  state : Nat
  token : Nat
  phase : Nat
  reason : Nat
  ticked : Bool
  tick : Nat
  phased : Bool
  values : Store (List Byte)
  before : Store (List Byte)
  held : List Nat
  waits : List Nat
  saved : List (Nat × Option Model × Option Model × Store Nat)
  stripped : List (Nat × Nat)
deriving DecidableEq, Repr

/-- Firmware and update (17 R474, 19 R503–R515): the slot in force and its firmware, the update state and reason, the operation in
force that has yet to act, the image read, the pending slot of the selector record, and the measurements. -/
structure Firm where
  slot : Nat
  name : List Byte
  svn : List Nat
  update : Nat
  reason : Nat
  image : List Byte
  trial : Bool
  op : Nat
  pendingSlot : Option Nat
  measures : List (List Byte)
deriving DecidableEq, Repr

/-- What the package and its board fix. -/
structure Hw where
  variant : Variant
  gddrMiB : Nat
  serial : List Byte
  stepping : Nat
  fulltest : Bool
  ssc : Nat
  edge : Nat
  lifecycle : Nat
  antiRollback : List Nat
  keyDigests : List (List Byte)
  bootRom : List Byte
  certChain : List Byte
  sigs : List (Nat × List Byte × List Byte × List Byte)
  flash : Store Byte
deriving DecidableEq, Repr

/-- How far the device has started (19 R494–R498, R506). A Fatal error raised before ready keeps the phase that the start had reached. -/
inductive Boot where
  | off
  | reset
  | starting (phase : Nat)
  | ready
  | halted
  | fatal (before : Option Nat)
deriving DecidableEq, Repr

/-- The cadence lock (10 R255): its state, the source in use, the state an acquisition came from, consecutive good and bad
offsets, the phase still to be slewed in ticks, a forward step that the next tick makes, offsets counted toward a takeover by
PTP, consecutive groups of N pulses counted with their least and greatest length in ps, the pulses of the group under way with its
length so far and the counter at its start, the best clock announced with its data set, and the last measurements. -/
structure Cadence where
  lock : Nat
  source : Nat
  cameFrom : Nat
  good : Nat
  bad : Nat
  slew : Int
  stepBy : Nat
  ptpGood : Nat
  groups : Nat
  lo : Nat
  hi : Nat
  edges : Nat
  groupPs : Nat
  groupFrom : Nat
  master : Option (Nat × List Nat)
  phaseErr : Int
  rate : Int
deriving DecidableEq, Repr

/-- Power and temperature of the dies and the device (10 R261–R275). -/
structure Power where
  stop : Nat
  idleSince : Nat
  lastPower : Nat
  peaks : List (Nat × Nat)
  gatedDraw : Nat
  throttle : Nat
  episodes : Nat
  dieThermal : Store Nat
  dieTemp : Store Int
  coolant : Bool
  draining : Bool
  powerDownReady : Bool
deriving DecidableEq, Repr

/-- The host link (14 R384–R386, R411). -/
structure Link where
  level : Nat
  width : Nat
  speed : Nat
  since : Nat
  tracked : List Nat
deriving DecidableEq, Repr

/-- An SPDM responder (19 R510): version settled, algorithms settled. -/
structure Spdm where
  version : Nat
  algorithms : Bool
deriving DecidableEq, Repr

/-- The state of the block. -/
structure State where
  pending : List Instr
  free : Nat
  boot : Boot
  now : Nat
  prev : Nat
  order : Nat
  out : List Output
  hw : Hw
  fw : Firm
  tripl : Store (List Bool)
  voteFatal : Bool
  mem : Store Byte
  poison : Store Bool
  cache : Store Line
  errs : Store ErrKind
  lineErr : Store ErrKind
  objPoison : List Nat
  beads : Store Bead
  watches : List Watch
  msgs : List Msg
  cores : Store Core
  stewards : Store Steward
  prara : Store Stack
  parts : Store Part
  ports : Store Port
  spanHeld : List TxPacket
  dieLog : Store (List (Option LogEntry))
  objs : Store (List Byte)
  counters : Store Nat
  staged : Store (List Byte)
  commit : Commit
  principals : Store (List Byte × List Byte)
  transfers : List Transfer
  spdm : Store Spdm
  cad : Cadence
  power : Power
  link : Link
  faultsum : Nat
  windowErrs : Nat
  windowCrossed : Bool
  samples : Store (List Byte)
  alert : Bool
  coolantHigh : Bool
deriving DecidableEq, Repr

/-! ### Reset values of the parts -/

/-- A core after a cold start; registers the spec leaves unspecified are 0 (DESIGN CHOICE, log entry 11). -/
def Core.init : Core :=
  { a := [], l := [], v := [], m := [], acc := [], t := [], tile := [], vstatVq := 0, vstatTq := 0, tray := [],
    nextPush := 0, queues := [], issued := [], completed := [], kernel := none, pend := [], lent := false,
    parityErr := [], icache := [], icacheErr := [], packetsDone := 0, dropped := 0, faults := 0, cycles := 0, lends := 0,
    waitSince := none, gated := false,
    restSince := 0, share := 0, draw := 0, steps := 0 }

/-- A steward after a cold start. -/
def Steward.init : Steward := { vstat := 0, admitted := 0, streams := 0, accessFaults := 0, lastFault := 0 }

/-- An engine after a cold start: memories zeros (19 R499), LE all ones, not running. -/
def Engine.init : Engine :=
  { g := [], pm := [], dm := [], dmPoison := [], w := [], wPoison := [], x := [], xPoison := [], xfmt := 3, z := [],
    le := BitVec.allOnes 32, acc := [], accPoison := [], stage := [], row := none, loops := [], pc := 0, running := false,
    startAt := 0, partition := 0, ecc := false, arrErr := [], runs := 0, cols := 0, skipped := 0, stallref := 0, stallext := 0,
    faults := 0, lastCode := 0, lastIndex := 0 }

/-- The sixteen entries of an error log, none valid (17 R466). -/
def emptyLog : List (Option LogEntry) := List.replicate 16 none

/-- A stack after a cold start: every region protected (06 R153). -/
def Stack.init : Stack :=
  { mapOut := 0, failing := 0, errBursts := [], prot := 0xFFFF, trans := 0, stripOp := none, refresh := 0, doubled := false, thermal := 0,
    dram := 0, base := 0, owed := [], scrubRow := 0, seq := [], named := [], reload := [], ready := none, launch := none, engines := [],
    log := emptyLog }

/-- An intake lane after a cold start (14 R389). -/
def Lane.init : Lane := { expected := 0, stopped := false, badSince := none, fresh := [] }

/-- A ring after a cold start (14 R405, R407). -/
def Ring.init : Ring :=
  { producer := 0, lastseq := none, seq := 0, consumer := 0, want := BitVec.allOnes 64, lastWant := BitVec.allOnes 64,
    written := [], waited := false }

/-- An EMPTY adapter slot (12 R357). -/
def Slot.init : Slot :=
  { state := 0, id := 0, version := 0, tier := 0, rank := 0, tag := 0, ord := 0, image := 0, bytes := 0, poisoned := false,
    modules := 0, fmt := 0, alpha := 0, payload := [] }

/-- A page that is free. -/
def Page.init : Page :=
  { tier := 0, addr := 0, w := 0, rows := 0, model := 0, draft := false, fill := 0, ppos := 0, score := 0, ship := 0, poisoned := false,
    untilStep := 0, stow := [] }

/-- A partition after a cold start: nothing owned, no model (13 R383). -/
def Part.init : Part :=
  { lanes := [], slots := [], slotErr := [], waits := [], queue := [], sessions := [], orderNo := 0, logNo := 0, committed := [],
    flight := none, stepNo := 0,
    doneNo := none, lastIntake := 0, owed := [], deferred := [], model := none, draft := none, heads := [], pages := [],
    pool := [], nextPage := 1, negatives := [],
    adapters := [], ring := Ring.init, heldPages := [], buckets := [], held := false, holdReached := false,
    contained := none, cont := [], stop := 0, boundary := 0, idleSince := 0, reckoned := 0, budget := 0, coreBudget := 0,
    tokensSince := 0, txSeq := [],
    lastAck := [], rxNext := [], arrived := [], ships := [] }

/-- A port after a cold start: OFF, no peer (15 R438). -/
def Port.init : Port :=
  { state := 0, width := 0, peer := 0x0FFF, caps := false, txFrame := 0, rxFrame := 0, unacked := [], nak := false,
    fails := 0, credits := [512, 512, 32], freed := [0, 0, 0], queue := [], rx := [], waited := false }

/-- The commit before any request: IDLE (16 R457). -/
def Commit.init : Commit :=
  { state := 0, token := 0, phase := 0, reason := 0, ticked := false, tick := 0, phased := false, values := [], before := [],
    held := [], waits := [], saved := [], stripped := [] }

/-- The part the model takes at reset (DESIGN CHOICE, log entry 2): a WDN-4812 with 128 GiB of GDDR7, DEPLOYED, keys of zero bytes whose
SHA-384 digests are fused, and in slot 0 a firmware image of its header alone (19 R504), whose signatures of zero bytes verify. -/
def Hw.init : Hw :=
  { variant := .wdn4812, gddrMiB := 131072, serial := [0x30], stepping := 0, fulltest := false, ssc := 0, edge := 0,
    lifecycle := 2, antiRollback := [0, 0, 0, 0, 0, 0, 0, 0],
    keyDigests :=
      [natLe 48 0x404a0ae50e1ba7e25ff787315c4d3ad07bab9e7292f1c84694de5f5447fd8090c83a10038cde9cace4156ca24bff8fa3,
       natLe 48 0xf99e5cb34c55806aa3f77cf01e83047b5816fa8e1e0a1de9728c70d0c1d77aaa3de29231175f9b6989d188e63d94e797],
    bootRom := [], certChain := [],
    sigs :=
      [(0, List.replicate 32 0,
        natLe 48 0x880824646cceaf08e352d0c98b5fdfa709b8cb441aee645913ac1a4e399e108661ccfc5a21156c56382898c9a5c0e0e5,
        List.replicate 64 0),
       (1, List.replicate 1952 0,
        natLe 48 0x880824646cceaf08e352d0c98b5fdfa709b8cb441aee645913ac1a4e399e108661ccfc5a21156c56382898c9a5c0e0e5,
        List.replicate 3309 0)],
    flash := [(0x2000000, 0x46), (0x2000001, 0x57), (0x2000002, 0x4D), (0x2000003, 0x31), (0x2000004, 0x01), (0x2000009, 0x18)] }

/-- The firmware in force at reset (DESIGN CHOICE, log entry 2): that image, unnamed, security versions 0, with the digests of R511; the
spec gives the parts behind digests 3 and 4 no bounds. -/
def Firm.init : Firm :=
  { slot := 0, name := [], svn := [0, 0, 0, 0, 0, 0, 0, 0], update := 0, reason := 0, image := [], trial := false,
    op := 0, pendingSlot := none,
    measures :=
      [natLe 48 0x5bb99848f1d21ad5fb656fe7bfde4e27dae1f663bfc70c4c4307be1411b7fd216ae3b1b17e32d94c3896ac51a760b038,
       natLe 48 0xa460fa369e53703df8e8ab15d144eea39985bfbaf0cd5ec0464e1af01ad35caf3f7c89c72e70d8ac225db7fe882f12e3,
       natLe 48 0, natLe 48 0,
       natLe 48 0xc8c26f31260ed524bf40912e9fdf55002c1bd736dfb53f4cc357a789759896dff5dc7d4ea71f27562a78cf1e060550cf,
       natLe 48 0xb0df313ca36bdab1e4266b04d69dbca39c16c25b42d8b8ca5f6fbffdbc8059ab877fcadaadb474dbf64b21c6aea1dfcc] }

/-- The cadence at a cold start: FREE (10 R255). -/
def Cadence.init : Cadence :=
  { lock := 0, source := 0, cameFrom := 0, good := 0, bad := 0, slew := 0, stepBy := 0, ptpGood := 0, groups := 0, lo := 0,
    hi := 0, edges := 0, groupPs := 0, groupFrom := 0, master := none, phaseErr := 0, rate := 0 }

/-- Power and temperature at a cold start. -/
def Power.init : Power :=
  { stop := 0, idleSince := 0, lastPower := 0, peaks := [], gatedDraw := 0, throttle := 0, episodes := 0,
    dieThermal := [], dieTemp := [], coolant := false, draining := false, powerDownReady := false }

/-- The host link before its first training: down. -/
def Link.init : Link := { level := 0, width := 0, speed := 0, since := 0, tracked := [] }

/-- The device as it first reports ready after a cold start (19 R494, R495; log entry 1), with no command waiting. -/
def State.reset : State :=
  { pending := [], free := 0, boot := .ready, now := 0, prev := 0, order := 0, out := [], hw := Hw.init, fw := Firm.init,
    tripl := [], voteFatal := false,
    mem := [], poison := [], cache := [], errs := [], lineErr := [], objPoison := [], beads := [], watches := [], msgs := [],
    cores := [], stewards := [],
    prara := [], parts := [], ports := [], spanHeld := [], dieLog := [], objs := [], counters := [], staged := [], commit := Commit.init,
    principals := [], transfers := [], spdm := [], cad := Cadence.init, power := Power.init,
    link := Link.init, faultsum := 0, windowErrs := 0, windowCrossed := false, samples := [], alert := false,
    coolantHigh := true }

end Sys2Proof.Machine
end

