-- ==== Sys2Proof/Machine/Ops.lean ====
section
/-! DEFINITION. The operations that every meaning shares: units and their presence, dictionary values and counters, the address
map, memory with its homes, poison and errors, ownership, signals, beads and watches. -/

namespace Sys2Proof.Machine

open Sys2Proof

/-- The answer of a meaning. -/
abbrev Res := Host.Outcome State Fault Refusal

/-! ### Units -/

/-- A core by number. -/
def getCore (s : State) (t : Nat) : Core := sGet Core.init s.cores t

/-- The state with a core changed. -/
def updCore (s : State) (t : Nat) (f : Core → Core) : State := { s with cores := sMod Core.init s.cores t f }

/-- A stack by number. -/
def getStack (s : State) (n : Nat) : Stack := sGet Stack.init s.prara n

/-- The state with a stack changed. -/
def updStack (s : State) (n : Nat) (f : Stack → Stack) : State := { s with prara := sMod Stack.init s.prara n f }

/-- A partition by number. -/
def getPart (s : State) (p : Nat) : Part := sGet Part.init s.parts p

/-- The state with a partition changed. -/
def updPart (s : State) (p : Nat) (f : Part → Part) : State := { s with parts := sMod Part.init s.parts p f }

/-- A steward core by number. -/
def getSteward (s : State) (i : Nat) : Steward := sGet Steward.init s.stewards i

/-- The state with a steward core changed. -/
def updSteward (s : State) (i : Nat) (f : Steward → Steward) : State := { s with stewards := sMod Steward.init s.stewards i f }

/-- A Span port by number. -/
def getPort (s : State) (n : Nat) : Port := sGet Port.init s.ports n

/-- The state with a port changed. -/
def updPort (s : State) (n : Nat) (f : Port → Port) : State := { s with ports := sMod Port.init s.ports n f }

/-- An engine of a stack by bank-linear index. -/
def getEngine (k : Stack) (q : Nat) : Engine := sGet Engine.init k.engines q

/-- The state with an engine changed. -/
def updEngine (s : State) (n q : Nat) (f : Engine → Engine) : State :=
  updStack s n (fun k => { k with engines := sMod Engine.init k.engines q f })

/-- A bead; an untouched one is 0 with poison clear (09 R231). -/
def getBead (s : State) (die n : Nat) : Bead := sGet ⟨0, false⟩ s.beads (die * 4096 + n)

/-- The state with a bead set. -/
def setBead (s : State) (die n : Nat) (b : Bead) : State := { s with beads := sSet ⟨0, false⟩ s.beads (die * 4096 + n) b }

/-- The state with something sent out. -/
def emit (s : State) (o : Output) : State := { s with out := s.out ++ [o] }

/-! ### Free values -/

/-- The state after a free draw. -/
def drew (s : State) : State := { s with free := s.free + 1 }

/-- The value the next draw has. -/
def freeNat (s : State) : Nat := Config.freeNat s.free

/-- The next draw as a choice between two outcomes. -/
def freeBool (s : State) : Bool := freeNat s % 2 == 1

/-- A list in a free order: each entry is put at a freely drawn place. -/
def shuffle {α : Type} (n : Nat) (l : List α) : List α :=
  (indexed l).foldl (fun a x => let i := Config.freeNat (n + x.1) % (a.length + 1); a.take i ++ x.2 :: a.drop i) []

/-! ### Which units a variant has (00_scope.md R2, R4) -/

/-- Compute dies present, as a mask. -/
def dieMask (v : Variant) : Nat := match v with | .wdn2406 => 1 | _ => 3

/-- Prara stacks of a part, as a mask. -/
def stackMask (v : Variant) : Nat := match v with | .wdn4808 => 0x3CF | .wdn2406 => 0x03F | _ => 0xFFF

/-- Whether the part has bank engines. -/
def hasEngines (s : State) : Bool := s.hw.variant != .wdn4812P

/-- Tensor cores of a part. -/
def coreCount (v : Variant) : Nat := match v with | .wdn2406 => 32 | _ => 64

/-- Steward cores of a part. -/
def stewardCount (v : Variant) : Nat := match v with | .wdn2406 => 8 | _ => 16

/-- Span ports of a part. -/
def portCount (v : Variant) : Nat := match v with | .wdn2406 => 4 | _ => 9

/-- Whether the part has the GDDR tier's controllers. -/
def hasGddr (s : State) : Bool := s.hw.variant != .wdn2406

/-- A GDDR capacity in MiB: 0 where the tier is absent. -/
def gddrMiB (s : State) : Nat := if hasGddr s then s.hw.gddrMiB else 0

/-- Lowest and highest power cap (00_scope.md, the family table). -/
def capRange (v : Variant) : Nat × Nat :=
  match v with
  | .wdn4812 => (900, 2600)
  | .wdn4808 => (800, 2200)
  | .wdn2406 => (500, 1400)
  | .wdn4812P => (900, 2400)

/-- A die is present. -/
def diePresent (s : State) (d : Nat) : Bool := decide (d < 2) && bitAt (dieMask s.hw.variant) d

/-- A tensor core is present. -/
def corePresent (s : State) (t : Nat) : Bool := decide (t < coreCount s.hw.variant)

/-- A steward core is present. -/
def stewardPresent (s : State) (i : Nat) : Bool := decide (i < stewardCount s.hw.variant)

/-- A Span port is present. -/
def portPresent (s : State) (n : Nat) : Bool := decide (n < portCount s.hw.variant)

/-- A stack is present: of the part, and with at most 12 mapped-out channels (06 R162). -/
def stackPresent (s : State) (n : Nat) : Bool :=
  decide (n < 12) && bitAt (stackMask s.hw.variant) n && decide (popCount 48 (getStack s n).mapOut ≤ 12)

/-- The device serves: it has reached ready and no Fatal error stops it. A vote without a majority stops it at once; the Fatal
error it raises is carried out by PATROL_SCRUB (log entry 84). -/
def isReady (s : State) : Bool := decide (s.boot = .ready) && !s.voteFatal

/-- A Fatal error is in force (18 R489, R498). -/
def isFatal (s : State) : Bool := match s.boot with | .fatal _ => true | _ => false

/-! ### Dictionary values and counters -/

/-- The default of an object: 0x2000:01 takes 0x1100:07, 0x6800:08–0B their vectors, 0x6810+p:04 its partition, and
0x3000+p:0A the ports present (10 R276, 14 R412, 17 R463). -/
def objDefault (s : State) (index sub : Nat) : List Byte :=
  match dictFind index sub with
  | none => []
  | some r =>
    if index == 0x2000 && sub == 1 then natLe 2 (capRange s.hw.variant).2
    else if index == 0x6800 && 8 ≤ sub && sub ≤ 0xB then natLe 1 (8 + sub)
    else if r.index == 0x6810 && sub == 4 then natLe 1 (index - 0x6810)
    else if r.index == 0x3000 && sub == 0xA && s.hw.variant == .wdn2406 then natLe 2 0x000F
    else natLe r.dlen r.dval

/-- The value in force of an object that is written through the dictionary. -/
def objBytes (s : State) (index sub : Nat) : List Byte := sGet (objDefault s index sub) s.objs (objKey index sub)

/-- The same as a number. -/
def objNat (s : State) (index sub : Nat) : Nat := leNat (objBytes s index sub)

/-- The state with an object's value in force. -/
def setObj (s : State) (index sub : Nat) (v : List Byte) : State :=
  { s with objs := sSet (objDefault s index sub) s.objs (objKey index sub) v }

/-- A counter's value. -/
def counter (s : State) (index sub : Nat) : Nat := sGet 0 s.counters (objKey index sub)

/-- A counter raised. -/
def bump (s : State) (index sub n : Nat) : State :=
  { s with counters := sSet 0 s.counters (objKey index sub) (counter s index sub + n) }

/-- A counter or other number that the device itself sets. -/
def setCounter (s : State) (index sub n : Nat) : State := { s with counters := sSet 0 s.counters (objKey index sub) n }

/-! ### Hot-register class bits and interrupts (14 R389, R406, 18 R482) -/

/-- Sends an MSI-X message on the vector an object names. -/
def interrupt (s : State) (index sub : Nat) : State := emit s (.msix (objNat s index sub))

/-- Sets a latched FAULTSUM bit; a newly set bit raises the FAULTSUM source. -/
def setFaultBit (s : State) (i : Nat) : State :=
  if bitAt s.faultsum i then s else interrupt { s with faultsum := setBit s.faultsum i } 0x6800 0x08

/-- Asserts THERMAL_ALERT, with its FAULTSUM bit's message and its own vector (14 R406, 20 R532). -/
def assertAlert (s : State) : State :=
  if s.alert then s else interrupt (interrupt { s with alert := true } 0x6800 0x0A) 0x6800 0x08

/-- A stack is tripped: by its own temperature, or by the coolant fault (06 R163, 20 R533). -/
def stackTripped (s : State) (n : Nat) : Bool := (getStack s n).thermal == 2 || s.power.coolant

/-- A compute die is tripped likewise (10 R275). -/
def dieTripped (s : State) (d : Nat) : Bool := sGet 0 s.power.dieThermal d == 2 || s.power.coolant

/-! ### Stack geometry (06 R138, R143–R145) -/

/-- Channels present in a stack, ascending. -/
def channels (k : Stack) : List Nat := (List.range 48).filter (fun c => !bitAt k.mapOut c)

/-- C of R138. -/
def chanCount (k : Stack) : Nat := (channels k).length

/-- Z of R143: bytes of a region. -/
def regionSize (k : Stack) : Nat := 12 * chanCount k * 0x800000

/-- Backed bytes of a stack. -/
def backed (k : Stack) : Nat := 16 * regionSize k

/-- How many bank engines a stack has. -/
def engineCount (k : Stack) : Nat := 12 * chanCount k

/-- The region of a stack offset. -/
def regionOf (k : Stack) (off : Nat) : Nat := off / regionSize k

/-- Whether a region is protected. -/
def isProtected (k : Stack) (r : Nat) : Bool := bitAt k.prot r

/-- The channel of the bank with bank-linear index q. -/
def chanOfBank (k : Stack) (q : Nat) : Nat := (channels k).getD (q % chanCount k) 0

/-- The bank, by bank-linear index, that holds a backed stack offset, and the row of that bank (R144, R145). -/
def bankOf (k : Stack) (off : Nat) : Nat × Nat :=
  let r := regionOf k off
  let o := off % regionSize k
  let c := chanCount k
  if isProtected k r then (c * (o / 2048 / c % 12) + o / 2048 % c, 4096 * r + o / 2048 / (12 * c))
  else (o / 0x800000, 4096 * r + o % 0x800000 / 2048)

/-- The channel that holds a backed stack offset. -/
def chanOf (k : Stack) (off : Nat) : Nat := chanOfBank k (bankOf k off).1

/-- The stack offset of a byte of a row of the bank q (R145): row, byte within the row. -/
def bankAddr (k : Stack) (q row b : Nat) : Nat :=
  (row / 4096) * regionSize k + q * 0x800000 + (row % 4096) * 2048 + b

/-! ### The address map (08 R201, R202) -/

/-- What an address names. -/
inductive Loc where
  | stack (n off : Nat)
  | gddr (off : Nat)
  | spad (t off : Nat)
  | lmem (i off : Nat)
  | bead (d off : Nat)
  | dreg (off : Nat)
  | host (off : Nat)
  | reserved
deriving DecidableEq, Repr

/-- The place of a device physical address; bits above 51 are ignored (05 R116). -/
def locate (addr : Nat) : Loc :=
  let a := addr % 2 ^ 52
  if a ≥ 0x8000000000000 then .host (a - 0x8000000000000)
  else if a < 0x18000000000 then .stack (a / 0x2000000000) (a % 0x2000000000)
  else if a < 0x20000000000 then .reserved
  else if a < 0x30000000000 then .gddr (a - 0x20000000000)
  else if a < 0x30020000000 then .spad ((a - 0x30000000000) / 0x800000) ((a - 0x30000000000) % 0x800000)
  else if a < 0x30100000000 then .reserved
  else if a < 0x30101000000 then .lmem ((a - 0x30100000000) / 0x100000) ((a - 0x30100000000) % 0x100000)
  else if a < 0x30200000000 then .reserved
  else if a < 0x30200020000 then .bead ((a - 0x30200000000) / 0x10000) ((a - 0x30200000000) % 0x10000)
  else if a < 0x30300000000 then .reserved
  else if a < 0x30400000000 then .dreg (a - 0x30300000000)
  else .reserved

/-- The base address of a scratchpad window. -/
def spadBase (t : Nat) : Nat := 0x30000000000 + t * 0x800000

/-- Bytes of a scratchpad. -/
def spadBytes : Nat := 6291456

/-- Whether a place lies in the window of an absent unit (R3, R5). -/
def locAbsent (s : State) : Loc → Bool
  | .stack n _ => !stackPresent s n
  | .gddr _ => !hasGddr s
  | .spad t _ => !corePresent s t
  | .lmem i _ => !stewardPresent s i
  | .bead d _ => !diePresent s d
  | _ => false

/-- Whether a place is backed (R201). -/
def locBacked (s : State) (l : Loc) : Bool :=
  !locAbsent s l &&
  match l with
  | .stack n off => decide (off < backed (getStack s n))
  | .gddr off => decide (off < gddrMiB s * 0x100000)
  | .spad _ off => decide (off < spadBytes)
  | .lmem _ off => decide (off < 0x40000)
  | .bead _ off => decide (off < 0x4000)
  | .dreg off => decide (off < 0x10000)
  | .host _ => true
  | .reserved => false

/-- The windows of the units that a variant may lack (R3): first address and bytes. -/
def unitWindows : List (Nat × Nat) :=
  (List.range 12).map (fun n => (n * 0x2000000000, 0x2000000000)) ++ [(0x20000000000, 0x10000000000)] ++
  (List.range 64).map (fun t => (spadBase t, 0x800000)) ++ (List.range 16).map (fun i => (0x30100000000 + i * 0x100000, 0x100000)) ++
  (List.range 2).map (fun d => (0x30200000000 + d * 0x10000, 0x10000))

/-- The first address of a range that lies in the window of an absent unit (R3). -/
def absentIn (s : State) (lo hi : Nat) : Option Nat :=
  (unitWindows.find? (fun w => decide (w.1 < hi) && decide (lo < w.1 + w.2) && locAbsent s (locate w.1))).map (fun w => max lo w.1)

/-- The unit or region of R201 that a place lies in, as a number, with the exclusive end address of its backed range. -/
def locRange (s : State) (addr : Nat) : Nat × Nat :=
  match locate addr with
  | .stack n _ => (n, n * 0x2000000000 + backed (getStack s n))
  | .gddr _ => (12, 0x20000000000 + gddrMiB s * 0x100000)
  | .spad t _ => (100 + t, spadBase t + spadBytes)
  | .lmem i _ => (200 + i, 0x30100000000 + i * 0x100000 + 0x40000)
  | .bead d _ => (300 + d, 0x30200000000 + d * 0x10000 + 0x4000)
  | .dreg _ => (400, 0x30300010000)
  | .host _ => (500, 0x10000000000000)
  | .reserved => (600, 0)

/-! ### Homes, lines, granules (08 R203–R206, 18 R476) -/

/-- Whether an address is homed at a cache slice. -/
def isCached (addr : Nat) : Bool :=
  match locate addr with | .stack _ _ => true | .gddr _ => true | _ => false

/-- The die of an address's home. -/
def homeDie (addr : Nat) : Nat :=
  match locate addr with
  | .stack n _ => n / 6
  | .gddr off => if (off / 4096) % 16 < 8 then 0 else 1
  | .spad t _ => t / 32
  | .lmem i _ => i / 8
  | .bead d _ => d
  | _ => 0

/-- The home slice of a stack or GDDR address (R204). -/
def homeSlice (addr : Nat) : Nat :=
  8 * homeDie addr + (fld addr 9 7 ^^^ fld addr 12 10 ^^^ fld addr 15 13 ^^^ fld addr 18 16)

/-- The granule at which poison is held (R476): bytes. -/
def granule (s : State) (addr : Nat) : Nat :=
  match locate addr with
  | .stack n off => if isProtected (getStack s n) (regionOf (getStack s n) off) then 128 else 32
  | .gddr _ => 128
  | .spad _ _ => 64
  | .lmem _ _ => 8
  | .host _ => 64
  | _ => 4

/-- The indivisible burst of a location (R206): bytes. -/
def burst (addr : Nat) : Nat :=
  match locate addr with
  | .stack _ _ => 128
  | .gddr _ => 128
  | .spad _ _ => 64
  | .host _ => 64
  | .lmem _ _ => 8
  | _ => 4

/-- The starts of the aligned pieces of size `g` that a range touches. -/
def pieces (g a n : Nat) : List Nat :=
  if n == 0 then [] else (List.range ((a + n - 1) / g + 1 - a / g)).map (fun i => (a / g + i) * g)

/-! ### Error detection, counting and logs (17 R466, 18 R475, R479) -/

/-- A log with an error noted (R466), and whether it overflowed. -/
def logNote (log : List (Option LogEntry)) (e : LogEntry) : List (Option LogEntry) × Bool :=
  match log.findIdx? (fun x => match x with | some y => decide (y.address = e.address) | none => false) with
  | some i =>
    (log.set i ((log.getD i none).map (fun y =>
      { y with count := min (y.count + 1) 0xFFFFFFFF, stamp := e.stamp, uncorrectable := y.uncorrectable || e.uncorrectable })), false)
  | none =>
    match log.findIdx? (fun x => x.isNone) with
    | some i => (log.set i (some e), false)
    | none => (log, true)

/-- A die's error log. -/
def dieLogOf (s : State) (d : Nat) : List (Option LogEntry) := sGet emptyLog s.dieLog d

/-- An error noted in a die's log. -/
def noteDie (s : State) (d : Nat) (e : LogEntry) : State :=
  let r := logNote (dieLogOf s d) e
  let s1 := { s with dieLog := sSet emptyLog s.dieLog d r.1 }
  if r.2 then bump s1 (0x4820 + d) 2 1 else s1

/-- An error noted in a stack's log. -/
def noteStack (s : State) (n : Nat) (e : LogEntry) : State :=
  let r := logNote (getStack s n).log e
  let s1 := updStack s n (fun k => { k with log := r.1 })
  if r.2 then bump s1 (0x4810 + n) 2 1 else s1

/-- One corrected error: device-wide count, and CORRECTED when the threshold of the present window is reached (17 R465). -/
def countCorrected (s : State) : State :=
  let s1 := { bump s 0x4800 0x11 1 with windowErrs := s.windowErrs + 1 }
  if !s1.windowCrossed && decide (objNat s1 0x4800 1 ≤ s1.windowErrs) then setFaultBit { s1 with windowCrossed := true } 0 else s1

/-- One Deferred error (R482). -/
def countDeferred (s : State) : State := setFaultBit (bump s 0x4800 0x12 1) 1

/-- The SEC-DED memory source of a die log, and its unit number. -/
def dieSource (addr : Nat) : Nat × Nat :=
  match locate addr with
  | .spad t _ => (0, t)
  | .lmem i _ => (2, i)
  | _ => (4, 0)

/-- Marks the granule of an address as poisoned in its place. -/
def markPoison (s : State) (g : Nat) : State := { s with poison := sSet false s.poison g true }

/-- An uncorrectable burst noted against its channel, once for each distinct burst, with the time of its last report (06 R160,
18 R479). -/
def addBurst (l : List (Nat × Nat × Nat)) (c b now : Nat) : List (Nat × Nat × Nat) :=
  l.filter (fun e => !(e.1 == c && e.2.1 == b)) ++ [(c, b, now)]

/-- A read detects the latent error of one granule (R475, R479): counts it, logs it, and corrects or poisons the granule. -/
def detect (s : State) (g : Nat) : State :=
  match s.errs.find? (fun e => e.1 == g) with
  | none => s
  | some (_, k) =>
    let clear (x : State) : State := { x with errs := sDel x.errs g }
    let ent (syn : Nat) (bad : Bool) (src unit : Nat) : LogEntry :=
      { address := g, syndrome := syn, count := 1, stamp := s.now, source := src, uncorrectable := bad, unit := unit }
    match locate g, k with
    | .stack n _, .onDie => countCorrected (bump s (0x4810 + n) 4 1)
    | .stack n off, .corrected syn =>
      let st := getStack s n
      if isProtected st (regionOf st off) then
        countCorrected (noteStack (bump s (0x4810 + n) 3 1) n (ent syn false 0 (chanOf st off)))
      else countCorrected (bump s (0x4810 + n) 4 1)
    | .stack n off, .uncorrectable syn =>
      let st := getStack s n
      let c := chanOf st off
      let s1 := countDeferred (bump s (0x4810 + n) 5 1)
      let s2 := updStack s1 n (fun x => { x with errBursts := addBurst x.errBursts c (off / 128) s.now })
      if isProtected st (regionOf st off) then noteStack s2 n (ent syn true 0 c) else s2
    | _, .onDie => clear s
    | .gddr _, .corrected _ => countCorrected s
    | .gddr _, .uncorrectable _ => countDeferred s
    | .host _, _ => clear s
    | _, .corrected syn =>
      let d := homeDie g
      clear (countCorrected (noteDie (bump s (0x4820 + d) 3 1) d (ent syn false (dieSource g).1 (dieSource g).2)))
    | _, .uncorrectable syn =>
      let d := homeDie g
      clear (markPoison (countDeferred (noteDie (bump s (0x4820 + d) 4 1) d (ent syn true (dieSource g).1 (dieSource g).2))) g)

/-- Whether the memory of one granule reads as poisoned: its mark, an uncorrectable error still there, or a channel declared
failing (06 R160). -/
def granulePoison (s : State) (g : Nat) : Bool :=
  sGet false s.poison g ||
  (match s.errs.find? (fun e => e.1 == g) with | some (_, .uncorrectable _) => true | _ => false) ||
  (match locate g with
   | .stack n off => bitAt (getStack s n).failing (chanOf (getStack s n) off)
   | _ => false)

/-! ### Memory: the two paths (08 R208–R211) -/

/-- A home-path access goes through the cache slice; a direct access does not. A bank engine reads its own bank. -/
inductive Path where
  | home | direct | bank
deriving DecidableEq, Repr

/-- The cached line that holds an address, if present. -/
def lineOf (s : State) (a : Nat) : Option Line := (s.cache.find? (fun e => e.1 == a / 128)).map (fun e => e.2)

/-- A byte of DRAM, SRAM or host memory, below any cached copy. -/
def rawByte (s : State) (a : Nat) : Byte := sGet 0 s.mem a

/-- A byte as an access of a path sees it. -/
def peekByte (s : State) (p : Path) (a : Nat) : Byte :=
  match p, lineOf s a with
  | .home, some l => l.data.getD (a % 128) 0
  | _, _ => rawByte s a

/-- Bytes as an access of a path sees them. -/
def peek (s : State) (p : Path) : Nat → Nat → List Byte
  | _, 0 => []
  | a, n + 1 => peekByte s p a :: peek s p (a + 1) n

/-- Whether any byte of a range reads as poisoned on a path. -/
def peekPoison (s : State) (p : Path) (a n : Nat) : Bool :=
  match p with
  | .home =>
    (pieces 128 a n).any (fun l =>
      match (if isCached l then lineOf s l else none) with
      | some ln => ln.poison
      | none =>
        let lo := max a l
        let hi := min (a + n) (l + 128)
        (pieces (granule s l) lo (hi - lo)).any (granulePoison s))
  | _ => (pieces 8 a n).any (fun b => granulePoison s (b / granule s b * granule s b))

/-- The bytes of a line in memory, with whether any of its granules reads as poisoned. -/
def fillLine (s : State) (l : Nat) : Line :=
  { data := sGetMany 0 s.mem l 128, dirty := false, poison := (pieces (granule s l) l 128).any (granulePoison s) }

/-- A store of bytes to memory itself; each granule wholly covered without poison is cleared, each one touched with poison is
marked (R476). A write of a whole granule also rewrites a latent error. -/
def pokeRaw (s : State) (a : Nat) (v : List Byte) (poison : Bool) : State :=
  let g := granule s a
  let ps := pieces g a v.length
  let whole (b : Nat) : Bool := decide (a ≤ b) && decide (b + g ≤ a + v.length)
  { s with
    mem := sSetMany 0 s.mem a v,
    poison := ps.foldl (fun m b => if poison then sSet false m b true else if whole b then sSet false m b false else m) s.poison,
    errs := ps.foldl (fun m b => if whole b then sDel m b else m) s.errs }

/-- A line written back: its bytes, as poison over all 128 when it is poisoned (R476). A failing channel discards the write. -/
def writeBack (s : State) (key : Nat) (l : Line) : State :=
  let a := key * 128
  let down := match locate a with | .stack n off => bitAt (getStack s n).failing (chanOf (getStack s n) off) | _ => false
  if down then s else pokeRaw s a l.data l.poison

/-- A read meets the latent error of a cached line (18 R475, R479): it is corrected; or the line is clean, is dropped and fetched again,
which counts as corrected; or it is dirty and is poisoned. -/
def meetLine (s : State) (key : Nat) : State :=
  match s.lineErr.find? (fun e => e.1 == key), s.cache.find? (fun e => e.1 == key) with
  | some (_, k), some (_, l) =>
    let s1 := { s with lineErr := sDel s.lineErr key }
    let d := homeDie (key * 128)
    let note (sub syn : Nat) (bad : Bool) : State :=
      noteDie (bump s1 (0x4820 + d) sub 1) d
        { address := key * 128, syndrome := syn, count := 1, stamp := s.now, source := 1, uncorrectable := bad, unit := homeSlice (key * 128) }
    match k, l.dirty with
    | .onDie, _ => s1
    | .corrected syn, _ => countCorrected (note 3 syn false)
    | .uncorrectable syn, false => { countCorrected (note 3 syn false) with cache := sDel s.cache key }
    | .uncorrectable syn, true => { countDeferred (note 4 syn true) with cache := sIns s.cache key { l with poison := true } }
  | _, _ => s

/-- A line dropped, after a write-back when it is dirty and `wb` says so. -/
def dropLine (s0 : State) (key : Nat) (wb : Bool) : State :=
  let s := if wb then meetLine s0 key else s0
  match s.cache.find? (fun e => e.1 == key) with
  | none => s
  | some (_, l) =>
    let s1 := if wb && l.dirty then writeBack s key l else s
    { s1 with cache := sDel s1.cache key, lineErr := sDel s1.lineErr key }

/-- A dirty line written back and kept clean. -/
def cleanLine (s0 : State) (key : Nat) : State :=
  let s := meetLine s0 key
  match s.cache.find? (fun e => e.1 == key) with
  | none => s
  | some (_, l) =>
    if l.dirty then
      let s1 := writeBack s key l
      { s1 with cache := sIns s1.cache key { l with dirty := false } }
    else s

/-- A stack's port is shut to a range: the stack is tripped (06 R163), and the range is not wholly in the shared cache. -/
def portShut (s : State) (a n : Nat) : Bool :=
  n != 0 && (List.range 12).any (fun k => stackTripped s k && overlaps a n (k * 0x2000000000) 0x2000000000) &&
  (pieces 128 a n).any (fun l => !s.cache.any (fun e => e.1 == l / 128))

/-- Replacement is unspecified (08 R205): before an access meets a line that is present, a free choice may have replaced it. -/
def maybeReplace (s : State) (key : Nat) : State :=
  if s.cache.any (fun e => e.1 == key) then
    let s1 := drew s
    if freeBool s then dropLine s1 key true else s1
  else s

/-- Lines of a cache slice (08 R205, R219): 16 MiB in 128-byte lines. -/
def sliceLines : Nat := 131072

/-- The lines that a home slice holds. -/
def sliceKeys (s : State) (slice : Nat) : List Nat :=
  (s.cache.filter (fun e => homeSlice (e.1 * 128) == slice)).map (fun e => e.1)

/-- Room for a line in its home slice: a full slice gives up a freely chosen line, written back when it is dirty (08 R205). -/
def makeRoom (s : State) (key : Nat) : State :=
  if decide (s.cache.length < sliceLines) || s.cache.any (fun e => e.1 == key) then s
  else
    let l := sliceKeys s (homeSlice (key * 128))
    if l.length < sliceLines then s else dropLine (drew s) (l.getD (freeNat s % l.length) 0) true

/-- A line held at its home. -/
def holdLine (s : State) (key : Nat) (x : Line) : State :=
  let y := makeRoom s key
  { y with cache := sIns y.cache key x, lineErr := sDel y.lineErr key }

/-- A line of memory read, its errors detected. -/
def readLine (s : State) (l : Nat) : State := (pieces (granule s l) l 128).foldl detect s

/-- The response to a back-invalidate of a 64-byte line (08 R221, 14 R411): the host held it clean, or it writes back what it holds,
which is merged before the access goes on. Which, and the bytes, are the host's: free values. -/
def hostResponse (s : State) (h : Nat) : State :=
  let s1 := drew s
  if freeBool s then
    let key := h / 128
    let s2 := { s1 with free := s1.free + 64 }
    let s3 := if s2.cache.any (fun e => e.1 == key) then s2 else readLine s2 (key * 128)
    let old := (lineOf s3 h).getD (fillLine s3 (key * 128))
    let v := (List.range 64).map (fun i => BitVec.ofNat 8 (Config.freeNat (s1.free + i)))
    holdLine s3 key { data := putBytes old.data (h % 128) v, dirty := true, poison := old.poison }
  else s1

/-- A back-invalidate sent and answered. -/
def backInvalidate (s : State) (h : Nat) : State := hostResponse (emit (bump s 0x6800 0x14 1) (.backInvalidate h)) h

/-- On a 3.1 link a home-path access back-invalidates the host's copies of tracked lines and waits for the responses (14 R411). -/
def snoop (s : State) (l : Nat) : State :=
  if s.link.level == 3 then
    let hit := s.link.tracked.filter (fun x => x == l || x == l + 64)
    if hit.isEmpty then s
    else
      hit.foldl backInvalidate
        { s with link := { s.link with tracked := s.link.tracked.filter (fun x => x != l && x != l + 64) } }
  else s

/-- What an access does before it sees a line or burst: replacement, back-invalidation, and, where memory itself is read, error
detection in every granule read. A write of a whole line reads nothing (n = 0). It answers whether memory was read. -/
def touchPiece (s : State) (p : Path) (a n l : Nat) : State × Bool :=
  let lo := max a l
  let hi := min (a + n) (l + 128)
  if isCached l then
    let s1 := maybeReplace s (l / 128)
    if p = .home then
      let s2 := if n == 0 then snoop s1 l else meetLine (snoop s1 l) (l / 128)
      if (lineOf s2 l).isSome || n == 0 then (s2, false) else (readLine s2 l, true)
    else ((pieces (granule s1 l) lo (hi - lo)).foldl detect s1, true)
  else ((pieces (granule s l) lo (hi - lo)).foldl detect s, false)

/-- An external access reaches a bank whose engine runs: the engine stalls once for it (06 R156). -/
def stallBank (s : State) (b : Nat × Nat) : State :=
  if (getEngine (getStack s b.1) b.2).running then
    updStack s b.1 (fun k => { k with
      engines := sMod Engine.init k.engines b.2 (fun e => { e with stallext := e.stallext + 1 }),
      launch := k.launch.map (fun l => { l with stallext := l.stallext + 1 }) })
  else s

/-- The banks, as stack and bank-linear index, of 128-byte pieces of memory. -/
def banksOf (s : State) (l : List Nat) : List (Nat × Nat) :=
  (l.filterMap (fun a => match locate a with
    | .stack n off => some (n, (bankOf (getStack s n) off).1)
    | _ => none)).eraseDups

/-- The stalls of one external access, whose pieces reached memory: one for each bank (log entry 85). -/
def stallBanks (s : State) (p : Path) (l : List Nat) : State := if p = .bank then s else (banksOf s l).foldl stallBank s

/-- The triplicated words of 18 R480, as keys of State.tripl: the partition table, the strip-attribute map, the map-out mask, the
life cycle, the stop targets and the anti-rollback counters. -/
def wPartition : Nat := 0
def wStrips : Nat := 1
def wMapOut : Nat := 2
def wLifecycle : Nat := 3
def wStops : Nat := 4
def wRollback : Nat := 5

/-- One triplicated word voted: bad copies rewritten from two good ones, or no majority (18 R481). -/
def voteWord (a : State × Bool) (e : Nat × List Bool) : State × Bool :=
  let good := (e.2.filter (fun b => b)).length
  if 3 ≤ good then ({ a.1 with tripl := sDel a.1.tripl e.1 }, a.2)
  else if good == 2 then (bump { a.1 with tripl := sDel a.1.tripl e.1 } 0x4800 0x15 1, a.2)
  else (bump a.1 0x4800 0x16 1, true)

/-- A triplicated word read, and so voted (18 R480). -/
def readWord (w : Nat) (s : State) : State :=
  match s.tripl.find? (fun e => e.1 == w) with
  | none => s
  | some e =>
    let v := voteWord (s, false) e
    if v.2 then { v.1 with voteFatal := true } else v.1

/-- The strip-attribute map and the channel map-out mask read, for an access to a stack (06 R142, 18 R480). -/
def readMap (s : State) (a : Nat) : State := match locate a with | .stack _ _ => readWord wMapOut (readWord wStrips s) | _ => s

/-- A read of a range prepared: every line or burst it meets is touched, and a home-path read fills the lines it misses. -/
def touch (s : State) (p : Path) (a n : Nat) : State :=
  let r := (pieces 128 a n).foldl (fun (x : State × List Nat) l =>
    let y := touchPiece x.1 p a n l
    let z := if y.2 && decide (p = .home) then holdLine y.1 (l / 128) (fillLine y.1 l) else y.1
    (z, if y.2 then x.2 ++ [l] else x.2)) (readMap s a, [])
  stallBanks r.1 p r.2

/-- A read of a range: the state after it, the bytes and whether they read as poisoned. -/
def readMem (s : State) (p : Path) (a n : Nat) : State × List Byte × Bool :=
  let s1 := touch s p a n
  (s1, peek s1 p a n, peekPoison s1 p a n)

/-- A direct write of part of a burst of a protected region (06 R155): the base die reads the burst, merges and rewrites it, so that
an error in it is met; an uncorrectable one leaves poison. -/
def mergeBurst (s : State) (l : Nat) : State :=
  match locate l with
  | .stack n off =>
    if isProtected (getStack s n) (regionOf (getStack s n) off) then
      let bad := match s.errs.find? (fun e => e.1 == l) with | some (_, .uncorrectable _) => true | _ => false
      let s1 := detect s l
      let s2 := { s1 with errs := sDel s1.errs l }
      if bad then markPoison s2 l else s2
    else s
  | _ => s

/-- A write within one 128-byte piece. A home-path write updates the line, taking it from memory first when the write is
partial; a direct write goes to memory alone. A failing channel discards it. It answers whether it was discarded, and whether it
reached memory. -/
def writePiece (s : State) (p : Path) (a : Nat) (v : List Byte) (poison : Bool) : State × Bool × Bool :=
  let l := a / 128 * 128
  let down := match locate a with | .stack n off => bitAt (getStack s n).failing (chanOf (getStack s n) off) | _ => false
  if down then (s, true, false)
  else if isCached l && decide (p = .home) then
    let r := touchPiece s .home l (if v.length == 128 then 0 else 128) l
    let old := (lineOf r.1 l).getD (fillLine r.1 l)
    let new : Line := { data := putBytes old.data (a % 128) v, dirty := true,
                        poison := poison || (old.poison && decide (v.length < 128)) }
    (holdLine r.1 (l / 128) new, false, r.2)
  else
    let s1 := if isCached l then maybeReplace s (l / 128) else s
    (pokeRaw (if v.length < 128 then mergeBurst s1 l else s1) a v poison, false, isCached l)

/-- The parts of a byte string that lie in each 128-byte piece, with their addresses. -/
def splitPieces (a : Nat) (v : List Byte) : List (Nat × List Byte) :=
  (pieces 128 a v.length).map (fun l =>
    let lo := max a l
    let hi := min (a + v.length) (l + 128)
    (lo, (v.drop (lo - a)).take (hi - lo)))

/-- A write of a range on a path; the flag says that some of it was discarded, so that its signal is poisoned. -/
def writeMem (s : State) (p : Path) (a : Nat) (v : List Byte) (poison : Bool) : State × Bool :=
  let r := (splitPieces a v).foldl (fun (x : State × Bool × List Nat) e =>
    let r := writePiece x.1 p e.1 e.2 poison
    (r.1, x.2.1 || r.2.1, if r.2.2 then x.2.2 ++ [e.1] else x.2.2)) (readMap s a, false, [])
  (stallBanks r.1 p r.2.2, r.2.1)

/-! ### Ownership and the partition fence (13 R365, R368) -/

/-- The partition that owns a tensor core. -/
def ownerOfCore (s : State) (t : Nat) : Option Nat := (List.range 16).find? (fun p => bitAt (objNat s (0x3000 + p) 1) t)

/-- The partition that owns a steward core. -/
def ownerOfSteward (s : State) (i : Nat) : Option Nat := (List.range 16).find? (fun p => bitAt (objNat s (0x3000 + p) 2) i)

/-- The regions of a stack that a partition owns, as a mask. -/
def regionsOwned (s : State) (p n : Nat) : Nat := bytesAt (objBytes s (0x3000 + p) 3) (2 * n) 2

/-- The partition that owns a region. -/
def ownerOfRegion (s : State) (n r : Nat) : Option Nat := (List.range 16).find? (fun p => bitAt (regionsOwned s p n) r)

/-- A partition's GDDR share: first byte and end, as tier offsets. -/
def gddrShare (s : State) (p : Nat) : Nat × Nat :=
  let v := objNat s (0x3000 + p) 4
  ((v % 65536) * 0x40000000, (v % 65536 + v / 65536) * 0x40000000)

/-- A partition's beads on a die: first and count (09 R250). -/
def beadRange (s : State) (p die : Nat) : Nat × Nat :=
  let v := objNat s (0x3000 + p) (if die == 0 then 0xD else 0xE)
  (v % 65536, v / 65536)

/-- Whether a bead is in a partition's range. -/
def beadOwned (s : State) (p die n : Nat) : Bool :=
  let r := beadRange s p die
  decide (r.1 ≤ n) && decide (n < r.1 + r.2) && diePresent s die

/-- Whether a partition may reach a byte (R368). -/
def mayReach (s : State) (p a : Nat) : Bool :=
  match locate a with
  | .stack n off => bitAt (regionsOwned s p n) (regionOf (getStack s n) off)
  | .gddr off => decide ((gddrShare s p).1 ≤ off) && decide (off < (gddrShare s p).2)
  | .spad t _ => ownerOfCore s t == some p
  | .lmem i _ => ownerOfSteward s i == some p
  | .bead d off => beadOwned s p d (off / 4)
  | .host _ => true
  | _ => false

/-- The step at which ownership can change within a range: a region for stacks, a GiB for GDDR, the window elsewhere. -/
def fenceStep (s : State) (a : Nat) : Nat :=
  match locate a with
  | .stack n off =>
    if decide (backed (getStack s n) ≤ off) then (n + 1) * 0x2000000000
    else n * 0x2000000000 + (regionOf (getStack s n) off + 1) * regionSize (getStack s n)
  | .gddr off => 0x20000000000 + (off / 0x40000000 + 1) * 0x40000000
  | .bead _ _ => a / 4 * 4 + 4
  | .spad t _ => spadBase (t + 1)
  | .lmem i _ => 0x30100000000 + (i + 1) * 0x100000
  | _ => a + 2 ^ 52

/-- Whether a place is a region, a GDDR range or a window of the device, which some partition may own or not (R368): what is not
backed there is answered under R146 and R202, and an absent unit's window under R3. -/
def fenceable (s : State) (a : Nat) : Bool :=
  match locate a with
  | .stack n off => locBacked s (.stack n off)
  | .gddr off => locBacked s (.gddr off)
  | .reserved => false
  | l => !locAbsent s l

/-- Whether a range meets memory fenced for a partition; `fuel` bounds the regions it can cross. -/
def fencedGo (s : State) (p : Nat) : Nat → Nat → Nat → Bool
  | 0, _, _ => false
  | fuel + 1, a, e => if e ≤ a then false else (fenceable s a && !mayReach s p a) || fencedGo s p fuel (max (a + 1) (fenceStep s a)) e

/-- Whether a range of `n` bytes meets memory fenced for a partition. -/
def fenced (s : State) (p a n : Nat) : Bool := n != 0 && fencedGo s p 4096 a (a + n)

/-- A partition's exchange mode is cache mode (08 R210). -/
def cacheMode (s : State) (p : Nat) : Bool := objNat s (0x3000 + p) 6 == 1

/-- A scratchpad window is closed (08 R213): its owner runs in cache mode, or nobody owns it. TCt itself is exempt in a
partition's cache mode. -/
def windowClosed (s : State) (self : Option Nat) (a : Nat) : Bool :=
  match locate a with
  | .spad t _ =>
    (match ownerOfCore s t with
     | none => true
     | some p => cacheMode s p && self != some t)
  | _ => false

/-- Whether a range meets a region in transition (06 R151). -/
def inTransition (s : State) (a n : Nat) : Bool :=
  n != 0 &&
  match locate a with
  | .stack k off =>
    let st := getStack s k
    (bitsOf 16 st.trans).any (fun r => decide (off < (r + 1) * regionSize st) && decide (r * regionSize st < off + n))
  | _ => false

/-! ### Beads, watches, signals (09 R231–R243) -/

/-- Whether a watch's condition holds (R238). -/
def watchHolds (cond : Nat) (bead value : W32) : Bool :=
  if cond == 0 then decide ((bead - value).toNat < 2147483648) else if cond == 1 then decide (bead = value) else decide (bead ≠ value)

/-- Whether a target is a tensor core that lends its budget (R244). -/
def targetLent (s : State) : Target → Bool
  | .xq t => (getCore s t).lent
  | .steward _ => false

/-- The message of a watch, sent with a status: held while its core lends (R241, R244). -/
def sendWatch (s : State) (w : Watch) (status : Nat) : State :=
  let b := getBead s w.die w.bead
  let m : Msg := { target := w.target, die := w.die, bead := w.bead, status := status, poison := b.poison, reclaimed := false,
                   value := b.value, stamp := s.now, held := targetLent s w.target }
  { s with msgs := s.msgs ++ [m] }

/-- Every watch on a bead evaluated after an update (R239). -/
def evalWatches (s : State) (die n : Nat) : State :=
  let b := getBead s die n
  let hit (w : Watch) : Bool := w.die == die && w.bead == n && watchHolds w.cond b.value w.value
  let s1 := { s with watches := s.watches.filter (fun w => !hit w) }
  (s.watches.filter hit).foldl (fun x w => sendWatch x w 0) s1

/-- The SEC-DED code of a bead (R475): a latent error is met at its next access. -/
def touchBead (s : State) (die n : Nat) : State :=
  let a := 0x30200000000 + die * 0x10000 + 4 * n
  match s.errs.find? (fun e => e.1 == a) with
  | some (_, .uncorrectable syn) =>
    let s1 := countDeferred (noteDie (bump s (0x4820 + die) 4 1) die
      { address := a, syndrome := syn, count := 1, stamp := s.now, source := 4, uncorrectable := true, unit := 0 })
    setBead { s1 with errs := sDel s1.errs a } die n ⟨0, true⟩
  | some (_, .corrected syn) =>
    let s1 := countCorrected (noteDie (bump s (0x4820 + die) 3 1) die
      { address := a, syndrome := syn, count := 1, stamp := s.now, source := 4, uncorrectable := false, unit := 0 })
    { s1 with errs := sDel s1.errs a }
  | some (_, .onDie) => { s with errs := sDel s.errs a }
  | none => s

/-- An update of a bead that adds (R232), then the evaluation of its watches. -/
def beadAdd (s : State) (die n : Nat) (v : W32) (poison : Bool) : State :=
  let s1 := touchBead s die n
  let b := getBead s1 die n
  evalWatches (setBead s1 die n ⟨b.value + v, b.poison || poison⟩) die n

/-- An update of a bead that sets it and clears its poison bit (R232). -/
def beadSet (s : State) (die n : Nat) (v : W32) : State := evalWatches (setBead (touchBead s die n) die n ⟨v, false⟩) die n

/-- The die a signal word names. -/
def sigDie (w : W32) : Nat := fld w.toNat 28 28

/-- The bead a signal word names. -/
def sigBead (w : W32) : Nat := fld w.toNat 27 16

/-- The increment of a signal word. -/
def sigInc (w : W32) : Nat := fld w.toNat 15 0

/-- A signal word is valid. -/
def sigValid (w : W32) : Bool := bitAt w.toNat 31

/-- A signal applied on behalf of a partition (R232–R234): not an update when its increment is 0; counted, and not applied,
outside the partition's range. -/
def applySignal (s : State) (p : Nat) (w : W32) (poison : Bool) : State :=
  if !sigValid w then s
  else if !beadOwned s p (sigDie w) (sigBead w) then bump s (0x3000 + p) 0x10 1
  else if sigInc w == 0 then s
  else beadAdd s (sigDie w) (sigBead w) (BitVec.ofNat 32 (sigInc w)) poison

/-- Whether a write at an offset of a bead window is one aligned word of a counter (R232, R233). -/
def beadWord (off n : Nat) : Bool := n == 4 && off % 4 == 0 && decide (off < 0x4000)

/-- A 4-byte write to a bead's address adds the word (R232); any other write there is discarded and counted (R233). -/
def beadWindow (s : State) (die off : Nat) (v : List Byte) : State :=
  if beadWord off v.length && diePresent s die then
    beadAdd s die (off / 4) (BitVec.ofNat 32 (leNat v)) false
  else bump s 0x4800 0x10 1

/-! ### Time (10 R257–R259) -/

/-- Whether a multiple of a period lies at the present tick, or at a value that a forward step skipped (R257). -/
def dueEvery (s : State) (period : Nat) : Bool := period != 0 && decide (s.prev / period < s.now / period)

/-- Whether the event at a place of R259's order may still happen at this tick: nothing placed after it has, and it has not
itself when it happens once. -/
def inOrder (s : State) (place : Nat) (once : Bool) : Bool :=
  if once then decide (s.order < place) else decide (s.order ≤ place)

/-- The place of a partition's commit, reckoning or step start in R259's order. -/
def partPlace (p k : Nat) : Nat := 6 + 3 * p + k

/-- The state once the event at a place has happened at this tick. -/
def atPlace (s : State) (place : Nat) : State := { s with order := max s.order place }

/-! ### Rest (10 R261) -/

/-- A partition's work has begun: neither it nor the device rests. -/
def stir (s : State) (p : Nat) : State :=
  updPart { s with power := { s.power with idleSince := s.now } } p (fun x => { x with idleSince := s.now })

/-- The device's work has begun. -/
def stirDevice (s : State) : State := { s with power := { s.power with idleSince := s.now } }

/-- A core has work. -/
def stirCore (s : State) (t : Nat) : State :=
  let s1 := updCore s t (fun c => { c with restSince := s.now })
  match ownerOfCore s t with | some p => stir s1 p | none => stirDevice s1

/-! ### Reports and resets of the units' work -/

/-- The steward that serves a partition: the lowest it owns. -/
def stewardOf (s : State) (p : Nat) : Nat := ((List.range 16).find? (fun i => ownerOfSteward s i == some p)).getD 0

/-- A containment noted, to be carried out at its containment point (18 R486, R487). -/
def contain (s : State) (p : Nat) (handle : Option Nat) (cause code : Nat) : State :=
  updPart s p (fun x => { x with cont := x.cont ++ [{ handle := handle, cause := cause, code := code }] })

/-- A report to a steward (R485). -/
def report (s : State) (sc code detail : Nat) : State := emit s (.report sc code detail)

/-- The cause of containment of a work item that faulted (R485, R486): POISON or FAULT. -/
def causeOf (code : Nat) : Nat := if code == 0x0109 || code == 0x0503 then 1 else 2

/-- A work item of a partition faulted (R485, R486). While a step is in flight its STEP_COMPLETE names the sessions it served;
with none in flight it served no session, and the partition is contained. -/
def itemFailed (s : State) (p code : Nat) : State :=
  if (getPart s p).flight.isNone then contain s p none (causeOf code) code else s

/-- The base address of a stack's window. -/
def stackWindow (n : Nat) : Nat := n * 0x2000000000

/-! ### The host link (14 R386) -/

/-- The host link is up. -/
def linkUp (s : State) : Bool := s.link.level != 0

/-- A range meets host memory while the link is down (R386). -/
def hostHeld (s : State) (a n : Nat) : Bool :=
  !linkUp s && n != 0 &&
  ((match locate a with | .host _ => true | _ => false) || (match locate (a + n - 1) with | .host _ => true | _ => false))

/-- An access to a range waits: it meets host memory while the link is down (14 R386), or a stack whose port is shut (06 R163). -/
def accessHeld (s : State) (a n : Nat) : Bool := hostHeld s a n || portShut s a n

/-! ### Regulators (13 R375, R376) -/

/-- The bucket of a regulator within a partition, and the object sub-index of its credit. -/
def regKey : RegKind → Nat × Nat
  | .stackPort s => (s, 1)
  | .engineTime s => (16 + s, 3)
  | .gddr => (32, 5)
  | .span => (33, 7)
  | .hostLink => (34, 9)

/-- A bucket's level, in its unit's 1,024ths for the byte regulators. -/
def bucket (s : State) (p : Nat) (k : RegKind) : Int := sGet 0 (getPart s p).buckets (regKey k).1

/-- Whether traffic of a class may start: it is unregulated, or its bucket is above 0 (R375, R376). -/
def regOpen (s : State) (p : Nat) (k : RegKind) : Bool :=
  objNat s (0x3400 + p) (regKey k).2 == 0xFFFFFFFF || decide (0 < bucket s p k)

/-- A debit of a class that is regulated; the bucket may go negative (R376). -/
def debit (s : State) (p : Nat) (k : RegKind) (size : Nat) : State :=
  if objNat s (0x3400 + p) (regKey k).2 == 0xFFFFFFFF then s
  else updPart s p (fun x => { x with buckets := sSet 0 x.buckets (regKey k).1 (bucket s p k - size) })

/-- The regulator that an access of a partition's agent to an address comes under, if any. -/
def regOf (a : Nat) : Option RegKind :=
  match locate a with
  | .stack n _ => some (.stackPort n)
  | .gddr _ => some .gddr
  | .host _ => some .hostLink
  | _ => none

/-- The regulator of a read that is no transfer, broadcast or inbound write: none at a stack's port (R375). -/
def readReg (a : Nat) : Option RegKind := match regOf a with | some (.stackPort _) => none | k => k

/-- A debit of the bytes of such a read. -/
def debitRead (s : State) (p a n : Nat) : State := match readReg a with | some k => debit s p k n | none => s

/-- A debit of the bytes of an access of a partition (R375), by the address it goes to. -/
def debitAddr (s : State) (p a n : Nat) : State := match regOf a with | some k => debit s p k n | none => s

end Sys2Proof.Machine
end

