-- ==== Sys2Proof/Machine/Image.lean ====
section
/-! DEFINITION. Firmware images and selector records in the configuration flash (19 R503–R505), and the reload on leaving stop 5 (10 R264). -/

namespace Sys2Proof.Machine

open Sys2Proof

/-! ### The flash (R502) -/

/-- Where a firmware slot lies in the flash, and its bytes (19 R502). -/
def slotBase (n : Nat) : Nat := 0x2000000 + n * 0x2000000
def slotSize : Nat := 0x2000000

/-- Bytes of the flash; an erased byte reads as 0. -/
def flashRead (h : Hw) (a n : Nat) : List Byte := sGetMany 0 h.flash a n

/-- A range of whole sectors erased and bytes written at its start. -/
def flashWrite (h : Hw) (a n : Nat) (b : List Byte) : Hw := { h with flash := sSetMany 0 (sDropRange h.flash a (a + n)) a b }

/-- A record of 12 bytes with its CRC. -/
def withCrc (b : List Byte) : List Byte := b ++ natLe 4 (crc32c b)

/-- Whether a record of 16 bytes has a magic and a correct CRC. -/
def crcOk (magic : Nat) (b : List Byte) : Bool := bytesAt b 0 4 == magic && bytesAt b 12 4 == crc32c (b.take 12)

/-! ### Selector records (R503) -/

/-- A selector record: sequence, active slot, pending slot. -/
structure Selector where
  sequence : Nat
  active : Nat
  pending : Option Nat

/-- The selector record of a sector, if it is valid. -/
def selectorAt (h : Hw) (a : Nat) : Option Selector :=
  let b := flashRead h a 16
  if crcOk 0x314C4553 b then
    some { sequence := bytesAt b 4 4, active := bytesAt b 8 1 % 2, pending := if bytesAt b 9 1 == 0xFF then none else some (bytesAt b 9 1 % 2) }
  else none

/-- The record in use, with the sector of the other; slot 0 and no pending activation when neither is valid. -/
def selector (h : Hw) : Selector × Nat :=
  match selectorAt h 0, selectorAt h 0x1000 with
  | some a, some b => if a.sequence < b.sequence then (b, 0) else (a, 0x1000)
  | some a, none => (a, 0x1000)
  | none, some b => (b, 0)
  | none, none => ({ sequence := 0, active := 0, pending := none }, 0)

/-- A record written in the sector that is not in use, with the next sequence number. -/
def writeSelector (h : Hw) (active : Nat) (pending : Option Nat) : Hw :=
  let c := selector h
  let b := natLe 4 0x314C4553 ++ natLe 4 (c.1.sequence + 1) ++ natLe 1 active ++ natLe 1 (pending.getD 0xFF) ++ natLe 2 0
  flashWrite h c.2 0x1000 (withCrc b)

/-! ### Images (R504, R505) -/

/-- The bytes of a slot's image, as long as its header says, at most the slot. -/
def slotImage (h : Hw) (n : Nat) : List Byte :=
  flashRead h (slotBase n) (min slotSize (max 6144 (bytesAt (flashRead h (slotBase n) 12) 8 4)))

/-- Security version i of an image. -/
def imageSvn (b : List Byte) (i : Nat) : Nat := bytesAt b (12 + 4 * i) 4

/-- The digest M. -/
def imageDigest (b : List Byte) : List Byte := sha384 (b.take 256 ++ b.drop 6144)

/-- All bytes of a range are 0. -/
def zeros (b : List Byte) (lo hi : Nat) : Bool := ((b.drop lo).take (hi - lo)).all (fun x => x == 0)

/-- Check 1: format. -/
def imageFormatBad (b : List Byte) : Bool :=
  let kind := bytesAt b 6 2
  bytesAt b 0 4 != 0x314D5746 || bytesAt b 4 2 != 1 || decide (1 < kind) || decide (bytesAt b 8 4 < 6144) ||
  decide (slotSize < bytesAt b 8 4) || (List.range 8).any (fun i => decide (32 < imageSvn b i)) || !zeros b 108 256 || !zeros b 5613 6144 ||
  (kind == 0 && !zeros b 76 108)

/-- The reason of the first check that an image fails; 0 when it passes. Whether a signature verifies is a fact of the part (log entry 10). -/
def imageReason (h : Hw) (b : List Byte) : Nat :=
  let edpk := (b.drop 256).take 32
  let mlpk := (b.drop 288).take 1952
  let m := imageDigest b
  if imageFormatBad b then 1
  else if [sha384 edpk, sha384 mlpk] != h.keyDigests then 2
  else if !h.sigs.contains (0, edpk, m, (b.drop 2240).take 64) then 3
  else if !h.sigs.contains (1, mlpk, m, (b.drop 2304).take 3309) then 4
  else if (List.range 8).any (fun i => decide (imageSvn b i < h.antiRollback.getD i 0)) then 5
  else if bytesAt b 6 2 == 1 && !(h.lifecycle == 2 && (b.drop 76).take 32 == padTo 32 h.serial) then 6
  else 0

/-- The text of a name field without its padding. -/
def trimZeros (b : List Byte) : List Byte := (b.reverse.dropWhile (fun x => x == 0)).reverse

/-! ### The reload (10 R264) -/

/-- Leaving stop 5 the image in force is read from its slot again and verified again. The spec gives no outcome of a verification that
fails: the block halts, as at a start without a valid image (DESIGN CHOICE, log entry 91). -/
def reloadFirmware (s : State) : State :=
  let img := slotImage s.hw s.fw.slot
  if imageReason s.hw img == 0 then
    { s with fw := { s.fw with name := trimZeros ((img.drop 44).take 32), svn := (List.range 8).map (imageSvn img) } }
  else { s with boot := .halted }

end Sys2Proof.Machine
end

