-- ==== Sys2Proof/Machine/Num.lean ====
section
/-! DEFINITION. Number formats, exact arithmetic, rounding and flags (02_number_formats.md R20–R46). -/

namespace Sys2Proof.Machine

open Sys2Proof

/-! ### Formats (R20, R24, R28, R84) -/

/-- How a format treats its largest exponent. -/
inductive FKind where
  | ieee | e4m3 | finite | int
deriving DecidableEq, Repr

/-- An element format: width in bits, exponent bits, mantissa bits, bias; for an integer format, `bias` is how far its unit lies
below 1 in powers of two. -/
structure Fmt where
  width : Nat
  eb : Nat
  mb : Nat
  bias : Nat
  kind : FKind
deriving DecidableEq, Repr

/-- FP32. -/
def fp32 : Fmt := ⟨32, 8, 23, 127, .ieee⟩

/-- The element format of a format code of R84; an MX code gives its elements' format. -/
def fmtOf (code : Nat) : Fmt :=
  match code with
  | 0x0 => fp32
  | 0x1 => ⟨16, 8, 7, 127, .ieee⟩
  | 0x2 => ⟨16, 5, 10, 15, .ieee⟩
  | 0x3 => ⟨8, 4, 3, 7, .e4m3⟩
  | 0x4 => ⟨8, 5, 2, 15, .ieee⟩
  | 0x5 => ⟨6, 2, 3, 1, .finite⟩
  | 0x6 => ⟨6, 3, 2, 3, .finite⟩
  | 0x7 => ⟨4, 2, 1, 1, .finite⟩
  | 0x8 => ⟨8, 0, 7, 0, .int⟩
  | 0x9 => ⟨4, 0, 3, 0, .int⟩
  | 0xA => ⟨8, 4, 3, 7, .e4m3⟩
  | 0xB => ⟨8, 5, 2, 15, .ieee⟩
  | 0xC => ⟨6, 2, 3, 1, .finite⟩
  | 0xD => ⟨6, 3, 2, 3, .finite⟩
  | 0xE => ⟨4, 2, 1, 1, .finite⟩
  | _ => ⟨8, 0, 7, 6, .int⟩

/-- The MX codes of R84. -/
def isMx (code : Nat) : Bool := decide (0xA ≤ code)

/-- The codes whose elements are not whole bytes, without block scales. -/
def isPacked (code : Nat) : Bool := code == 5 || code == 6 || code == 7 || code == 9

/-- The integer codes. -/
def isIntFmt (code : Nat) : Bool := code == 8 || code == 9 || code == 15

/-- The value of an element pattern (R20, R24, R28). An integer zero is +0. -/
def decodeNum (f : Fmt) (bits : Nat) : Num :=
  let s := bitAt bits (f.width - 1)
  match f.kind with
  | .int =>
    let v := signedOf f.width bits
    .fin (decide (v < 0)) v.natAbs (-(f.bias : Int))
  | _ =>
    let ex := fld bits (f.width - 2) f.mb
    let man := bits % 2 ^ f.mb
    if f.kind = .ieee && ex == 2 ^ f.eb - 1 then (if man == 0 then .inf s else .nan)
    else if f.kind = .e4m3 && ex == 15 && man == 7 then .nan
    else if ex == 0 then .fin s man (1 - (f.bias : Int) - f.mb)
    else .fin s (man + 2 ^ f.mb) ((ex : Int) - f.bias - f.mb)

/-- Whether a pattern is a subnormal of its format. -/
def isSubnormal (f : Fmt) (bits : Nat) : Bool :=
  f.kind != .int && fld bits (f.width - 2) f.mb == 0 && bits % 2 ^ f.mb != 0

/-! ### Exact arithmetic -/

/-- Zero. -/
def Num.zero (neg : Bool) : Num := .fin neg 0 0

/-- Whether a value is a zero of either sign. -/
def numIsZero : Num → Bool
  | .fin _ m _ => m == 0
  | _ => false

/-- The signed integer of a finite value at exponent `e0`, which must not exceed its own. -/
def scaled (neg : Bool) (m : Nat) (e e0 : Int) : Int :=
  let v : Int := (m <<< (e - e0).toNat : Nat)
  if neg then -v else v

/-- Exact sum; ∞ − ∞ is NaN; an exact zero is +0 unless both terms are −0 (R22). -/
def numAdd : Num → Num → Num
  | .nan, _ => .nan
  | _, .nan => .nan
  | .inf a, .inf b => if a = b then .inf a else .nan
  | .inf a, _ => .inf a
  | _, .inf b => .inf b
  | .fin a m e, .fin b n g =>
    if m == 0 && n == 0 then Num.zero (a && b)
    else if m == 0 then .fin b n g
    else if n == 0 then .fin a m e
    else
      let e0 := min e g
      let v := scaled a m e e0 + scaled b n g e0
      if v = 0 then Num.zero false else .fin (decide (v < 0)) v.natAbs e0

/-- Exact product; 0 × ∞ is NaN. -/
def numMul : Num → Num → Num
  | .nan, _ => .nan
  | _, .nan => .nan
  | .inf a, .inf b => .inf (a != b)
  | .inf a, .fin b n _ => if n == 0 then .nan else .inf (a != b)
  | .fin a m _, .inf b => if m == 0 then .nan else .inf (a != b)
  | .fin a m e, .fin b n g => if m == 0 || n == 0 then Num.zero (a != b) else .fin (a != b) (m * n) (e + g)

/-- The exact product of two elements of a product unit: an integer product of 0 is +0 (02 R28, R36). -/
def product (ints : Bool) (x y : Num) : Num := if ints then numAdd (numMul x y) (Num.zero false) else numMul x y

/-- Negation. -/
def numNeg : Num → Num
  | .nan => .nan
  | .inf s => .inf (!s)
  | .fin s m e => .fin (!s) m e

/-- Magnitude. -/
def numAbs : Num → Num
  | .nan => .nan
  | .inf _ => .inf false
  | .fin _ m e => .fin false m e

/-- A value times a power of two. -/
def numScale (k : Int) : Num → Num
  | .fin s m e => if m == 0 then .fin s 0 0 else .fin s m (e + k)
  | x => x

/-- Exact sum of a list; +0 for none. -/
def numSum : List Num → Num
  | [] => Num.zero false
  | x :: r => r.foldl numAdd x

/-- Numeric order of two values; none when either is NaN. −0 and +0 compare equal (R22). -/
def numCmp : Num → Num → Option Ordering
  | .nan, _ => none
  | _, .nan => none
  | .inf a, .inf b => some (if a = b then .eq else if a then .lt else .gt)
  | .inf a, _ => some (if a then .lt else .gt)
  | _, .inf b => some (if b then .gt else .lt)
  | .fin a m e, .fin b n g =>
    let e0 := min e g
    some (compare (scaled a m e e0) (scaled b n g e0))

/-- Whether the first value is below the second. -/
def numLt (x y : Num) : Bool := numCmp x y == some .lt

/-- Whether the first value is at most the second. -/
def numLe (x y : Num) : Bool := match numCmp x y with | some .lt => true | some .eq => true | _ => false

/-- The sign of a value; NaN counts as positive. -/
def numSign : Num → Bool
  | .nan => false
  | .inf s => s
  | .fin s _ _ => s

/-- The smaller of two values, NaN if either is, −0 below +0 (R22, R34). -/
def numMin (x y : Num) : Num :=
  match numCmp x y with
  | none => .nan
  | some .lt => x
  | some .gt => y
  | some .eq => if numSign x then x else y

/-- The larger of two values, NaN if either is, −0 below +0 (R22, R34). -/
def numMax (x y : Num) : Num :=
  match numCmp x y with
  | none => .nan
  | some .lt => y
  | some .gt => x
  | some .eq => if numSign x then y else x

/-! ### Flags (R32) -/

/-- The five arithmetic flags of a lane. -/
structure Flags where
  invalid : Bool
  overflow : Bool
  underflow : Bool
  inexact : Bool
  denorm : Bool
deriving DecidableEq, Repr

/-- No flag. -/
def noFlags : Flags := ⟨false, false, false, false, false⟩

/-- Flags gathered together. -/
def flagsOr (a b : Flags) : Flags :=
  ⟨a.invalid || b.invalid, a.overflow || b.overflow, a.underflow || b.underflow, a.inexact || b.inexact, a.denorm || b.denorm⟩

/-- The VSTAT word of a set of flags. -/
def flagsWord (f : Flags) : W32 :=
  BitVec.ofNat 32 ((if f.invalid then 1 else 0) + (if f.overflow then 2 else 0) + (if f.underflow then 4 else 0)
    + (if f.inexact then 8 else 0) + (if f.denorm then 16 else 0))

/-- INVALID alone. -/
def invalidFlag : Flags := { noFlags with invalid := true }

/-! ### Rounding (R21, R27, R29–R31) -/

/-- The canonical NaN of a format (R21); a format with no NaN writes code 0 (R31). -/
def nanCode (f : Fmt) : Nat :=
  match f.kind with
  | .ieee => (2 ^ f.eb - 1) * 2 ^ f.mb + 2 ^ (f.mb - 1)
  | .e4m3 => 0x7F
  | _ => 0

/-- The infinity of a format that has one. -/
def infCode (f : Fmt) (neg : Bool) : Nat :=
  (if neg then 2 ^ (f.width - 1) else 0) + (2 ^ f.eb - 1) * 2 ^ f.mb

/-- The largest finite pattern by sign; for an integer format, the end of the range at that sign. -/
def maxCode (f : Fmt) (neg : Bool) : Nat :=
  let s := if neg then 2 ^ (f.width - 1) else 0
  match f.kind with
  | .ieee => s + (2 ^ f.eb - 1) * 2 ^ f.mb - 1
  | .e4m3 => s + 0x7E
  | .finite => s + 2 ^ (f.width - 1) - 1
  | .int => if neg then 2 ^ (f.width - 1) else 2 ^ (f.width - 1) - 1

/-- How a rounding breaks a value between two neighbours: to nearest even, or by a 16-bit random integer (R30). -/
inductive Rnd where
  | rne
  | sr (r : Nat)
deriving DecidableEq, Repr

/-- Whether a magnitude with remainder `rem` of `2^sh` above `q` goes up (R29, R30). -/
def roundUp (rnd : Rnd) (neg : Bool) (q rem sh : Nat) : Bool :=
  match rnd with
  | .rne =>
    let half := 2 ^ (sh - 1)
    decide (rem > half) || (rem == half && q % 2 == 1)
  | .sr r =>
    if neg then !decide (r < 65536 * (2 ^ sh - rem) / 2 ^ sh) else decide (r < 65536 * rem / 2 ^ sh)

/-- A magnitude `m * 2^e` as a multiple of `2^q`, rounded, with whether it was inexact. -/
def toQuantum (rnd : Rnd) (neg : Bool) (m : Nat) (e q : Int) : Nat × Bool :=
  if q ≤ e then (m <<< (e - q).toNat, false)
  else
    let sh := (q - e).toNat
    let d := m / 2 ^ sh
    let rem := m % 2 ^ sh
    if rem == 0 then (d, false) else (if roundUp rnd neg d rem sh then d + 1 else d, true)

/-- The exponent of the leading bit of a nonzero magnitude. -/
def leadExp (m : Nat) (e : Int) : Int := e + (Nat.log2 m : Int)

/-- A finite nonzero value in a floating format, with its flags (R29–R32). -/
def packFloat (f : Fmt) (rnd : Rnd) (sat neg : Bool) (m : Nat) (e : Int) : Nat × Flags :=
  let s := if neg then 2 ^ (f.width - 1) else 0
  let qmin : Int := 1 - (f.bias : Int) - f.mb
  let q := max (leadExp m e - f.mb) qmin
  let (d0, inexact) := toQuantum rnd neg m e q
  let carry := d0 == 2 ^ (f.mb + 1)
  let d := if carry then 2 ^ f.mb else d0
  let q' := if carry then q + 1 else q
  let maxEx : Int := match f.kind with | .ieee => 2 ^ f.eb - 2 | _ => 2 ^ f.eb - 1
  let ex : Int := if d < 2 ^ f.mb then 0 else q' - qmin + 1
  if ex > maxEx || (f.kind = .e4m3 && ex == 15 && d == 15) then
    let code := if f.kind = .ieee && !sat then infCode f neg else maxCode f neg
    (code, { noFlags with overflow := true, inexact := true })
  else
    let tiny := decide (d < 2 ^ f.mb)
    (s + ex.toNat * 2 ^ f.mb + d % 2 ^ f.mb, { noFlags with underflow := tiny && inexact, inexact := inexact })

/-- A finite value in an integer format (R28, R31). -/
def packInt (f : Fmt) (rnd : Rnd) (neg : Bool) (m : Nat) (e : Int) : Nat × Flags :=
  let (d, inexact) := toQuantum rnd neg m e (-(f.bias : Int))
  let top := if neg then 2 ^ (f.width - 1) else 2 ^ (f.width - 1) - 1
  if d > top then (maxCode f neg, { noFlags with overflow := true, inexact := true })
  else (unsignedOf f.width (if neg then -(d : Int) else d), { noFlags with inexact := inexact })

/-- A value rounded into a format under R29 to R31: its pattern and its flags. -/
def roundTo (f : Fmt) (rnd : Rnd) (sat : Bool) : Num → Nat × Flags
  | .nan => (nanCode f, if f.kind = .finite || f.kind = .int then invalidFlag else noFlags)
  | .inf s =>
    match f.kind with
    | .ieee => (if sat then maxCode f s else infCode f s, noFlags)
    | _ => (maxCode f s, { noFlags with overflow := true })
  | .fin s m e =>
    if m == 0 then ((if s && f.kind != .int then 2 ^ (f.width - 1) else 0), noFlags)
    else if f.kind = .int then packInt f rnd s m e
    else packFloat f rnd sat s m e

/-- A value rounded to FP32 with RNE and SAT = 0. -/
def round32 (x : Num) : W32 := BitVec.ofNat 32 (roundTo fp32 .rne false x).1

/-- The value of an FP32 pattern. -/
def num32 (w : W32) : Num := decodeNum fp32 w.toNat

/-- A value rounded once to FP32, as a value. -/
def rnd32 (x : Num) : Num := num32 (round32 x)

/-- One FP32 addition with RNE. -/
def add32 (a b : W32) : W32 := round32 (numAdd (num32 a) (num32 b))

/-- One FP32 multiplication with RNE. -/
def mul32 (a b : W32) : W32 := round32 (numMul (num32 a) (num32 b))

/-- The canonical FP32 NaN. -/
def nan32 : W32 := 0x7FC00000#32

/-- FP32 −∞ and +∞. -/
def negInf32 : W32 := 0xFF800000#32

/-- FP32 +∞. -/
def posInf32 : W32 := 0x7F800000#32

/-- The accumulator step of R35 and R37: block sum times scale rounded once, then added with one more rounding. -/
def accumulate (acc : W32) (block : Num) : W32 :=
  round32 (numAdd (num32 acc) (rnd32 block))

/-- The scale of an E8M0 byte (R25): none stands for NaN. -/
def e8m0 (b : Nat) : Option Int := if b % 256 == 255 then none else some ((b % 256 : Nat) - 127 : Int)

/-- A value times the scale of an E8M0 byte. -/
def scaleBy (b : Nat) (x : Num) : Num :=
  match e8m0 b with
  | none => .nan
  | some k => numScale k x

/-- E_max of an MX element format (R27). -/
def mxEmax (code : Nat) : Int :=
  match code with
  | 0xA => 8 | 0xB => 15 | 0xC => 2 | 0xD => 4 | 0xE => 2 | _ => 0

/-- floor(log2 of the magnitude) of a finite nonzero value. -/
def numExp : Num → Option Int
  | .fin _ m e => if m == 0 then none else some (leadExp m e)
  | _ => none

/-- Whether a value is NaN or an infinity. -/
def numSpecial : Num → Bool
  | .fin _ _ _ => false
  | _ => true

/-- The E8M0 scale byte of a block (R27). -/
def mxScale (code : Nat) (l : List Num) : Nat :=
  if l.any numSpecial then 0xFF
  else
    match (l.filterMap numExp).foldl (fun m x => match m with | none => some x | some y => some (max x y)) (none : Option Int) with
    | none => 0
    | some e => ((max (-127) (min 127 (e - mxEmax code))) + 127).toNat

/-- The elements of a block converted under its scale: pattern and flags of each (R27). DESIGN CHOICE (log entry 83): a block with
a NaN or an infinity is not converted element by element, so R31's table raises no flag for its elements. -/
def mxElem (code scale : Nat) (rnd : Rnd) (sat : Bool) (x : Num) : Nat × Flags :=
  if scale == 0xFF then (0, noFlags)
  else roundTo (fmtOf code) rnd sat (numScale (127 - (scale : Int)) x)

/-! ### The curve group (R46) -/

/-- Integer square root, by bisection on `n` bits. -/
def isqrtGo (x : Nat) : Nat → Nat → Nat
  | 0, r => r
  | n + 1, r =>
    let c := r + 2 ^ n
    isqrtGo x n (if c * c ≤ x then c else r)

/-- The floor of the square root. -/
def isqrt (x : Nat) : Nat := isqrtGo x (Nat.log2 x / 2 + 1) 0

/-- 2^f for a fixed-point fraction: `f` has `n` bits left to use, `root` is 2^(2^-k) in 96 fraction bits. -/
def exp2Go : Nat → Nat → Nat → Nat → Nat
  | 0, _, _, acc => acc
  | n + 1, f, root, acc =>
    let r := isqrt (root <<< 96)
    exp2Go n f r (if bitAt f n then (acc * r) >>> 96 else acc)

/-- 2^x for a finite `x` with |x| below 2^9, to 64 or more significant bits. -/
def exp2Ref (x : Num) : Num :=
  match x with
  | .fin s m e =>
    let v := scaled s m e (min e (-72))
    let fx := if e < -72 then v / (2 ^ (-72 - e).toNat) else v
    let n := fx / (2 ^ 72 : Int)
    let f := (fx % (2 ^ 72 : Int)).toNat
    .fin false (exp2Go 72 f (2 <<< 96) (1 <<< 96)) (n - 96)
  | y => y

/-- The fraction bits of log2 of a fixed-point `y` in [1, 2) with 160 fraction bits. -/
def log2Go : Nat → Nat → Nat → Nat
  | 0, _, acc => acc
  | n + 1, y, acc =>
    let z := (y * y) >>> 160
    if z ≥ 2 <<< 160 then log2Go n (z >>> 1) (2 * acc + 1) else log2Go n z (2 * acc)

/-- log2 of a positive finite value, to about 2^-80 absolute. -/
def log2Ref (m : Nat) (e : Int) : Num :=
  let k := Nat.log2 m
  let y := if k ≤ 160 then m <<< (160 - k) else m >>> (k - 160)
  let fr := log2Go 80 y 0
  let v : Int := (leadExp m e) * 2 ^ 80 + fr
  if v = 0 then Num.zero false else .fin (decide (v < 0)) v.natAbs (-80)

/-- A quotient of magnitudes to 80 or more significant bits, its last bit set when inexact. -/
def divRef (neg : Bool) (m : Nat) (e : Int) (n : Nat) (g : Int) : Num :=
  let k := 100 + Nat.log2 n
  let q := (m <<< k) / n
  .fin neg (2 * q + (if (m <<< k) % n == 0 then 0 else 1)) (e - g - k - 1)

/-- 1/√ of a positive magnitude to 80 or more significant bits. -/
def rsqrtRef (m : Nat) (e : Int) : Num :=
  let me := if e % 2 = 0 then (m, e) else (2 * m, e - 1)
  let k := 2 * (100 + Nat.log2 me.1)
  let q := (1 <<< k) / me.1
  .fin false (2 * isqrt q + 1) (-(me.2 / 2) - (k / 2 : Nat) - 1)

/-- One unit in the last place of FP32 near a value, as an exponent. -/
def ulpExp (x : Num) : Int :=
  match numExp x with
  | none => -149
  | some e => max (e - 23) (-149)

/-- A free FP32 value that meets a condition within a tolerance of a reference: the free draw if it is one, else the reference
rounded. −0 is delivered only where the reference rounds to it (R22). -/
def freeNearIf (n : Nat) (ref tol : Num) (ok : Num → Bool) : W32 :=
  let c := BitVec.ofNat 32 (Config.freeNat n)
  let r := round32 ref
  if numLe (numAbs (numAdd (num32 c) (numNeg ref))) tol && (c != 0x80000000#32 || r == c) && ok (num32 c) then c else r

/-- A free FP32 value within a tolerance of a reference. -/
def freeNear (n : Nat) (ref tol : Num) : W32 := freeNearIf n ref tol (fun _ => true)

/-- Whether an FP32 result is tiny: a subnormal or a zero (R32). -/
def isTiny (w : W32) : Bool := numLt (numAbs (num32 w)) (.fin false 1 (-126))

/-- Whether a delivered result differs from the exact value. -/
def differs (w : W32) (x : Num) : Bool := numCmp (num32 w) x != some .eq

/-- EXP2 (R46): result and flags; `n` names the free draw. -/
def exp2Op (n : Nat) (x : Num) : W32 × Flags :=
  match x with
  | .nan => (nan32, noFlags)
  | .inf true => (0, noFlags)
  | .inf false => (posInf32, noFlags)
  | .fin _ _ _ =>
    if numLe (.fin false 128 0) x then (posInf32, { noFlags with overflow := true, inexact := true })
    else if numLt x (.fin true 150 0) then (0, { noFlags with underflow := true, inexact := true })
    else
      let ref := exp2Ref x
      let exact := match x with
        | .fin s m e => decide (m == 0) || decide (e ≥ 0) || (scaled s m e (min e 0)) % (2 ^ (-(min e 0)).toNat : Int) == 0
        | _ => false
      let normal := numLe (.fin false 1 (-126)) ref
      let tol : Num := if normal then .fin false 2 (ulpExp ref) else .fin false 1 (-149)
      let w := freeNear n ref tol
      let off := !exact || differs w ref
      (w, { noFlags with inexact := off, underflow := off && isTiny w, overflow := w == posInf32 })

/-- LOG2 (R46). -/
def log2Op (n : Nat) (x : Num) : W32 × Flags :=
  match x with
  | .nan => (nan32, noFlags)
  | .inf true => (nan32, invalidFlag)
  | .inf false => (posInf32, noFlags)
  | .fin s m e =>
    if m == 0 then (negInf32, { noFlags with overflow := true })
    else if s then (nan32, invalidFlag)
    else
      let ref := log2Ref m e
      let near := numLe (.fin false 1 (-1)) x && numLe x (.fin false 2 0)
      let tol : Num := if near then .fin false 1 (-22) else .fin false 2 (ulpExp ref)
      let w := freeNear n ref tol
      (w, { noFlags with inexact := !decide (2 ^ Nat.log2 m = m) || w != round32 ref })

/-- RCP (R46). -/
def rcpOp (n : Nat) (x : Num) : W32 × Flags :=
  match x with
  | .nan => (nan32, noFlags)
  | .inf s => (if s then 0x80000000#32 else 0, noFlags)
  | .fin s m e =>
    if m == 0 then (if s then negInf32 else posInf32, { noFlags with overflow := true })
    else
      let ref := divRef s 1 0 m e
      let small := numLt (.fin false 1 126) (numAbs x)
      let w := freeNearIf n ref (.fin false 1 (ulpExp ref)) (fun c => !small || numLt (numAbs c) (.fin false 1 (-126)))
      let off := numCmp (numMul (num32 w) x) (.fin false 1 0) != some .eq
      (w, { noFlags with inexact := off, underflow := off && isTiny w, overflow := w == posInf32 || w == negInf32 })

/-- RSQRT (R46). -/
def rsqrtOp (n : Nat) (x : Num) : W32 × Flags :=
  match x with
  | .nan => (nan32, noFlags)
  | .inf true => (nan32, invalidFlag)
  | .inf false => (0, noFlags)
  | .fin s m e =>
    if m == 0 then (if s then negInf32 else posInf32, { noFlags with overflow := true })
    else if s then (nan32, invalidFlag)
    else
      let ref := rsqrtRef m e
      let w := freeNear n ref (.fin false 2 (ulpExp ref))
      (w, { noFlags with inexact := numCmp (numMul (numMul (num32 w) (num32 w)) x) (.fin false 1 0) != some .eq })

end Sys2Proof.Machine
end

