-- ==== Sys2Proof/Machine/Flags.lean ====
section
/-! DEFINITION. The arithmetic flags of the queues: how lanes raise them and how VSTAT gathers them (02 R32, R33). -/

namespace Sys2Proof.Machine

open Sys2Proof

/-- The flags of reading one input element: DENORM for a subnormal FP32, BF16, FP16 or FP8 (R32). DESIGN CHOICE (log entry 83): an
element of an MXFP8 source counts as an FP8 input, by its pattern before its scale; MXFP6 and MXFP4 elements do not count. -/
def inputFlags (code bits : Nat) : Flags :=
  { noFlags with denorm := (decide (code ≤ 4) || code == 0xA || code == 0xB) && isSubnormal (fmtOf code) bits }

/-- The flags of an exact operation whose inputs are given: INVALID when a NaN comes of inputs that are not NaN (R32). -/
def opFlags (inputs : List Num) (result : Num) : Flags :=
  { noFlags with invalid := result == .nan && inputs.all (fun x => x != .nan) }

/-- The flags of a whole instruction, its lanes' gathered. -/
def gather (l : List Flags) : Flags := l.foldl flagsOr noFlags

/-- VSTAT of VQ with flags gathered in. -/
def raiseVq (s : State) (t : Nat) (f : Flags) : State :=
  updCore s t (fun c => { c with vstatVq := c.vstatVq ||| flagsWord f })

/-- VSTAT of TQ with flags gathered in. -/
def raiseTq (s : State) (t : Nat) (f : Flags) : State :=
  updCore s t (fun c => { c with vstatTq := c.vstatTq ||| flagsWord f })

/-- VSTAT of a steward's stream vector unit with flags gathered in (04 R111). -/
def raiseSvu (s : State) (i : Nat) (f : Flags) : State :=
  updSteward s i (fun c => { c with vstat := c.vstat ||| flagsWord f })

end Sys2Proof.Machine
end

