-- ==== Sys2Proof/Machine/Issue.lean ====
section
/-! DEFINITION. Kernels of a tensor core: work packets, the issue stage, the queues, faults and completion records
(03_tensor_core_programs.md R48–R83). -/

namespace Sys2Proof.Machine

open Sys2Proof

/-! ### Fault codes (18 R484) -/

def fUnitAbsent : Nat := 0x0001
def fIllegalOp : Nat := 0x0101
def fLoopDepth : Nat := 0x0102
def fLoopRange : Nat := 0x0103
def fTrayUnderflow : Nat := 0x0104
def fStallLimit : Nat := 0x0105
def fImageLoc : Nat := 0x0106
def fImageEnd : Nat := 0x0107
def fImageFormat : Nat := 0x0108
def fPoisonRead : Nat := 0x0109
def fRegParity : Nat := 0x010A
def fVgroupWrap : Nat := 0x0201
def fSparseMeta : Nat := 0x0202
def fSpadRange : Nat := 0x0203
def fAccRange : Nat := 0x0204
def fVcount : Nat := 0x0205
def fFormat : Nat := 0x0206
def fTallyShape : Nat := 0x0207
def fTileRange : Nat := 0x0208
def fPartFence : Nat := 0x030C

/-- Two quantities packed in a detail: the first in bits 63:32, the second in bits 31:0 (R539). -/
def detail2 (x y : Nat) : Nat := (x % 4294967296) * 4294967296 + y % 4294967296

/-- A device address with another quantity in bits 63:56 (R539). -/
def detailAddr (other addr : Nat) : Nat := (other % 256) * 2 ^ 56 + addr % 2 ^ 52

/-! ### Queues -/

/-- A queue's entries, head first. -/
def queueOf (c : Core) (q : Nat) : List QEntry := sGet [] c.queues q

/-- A core with a queue's entries replaced. -/
def setQueue (c : Core) (q : Nat) (l : List QEntry) : Core := { c with queues := sSet [] c.queues q l }

/-- The waiting time of the first instruction of a queue starts when only markers stand before it. -/
def stampHead (now : Nat) : List QEntry → List QEntry
  | [] => []
  | e :: r => { e with since := some (e.since.getD now) } :: (if e.marker then stampHead now r else r)

/-- A marker at the head that leaves its queue: what waited behind it starts a new wait. -/
def popMarker (now : Nat) (c : Core) (q : Nat) : Core :=
  setQueue c q (stampHead now (((queueOf c q).drop 1).map (fun e => { e with since := none })))

/-- The queue without its head, its new head stamped. -/
def popQueue (now : Nat) (c : Core) (q : Nat) : Core := setQueue c q (stampHead now ((queueOf c q).drop 1))

/-- A core with one more instruction of a queue complete (R62). -/
def completeOne (c : Core) (q : Nat) : Core := { c with completed := sSet 0 c.completed q (sGet 0 c.completed q + 1) }

/-- Whether every instruction a marker waits for is complete (R64). -/
def waitsMet (c : Core) (w : List Nat) : Bool :=
  (indexed w).all (fun x => decide (x.2 ≤ sGet 0 c.completed x.1))

/-- The opcode of an instruction word (R54). -/
def wOp (w : BitVec 128) : Nat := fld w.toNat 127 120

/-- Bits of an instruction word. -/
def wf' (w : BitVec 128) (hi lo : Nat) : Nat := fld w.toNat hi lo

/-- A captured A register. -/
def capA (e : QEntry) (r : Nat) : Nat := (sGet 0 e.a r).toNat

/-- A captured L register. -/
def capL (e : QEntry) (r : Nat) : Nat := (sGet 0 e.l r).toNat

/-! ### Faults (R81) -/

/-- Drops the watch and the undelivered message of a core's pending BWAIT (09 R242). -/
def cancelWatch (s : State) (t : Nat) : State :=
  { s with watches := s.watches.filter (fun w => w.target != .xq t), msgs := s.msgs.filter (fun m => m.target != .xq t) }

/-- Whether an entry has started and finishes under step 2 of R81: only a sent XSEND. A registered BWAIT is cancelled. -/
def keepsRunning (e : QEntry) : Bool := e.started && e.send.isSome

/-- A core's queues after a fault or an abort: what has not started is discarded and counted, the tray emptied, the issue stage
stopped (R81, R83). -/
def stopCore (c : Core) (f : Option FaultRec) (aborted : Bool) : Core :=
  let qs := [0, 1, 2, 3, 4, 5]
  let gone := qs.foldl (fun n q => n + ((queueOf c q).filter (fun e => !e.marker && !keepsRunning e)).length) 0
  let c1 := qs.foldl (fun x q => setQueue x q ((queueOf x q).filter keepsRunning)) c
  let stopKernel (k : Kernel) : Kernel :=
    { k with ended := true, aborted := k.aborted || aborted, fault := k.fault.or f, discarded := k.discarded + gone,
             stall := none, loops := [] }
  { c1 with tray := [], lent := false, kernel := c1.kernel.map stopKernel }

/-- The value of a detail: the one the spec states, or a free value where it states none (log entry 16). -/
def detailOf (s : State) (d : Option Nat) : State × Nat :=
  match d with
  | some x => (s, x % 2 ^ 64)
  | none => (drew s, freeNat s % 2 ^ 64)

/-- A fault of an instruction of a core (R81). Only the first fault is recorded; a later one is counted alone. -/
def faultCore (s : State) (t queue code index iter : Nat) (d : Option Nat) : State :=
  let c := getCore s t
  match c.kernel with
  | none => s
  | some k =>
    if k.fault.isSome || k.aborted then updCore s t (fun c => { c with faults := c.faults + 1 })
    else
      let r := detailOf s d
      let rec' : FaultRec := { queue := queue, code := code, index := index, iter := iter, detail := r.2 }
      cancelWatch (updCore r.1 t (fun c => let c1 := stopCore c (some rec') false; { c1 with faults := c1.faults + 1 })) t

/-! ### Running the head of a queue -/

/-- What the head instruction of a queue does: completes, waits, stays at the head having started, or faults. -/
inductive Body where
  | done (s : State)
  | wait
  | stay (s : State)
  | fault (s : State) (code : Nat) (detail : Option Nat)

/-- A parity error met by a queue's read of a register or entry (18 R475, R479). -/
def parityFault (s : State) (t q index iter : Nat) : State :=
  let s1 := updCore s t (fun c => { c with parityErr := sSet false c.parityErr q false })
  let s2 := countDeferred (noteDie (bump s1 (0x4820 + t / 32) 4 1) (t / 32)
    { address := q, syndrome := 0, count := 1, stamp := s.now, source := 4, uncorrectable := true, unit := t })
  faultCore s2 t q fRegParity index iter none

/-- The head instruction of a queue run by its opcode: nothing happens unless the core runs a kernel and that queue's head is
an instruction of that opcode (log entry 5), nor on the matrix and vector queues of a core that lends its budget (09 R244). -/
def runHead (s : State) (t q op : Nat) (body : State → QEntry → Body) : Res :=
  let c := getCore s t
  match isReady s && corePresent s t && c.kernel.isSome, queueOf c q with
  | true, e :: _ =>
    if e.marker || wOp e.word != op || (c.lent && decide (q < 2)) then .next s
    else if sGet false c.parityErr q then .next (parityFault (updCore s t (fun c => popQueue s.now c q)) t q e.index e.iter)
    else
      match body s e with
      | .done s1 => .next (updCore s1 t (fun c => completeOne (popQueue s.now c q) q))
      | .wait => .next s
      | .stay s1 => .next s1
      | .fault s1 code d => .next (faultCore (updCore s1 t (fun c => popQueue s1.now c q)) t q code e.index e.iter d)
  | _, _ => .next s

/-! ### Reads and writes that a core makes outside its scratchpad -/

/-- Who makes an access that is not a transfer: a tensor core itself, a steward, or any other agent (08 R213). -/
inductive Who where
  | core (t : Nat) | steward | other
deriving DecidableEq, Repr

/-- Whether R213 refuses an agent an address: a closed scratchpad window, or steward local memory to another agent. -/
def windowShut (s : State) (w : Who) (a : Nat) : Bool :=
  match locate a with
  | .spad _ _ => windowClosed s (match w with | .core t => some t | _ => none) a
  | .lmem _ _ => w == .other
  | _ => false

/-- A read of bytes of bead counters (09 R233): their values, without their poison bits. -/
def beadRead (s : State) (die off n : Nat) : State × List Byte × Bool :=
  let ws := (List.range ((off + n - 1) / 4 + 1 - off / 4)).map (fun i => off / 4 + i)
  let s1 := ws.foldl (fun x w => touchBead x die w) s
  (s1, ((ws.flatMap (fun w => natLe 4 (getBead s1 die w).value.toNat)).drop (off % 4)).take n, false)

/-- A read by a unit other than a transfer (R202, R146): unbacked or absent addresses answer all ones with poison, counted for a
stack; a region in transition and a window that R213 refuses the same. -/
def unitRead (s : State) (a n : Nat) (w : Who := .other) : State × List Byte × Bool :=
  if n == 0 then (s, [], false)
  else if windowShut s w a then (s, List.replicate n 0xFF#8, true)
  else if locBacked s (locate a) && locBacked s (locate (a + n - 1)) && !inTransition s a n then
    match locate a with
    | .bead d off => beadRead s d off n
    | _ => if isCached a then readMem s .home a n else readMem s .direct a n
  else
    let s1 := match locate a with
      | .stack k off => if stackPresent s k && decide (backed (getStack s k) < off + n) then bump s (0x4000 + k) 0x0B 1 else s
      | _ => s
    (s1, List.replicate n 0xFF#8, true)

/-- A write by a unit other than a transfer, on a path (R202, R146, R151, R213): discarded and counted outside backed memory and
where a window refuses it. The flag says that the signal is applied with poison set. -/
def unitWrite (s : State) (p : Path) (a : Nat) (v : List Byte) (poison : Bool) (w : Who := .other) : State × Bool :=
  if v.isEmpty then (s, poison)
  else if windowShut s w a then (bump s 0x4800 0x10 1, true)
  else if locBacked s (locate a) && locBacked s (locate (a + v.length - 1)) then
    if inTransition s a v.length then
      (match locate a with | .stack k _ => bump s (0x4000 + k) 0x0C 1 | _ => s, true)
    else
      match locate a with
      | .bead d off =>
        if beadWord off v.length then (beadWindow s d off v, poison) else (beadWindow s d off v, true)
      | _ =>
        let r := writeMem s (if isCached a then p else .direct) a v poison
        (r.1, r.2 || poison)
  else
    match locate a with
    | .stack k off => if stackPresent s k && decide (backed (getStack s k) < off + v.length) then (bump s (0x4000 + k) 0x0B 1, true)
                      else (bump s 0x4800 0x10 1, true)
    | _ => (bump s 0x4800 0x10 1, true)

/-! ### Completion records (R79) -/

/-- The 64 bytes of a completion record. DESIGN CHOICE (log entry 86): index, iteration and detail are 0 when status is not 1, of which
the spec says nothing. -/
def recordBytes (c : Core) (k : Kernel) (now cycles : Nat) : List Byte :=
  let f := k.fault
  let status := if k.aborted then 2 else if f.isSome then 1 else 0
  let q := match f with | some r => if k.aborted then 0xFF else r.queue | none => 0xFF
  let g (x : FaultRec → Nat) : Nat := match f with | some r => if k.aborted then 0 else x r | none => 0
  natLe 2 k.pkt.tag ++ natLe 1 status ++ natLe 1 q ++ natLe 2 (g FaultRec.code) ++ natLe 2 0 ++ natLe 4 (g FaultRec.index)
    ++ natLe 4 (g FaultRec.iter) ++ natLe 8 (g FaultRec.detail) ++ natLe 4 c.vstatVq.toNat ++ natLe 4 c.vstatTq.toNat
    ++ natLe 8 k.start ++ natLe 8 now ++ natLe 8 cycles ++ natLe 4 k.discarded ++ natLe 4 0

/-- The record written and the packet's signal applied; work that did not end normally applies it poisoned (18 R491). -/
def writeRecord (s : State) (t : Nat) (k : Kernel) : State :=
  let cycles := freeNat s % 2 ^ 64
  let s1 := drew s
  let w := unitWrite (debitAddr s1 k.pkt.partition k.pkt.record 64) .home k.pkt.record
    (recordBytes (getCore s1 t) k s1.now cycles) false (.core t)
  let s2 := updCore w.1 t (fun c => { c with cycles := c.cycles + cycles, packetsDone := c.packetsDone + 1 })
  let s3 := match k.fault with | some f => itemFailed s2 k.pkt.partition f.code | none => s2
  applySignal s3 k.pkt.partition k.pkt.signal (w.2 || k.aborted || k.fault.isSome)

/-! ### Work packets (R71–R76) -/

/-- The fields of a work packet's 64 bytes (R71); bits 63:52 of every address are reserved and ignored. -/
def parseWork (b : List Byte) (sc : Nat) : WorkPkt :=
  { image := bytesAt b 0 8 % 2 ^ 52, presets := bytesAt b 8 8 % 2 ^ 52, record := bytesAt b 16 8 % 2 ^ 52,
    a0 := BitVec.ofNat 64 (bytesAt b 24 8), a1 := BitVec.ofNat 64 (bytesAt b 32 8),
    l0 := BitVec.ofNat 32 (bytesAt b 40 4), l1 := BitVec.ofNat 32 (bytesAt b 44 4),
    signal := BitVec.ofNat 32 (bytesAt b 48 4), tag := bytesAt b 52 2, partition := bytesAt b 54 1 % 16,
    flags := bytesAt b 55 1, sc := sc }

/-- Whether a range may hold an image or a preset block (R76): wholly within backed protected strips of one stack, the populated
GDDR tier or host memory, and not fenced for the partition. -/
def imagePlace (s : State) (p a n : Nat) : Bool :=
  let last := a + n - 1
  n != 0 && decide (a + n ≤ 2 ^ 52) && (locRange s a).1 == (locRange s last).1 && locBacked s (locate a) && locBacked s (locate last) &&
  (match locate a with
   | .stack k off =>
     let st := getStack s k
     (List.range 16).all (fun r => isProtected st r || decide (off + n ≤ r * regionSize st) || decide ((r + 1) * regionSize st ≤ off))
   | .gddr _ => true
   | .host _ => true
   | _ => false) && !fenced s p a n

/-- A kernel that has not started an instruction. -/
def newKernel (p : WorkPkt) (count entry now : Nat) : Kernel :=
  { pkt := p, count := count, start := now, next := entry, ended := false, aborted := false, fault := none, discarded := 0,
    loops := [], stall := none, stallSince := 0 }

/-- A packet that starts no kernel: its record carries the fault with its detail (R76, R79). DESIGN CHOICE (log entry 86): its index is
0, and its VSTAT words are those that the kernel before left. -/
def packetFault (s : State) (t : Nat) (p : WorkPkt) (code : Nat) (d : Option Nat) : State :=
  let r := detailOf s d
  let k0 := newKernel p 0 0 s.now
  let k := { k0 with ended := true,
                     fault := some { queue := 0xF, code := code, index := 0, iter := 0xFFFFFFFF, detail := r.2 } }
  writeRecord (updCore r.1 t (fun c => { c with faults := c.faults + 1 })) t k

/-- The A registers of a preset block whose mask bit is set, then those of the packet (R72, R74). -/
def presetA (blk : List Byte) (p : WorkPkt) : Store W64 :=
  let m := bytesAt blk 0 4
  let r := (bitsOf 32 m).foldl (fun x i => sSet 0 x i (BitVec.ofNat 64 (bytesAt blk (16 + 8 * i) 8))) ([] : Store W64)
  sSet 0 (sSet 0 r 0 p.a0) 1 p.a1

/-- The L registers likewise. -/
def presetL (blk : List Byte) (p : WorkPkt) : Store W32 :=
  let m := bytesAt blk 4 1
  let r := (bitsOf 8 m).foldl (fun x i => sSet 0 x i (BitVec.ofNat 32 (bytesAt blk (272 + 4 * i) 4))) ([] : Store W32)
  sSet 0 (sSet 0 r 0 p.l0) 1 p.l1

/-- The state of a core when a packet starts (R74). -/
def startCore (c : Core) (p : WorkPkt) (blk : List Byte) (k : Kernel) : Core :=
  { c with a := presetA blk p, l := presetL blk p, tray := [], nextPush := 0, vstatVq := 0, vstatTq := 0, queues := [],
           issued := [], completed := [], kernel := some k, lent := false, icache := [], icacheErr := [] }

/-- WORK_PACKET (R73): pending, or dropped and counted when four are pending; one to an absent core is answered UNIT_ABSENT to the
steward that wrote it (00 R3). -/
def execWorkPacket (t sc : Nat) (packet : List Byte) (s : State) : Res :=
  if isReady s && corePresent s t then
    let c := getCore s t
    if c.pend.length ≥ 4 then .next (updCore s t (fun c => { c with dropped := c.dropped + 1 }))
    else .next (stirCore (updCore s t (fun c => { c with pend := c.pend ++ [parseWork (padTo 64 packet) sc] })) t)
  else if isReady s then .next (report s sc fUnitAbsent t)
  else .next s

/-- The checks of a packet in the order of R76, and its start (R74). -/
def startPacket (s : State) (t : Nat) (p : WorkPkt) : State :=
  if ownerOfCore s t != some p.partition then itemFailed (report s p.sc fPartFence 0) p.partition fPartFence
  else if p.record == 0 || p.record % 64 != 0 then itemFailed (report s p.sc 0 0) p.partition 0
  else if locAbsent s (locate p.image) then packetFault s t p fUnitAbsent (some p.image)
  else if p.image % 64 != 0 || !imagePlace s p.partition p.image 64 then packetFault s t p fImageLoc (some p.image)
  else
    let h := unitRead s p.image 64 (.core t)
    let count := bytesAt h.2.1 8 4
    let entry := bytesAt h.2.1 12 4
    if h.2.2 then packetFault h.1 t p fPoisonRead none
    else if !imagePlace h.1 p.partition p.image (64 + 16 * count) then packetFault h.1 t p fImageLoc (some p.image)
    else if bitAt p.flags 0 && p.presets != 0 && (p.presets % 16 != 0 || !imagePlace h.1 p.partition p.presets 304) then
      packetFault h.1 t p fImageLoc (some p.presets)
    else if bytesAt h.2.1 0 4 != 0x31494B54 || bytesAt h.2.1 4 2 != 1 || count == 0 || decide (1048576 < count)
        || decide (count ≤ entry) || decide (6291456 < bytesAt h.2.1 16 4) then packetFault h.1 t p fImageFormat none
    else
      let b := if bitAt p.flags 0 && p.presets != 0 then unitRead h.1 p.presets 304 (.core t)
        else (h.1, List.replicate 304 0, false)
      if b.2.2 then packetFault b.1 t p fPoisonRead none
      else updCore b.1 t (fun c => startCore c p b.2.1 (newKernel p count entry s.now))

/-- PACKET_START (R73, R74, R76): the next pending packet, once no kernel runs and the partition's cores are awake. -/
def execPacketStart (t : Nat) (s : State) : Res :=
  let c := getCore s t
  let awake := !c.gated && (match ownerOfCore s t with | some p => (getPart s p).stop == 0 | none => true)
  match isReady s && corePresent s t && awake, c.kernel, c.pend with
  | true, none, p :: r =>
    if accessHeld s p.image 64 || accessHeld s p.record 64 || (bitAt p.flags 0 && accessHeld s p.presets 304) then .next s
    else .next (startPacket (readWord wPartition (updCore s t (fun c => { c with pend := r }))) t p)
  | _, _, _ => .next s

/-- KERNEL_END (R78, R79): every queue has completed what was issued, so SQ writes the record and applies the signal. -/
def execKernelEnd (t : Nat) (s : State) : Res :=
  let c := getCore s t
  match isReady s && corePresent s t, c.kernel with
  | true, some k =>
    if k.ended && [0, 1, 2, 3, 4, 5].all (fun q => (queueOf c q).all (fun e => e.marker)) && !accessHeld s k.pkt.record 64 then
      .next (updCore (writeRecord s t k) t (fun c => { c with kernel := none, queues := [] }))
    else .next s
  | _, _ => .next s

/-- KERNEL_ABORT (R83): as R81, with status 2. -/
def execKernelAbort (t : Nat) (s : State) : Res :=
  let c := getCore s t
  match isReady s && corePresent s t, c.kernel with
  | true, some k =>
    if k.fault.isSome || k.aborted then .next s
    else .next (cancelWatch (updCore s t (fun c => stopCore c none true)) t)
  | _, _ => .next s

/-! ### The issue stage -/

/-- The opcodes in use and the queue code each must carry (R55 and the tables of 04, 05, 08, 09, 15). -/
def opQueue (op : Nat) : Option Nat :=
  if op == 0x00 || op == 0x08 || op == 0x09 || op == 0x10 || op == 0x11 then some 0
  else if [0x40, 0x41, 0x43, 0x44, 0x45, 0x46, 0x47, 0x48, 0x49, 0x4C, 0x4E, 0x50, 0x51, 0x52, 0x53, 0x58, 0x60, 0x61, 0x7E, 0x7F].contains op
  then some 1
  else if (decide (0x80 ≤ op) && decide (op ≤ 0x88)) || op == 0x98 || op == 0x99 || op == 0x9F then some 2
  else if op == 0xA0 || op == 0xB0 then some 3
  else if op == 0xA8 || op == 0xAC || op == 0xB8 || op == 0xB9 then some 4
  else if op == 0xC0 || op == 0xC1 || op == 0xC8 || op == 0xC9 then some 5
  else if (decide (0xE0 ≤ op) && decide (op ≤ 0xED) && op != 0xE5) || (decide (0xF0 ≤ op) && decide (op ≤ 0xF3)) then some 0xF
  else none

/-- Vector and tally instructions that name a pop bit, kinds or codes the issue stage refuses (04 R96, R98, R101, R102, R108,
R541, R542; 09 R237). -/
def issueIllegal (w : BitVec 128) : Bool :=
  let op := wOp w
  let dk := wf' w 89 88
  let sk := wf' w 82 81
  let pop := wf' w 64 64 == 1
  let sl := wf' w 75 75 == 1
  let cond := wf' w 46 44
  let tray := sl || sk == 3
  if decide (0x40 ≤ op) && decide (op ≤ 0x7F) then
    if op == 0x7E then !tray || (pop && sk != 3)
    else
      (pop && sk != 3) ||
      (if op == 0x47 || op == 0x4C then dk != 2 else if op == 0x60 then dk != 3
       else if op == 0x58 || op == 0x7F then dk != 1 else decide (1 < dk)) ||
      (op == 0x47 && cond == 7) || (op == 0x4C && decide (4 < cond)) || (op == 0x61 && (sk != 0 || pop))
  else if decide (0x80 ≤ op) && decide (op ≤ 0x9F) then
    if op == 0x88 then !tray || (pop && sk != 3)
    else
      (pop && sk != 3) || decide (1 < dk) || (op == 0x87 && sk != 1) || (op == 0x98 && dk != 0) ||
      (op == 0x99 && (sk != 0 || pop || dk != 1)) || (op == 0x9F && dk != 1)
  else if op == 0xC8 then wf' w 98 97 == 3
  else false

/-- A register specifier's value, zero-extended (R53, R57); none when reserved. -/
def specRead (c : Core) (r : Nat) : Option Nat :=
  if r < 32 then some (sGet 0 c.a r).toNat else if r < 40 then some (sGet 0 c.l (r - 32)).toNat else none

/-- A result written to a register specifier; an L register keeps the low 32 bits (R57). -/
def specWrite (c : Core) (r v : Nat) : Core :=
  if r < 32 then { c with a := sSet 0 c.a r (BitVec.ofNat 64 v) }
  else { c with l := sSet 0 c.l (r - 32) (BitVec.ofNat 32 v) }

/-- The result of a scalar instruction from its sources (R57). -/
def scalarResult (op x y imm : Nat) : Nat :=
  match op with
  | 0xE0 => x
  | 0xE1 => imm
  | 0xE2 => (x + y) % 2 ^ 64
  | 0xE3 => (x + imm) % 2 ^ 64
  | 0xE4 => (x + 2 ^ 64 - y) % 2 ^ 64
  | 0xE6 => (x <<< (y % 64)) % 2 ^ 64
  | 0xE7 => (x <<< (imm % 64)) % 2 ^ 64
  | 0xE8 => x >>> (y % 64)
  | 0xE9 => x >>> (imm % 64)
  | 0xEA => x &&& y
  | 0xEB => x &&& imm
  | 0xEC => x ||| y
  | _ => x ||| imm

/-- Whether a scalar opcode reads its first and its second source field. -/
def scalarUses (op : Nat) : Bool × Bool :=
  (op != 0xE1, op == 0xE2 || op == 0xE4 || op == 0xE6 || op == 0xE8 || op == 0xEA || op == 0xEC)

/-- The core after a scalar instruction; none when a specifier in use is reserved (R53). -/
def scalarStep (c : Core) (w : BitVec 128) : Option Core :=
  let op := wOp w
  if op == 0xF2 then some c
  else
    let d := wf' w 115 110
    let x := if (scalarUses op).1 then specRead c (wf' w 109 104) else some 0
    let y := if (scalarUses op).2 then specRead c (wf' w 103 98) else some 0
    match x, y with
    | some x, some y => if d < 40 then some (specWrite c d (scalarResult op x y (wf' w 63 0))) else none
    | _, _ => none

/-- Where the issue stage goes after index `i`: back to the start of a body with iterations left, else on (R59). -/
def nextIndex : List LoopFrame → Nat → List LoopFrame × Nat
  | [], i => ([], i)
  | f :: r, i =>
    if i == f.last then
      if f.left > 1 then ({ f with left := f.left - 1, iter := f.iter + 1 } :: r, f.first) else nextIndex r i
    else (f :: r, i)

/-- A kernel that has handled the instruction at its index. -/
def advance (k : Kernel) : Kernel :=
  let n := nextIndex k.loops (k.next + 1)
  { k with loops := n.1, next := n.2 }

/-- The iteration of the innermost loop in progress (R79). -/
def iterOf (k : Kernel) : Nat := match k.loops with | [] => 0xFFFFFFFF | f :: _ => f.iter % 4294967296

/-- A core with its kernel replaced. -/
def setKernel (s : State) (t : Nat) (k : Kernel) : State := updCore s t (fun c => { c with kernel := some k })

/-- A fault of the issue stage at the present instruction. -/
def issueFault (s : State) (t : Nat) (k : Kernel) (code : Nat) : State := faultCore s t 0xF code k.next (iterOf k) none

/-- LOOP handled (R58–R60). DESIGN CHOICE (log entry 86): a LOOP that breaks several checks faults with the first of ILLEGAL_OP,
LOOP_DEPTH and LOOP_RANGE. -/
def loopStep (s : State) (t : Nat) (k : Kernel) (w : BitVec 128) : State :=
  let body := wf' w 112 101
  let count := (sGet 0 (getCore s t).l (wf' w 115 113)).toNat
  let first := k.next + 1
  let last := first + body
  if body == 0 then issueFault s t k fIllegalOp
  else if k.loops.length ≥ 4 then issueFault s t k fLoopDepth
  else if decide (k.count < last) || (match k.loops with | f :: _ => decide (f.last < last) | [] => false) then
    issueFault s t k fLoopRange
  else if count == 0 then
    let n := nextIndex k.loops last
    setKernel s t { k with loops := n.1, next := n.2 }
  else setKernel s t { k with loops := { first := first, last := last, left := count, iter := 0 } :: k.loops, next := first }

/-- What a BARRIER's markers wait for: the instructions issued so far to each queue of the wait mask. -/
def barrierWaits (c : Core) (wait : Nat) : List Nat :=
  (List.range 6).map (fun q => if bitAt wait q then sGet 0 c.issued q else 0)

/-- A barrier marker. -/
def markerEntry (index iter : Nat) (waits : List Nat) : QEntry :=
  { marker := true, word := 0, a := [], l := [], index := index, iter := iter, waits := waits, started := false, since := none,
    send := none, desc := none }

/-- BARRIER handled (R64, R65): stalls, with nothing placed, while a held queue is full. -/
def barrierStep (s : State) (t : Nat) (k : Kernel) (w : BitVec 128) : State :=
  let wait := wf' w 115 110
  let hold := wf' w 109 103
  let c := getCore s t
  if wait == 0 || hold == 0 then setKernel s t (advance k)
  else if (bitsOf 6 hold).any (fun q => decide (16 ≤ (queueOf c q).length)) then s
  else
    let waits := barrierWaits c wait
    let s1 := updCore s t (fun c => (bitsOf 6 hold).foldl (fun x q =>
      setQueue x q (stampHead s.now (queueOf x q ++ [markerEntry k.next (iterOf k) waits]))) { c with restSince := s.now })
    let k1 := advance k
    let stalls := if bitAt hold 6 then some waits else none
    setKernel s1 t { k1 with stall := stalls, stallSince := s.now }

/-- An instruction placed at the tail of its queue with the registers it captures (R49–R51). -/
def enqueue (s : State) (t : Nat) (k : Kernel) (q : Nat) (w : BitVec 128) : State :=
  let c := getCore s t
  if (queueOf c q).length ≥ 16 then s
  else
    let e : QEntry := { marker := false, word := w, a := c.a, l := c.l, index := k.next, iter := iterOf k, waits := [],
                        started := false, since := none, send := none, desc := none }
    let put (c : Core) : Core :=
      let c1 := setQueue c q (stampHead s.now (queueOf c q ++ [e]))
      { c1 with issued := sSet 0 c1.issued q (sGet 0 c1.issued q + 1), restSince := s.now }
    setKernel (updCore s t put) t (advance k)

/-- The present instruction of a kernel handled: scalar, loop, barrier and end by the issue stage, the rest queued. -/
def issueWord (s : State) (t : Nat) (k : Kernel) (w : BitVec 128) : State :=
  let op := wOp w
  match opQueue op with
  | none => issueFault s t k fIllegalOp
  | some q =>
    if wf' w 119 116 != q || issueIllegal w then issueFault s t k fIllegalOp
    else if q == 0xF then
      if op == 0xF0 then loopStep s t k w
      else if op == 0xF1 then barrierStep s t k w
      else if op == 0xF3 then setKernel s t { k with ended := true }
      else
        match scalarStep (getCore s t) w with
        | none => issueFault s t k fIllegalOp
        | some c => setKernel (updCore s t (fun _ => c)) t (advance k)
    else enqueue s t k q w

/-- Lines that the issue stage's instruction cache holds (R48): 32 KiB of 128-byte lines. -/
def icacheLines : Nat := 256

/-- A line of the instruction cache with a parity error, met by a fetch: it is given up, to be fetched again, which counts as corrected (18
R475, R479). -/
def meetFetch (s : State) (t key : Nat) : State :=
  if (getCore s t).icacheErr.contains key then
    countCorrected (noteDie (bump (updCore s t (fun c => { c with icache := sDel c.icache key, icacheErr := c.icacheErr.filter (fun k => k != key) }))
      (0x4820 + t / 32) 3 1) (t / 32)
      { address := key % 256, syndrome := 0, count := 1, stamp := s.now, source := 4, uncorrectable := false, unit := t })
  else s

/-- An instruction fetched through the core's instruction cache (R48, R77): a line that it does not hold is read whole, and held unless
it is poisoned; a full cache first gives up a freely chosen line. The answer says whether the instruction reads as poisoned. -/
def fetchWord (s0 : State) (t addr : Nat) : State × BitVec 128 × Bool :=
  let key := addr / 128
  let s := meetFetch s0 t key
  match (getCore s t).icache.find? (fun e => e.1 == key) with
  | some e => (s, BitVec.ofNat 128 (bytesAt e.2 (addr % 128) 16), false)
  | none =>
    let r := unitRead s (key * 128) 128 (.core t)
    let w := BitVec.ofNat 128 (bytesAt r.2.1 (addr % 128) 16)
    if r.2.2 then (r.1, w, peekPoison r.1 (if isCached addr then .home else .direct) addr 16)
    else
      let held := (getCore r.1 t).icache
      let full := decide (icacheLines ≤ held.length)
      let s1 := if full then drew r.1 else r.1
      let kept := if full then sDel held ((held.map (fun e => e.1)).getD (freeNat r.1 % held.length) 0) else held
      (updCore s1 t (fun c => { c with icache := sIns kept key r.2.1, icacheErr := c.icacheErr.filter (fun k => k != key) }), w, false)

/-- Whether a fetch must read memory that cannot be reached now. -/
def fetchHeld (s : State) (t addr : Nat) : Bool :=
  !((getCore s t).icache.any (fun e => e.1 == addr / 128) && !(getCore s t).icacheErr.contains (addr / 128)) && accessHeld s (addr / 128 * 128) 128

/-- One handling of the issue stage; with `only`, nothing happens unless the next instruction has that opcode. A BARRIER that
holds the issue stage ends when its condition holds (R64); a fetch from host memory waits for the link (14 R386). -/
def issueStep (s : State) (t : Nat) (only : Option Nat) : Res :=
  let c := getCore s t
  match isReady s && corePresent s t, c.kernel with
  | true, some k0 =>
    let free := match k0.stall with | none => true | some w => waitsMet c w
    if k0.ended || !free then .next s
    else
      let k := { k0 with stall := none }
      if k.count ≤ k.next then
        (match only with | none => .next (issueFault (setKernel s t k) t k fImageEnd) | some _ => .next s)
      else if fetchHeld s t (k.pkt.image + 64 + 16 * k.next) then .next s
      else
        let r := fetchWord s t (k.pkt.image + 64 + 16 * k.next)
        let w := r.2.1
        match only with
        | some op => if wOp w != op || r.2.2 then .next s else .next (issueWord (setKernel r.1 t k) t k w)
        | none =>
          if sGet false c.parityErr 0xF then .next (parityFault s t 0xF k.next (iterOf k))
          else if r.2.2 then .next (issueFault (setKernel r.1 t k) t k fPoisonRead)
          else .next (issueWord (setKernel r.1 t k) t k w)
  | _, _ => .next s

def execIssue (t : Nat) (s : State) : Res := issueStep s t none
def execMov (t : Nat) (s : State) : Res := issueStep s t (some 0xE0)
def execMovi (t : Nat) (s : State) : Res := issueStep s t (some 0xE1)
def execAdd (t : Nat) (s : State) : Res := issueStep s t (some 0xE2)
def execAddi (t : Nat) (s : State) : Res := issueStep s t (some 0xE3)
def execSub (t : Nat) (s : State) : Res := issueStep s t (some 0xE4)
def execShl (t : Nat) (s : State) : Res := issueStep s t (some 0xE6)
def execShli (t : Nat) (s : State) : Res := issueStep s t (some 0xE7)
def execShr (t : Nat) (s : State) : Res := issueStep s t (some 0xE8)
def execShri (t : Nat) (s : State) : Res := issueStep s t (some 0xE9)
def execAnd (t : Nat) (s : State) : Res := issueStep s t (some 0xEA)
def execAndi (t : Nat) (s : State) : Res := issueStep s t (some 0xEB)
def execOr (t : Nat) (s : State) : Res := issueStep s t (some 0xEC)
def execOri (t : Nat) (s : State) : Res := issueStep s t (some 0xED)
def execNop (t : Nat) (s : State) : Res := issueStep s t (some 0xF2)
def execLoop (t : Nat) (s : State) : Res := issueStep s t (some 0xF0)
def execBarrier (t : Nat) (s : State) : Res := issueStep s t (some 0xF1)
def execEndKernel (t : Nat) (s : State) : Res := issueStep s t (some 0xF3)

/-- BARRIER_MARKER_RELEASE (R64): a marker at the head leaves its queue once its condition holds. -/
def execBarrierMarkerRelease (t q : Nat) (s : State) : Res :=
  let c := getCore s t
  match isReady s && corePresent s t && decide (q < 6), queueOf c q with
  | true, e :: _ => if e.marker && waitsMet c e.waits then .next (updCore s t (fun c => popMarker s.now c q)) else .next s
  | _, _ => .next s

/-! ### The tray (R67–R70) -/

/-- Whether a slot is full, and its accumulator. -/
def slotAcc (c : Core) (i : Nat) : Option Nat := match sGet 0 c.tray i with | 0 => none | n + 1 => some n

/-- Whether an accumulator is recorded in a full slot. -/
def accInTray (c : Core) (a : Nat) : Bool := (List.range 8).any (fun i => slotAcc c i == some a)

/-- Whether the next push has an empty slot. -/
def pushReady (c : Core) : Bool := (slotAcc c c.nextPush).isNone

/-- A push of an accumulator (R67). -/
def trayPush (c : Core) (a : Nat) : Core := { c with tray := sSet 0 c.tray c.nextPush (a + 1), nextPush := (c.nextPush + 1) % 8 }

/-- A slot emptied. -/
def trayPop (c : Core) (i : Nat) : Core := { c with tray := sDel c.tray i }

/-- The tray slot that a vector or tally instruction names, if it names one (04 R94, R108, R541); VFLAGS, MLOGIC and VTGET have no
source of that kind and ignore the field (00 R9, log entry 29). -/
def slotNamed (e : QEntry) : Option Nat :=
  let op := wOp e.word
  let sl := wf' e.word 75 75 == 1
  let slot := if sl then capL e (wf' e.word 74 72) % 8 else wf' e.word 78 76
  if op == 0x7F || op == 0x9F || op == 0x4C || op == 0x4E then none
  else if wf' e.word 82 81 == 3 || ((op == 0x7E || op == 0x88) && sl) then some slot else none

/-- The element count (R95). -/
def countOf (e : QEntry) : Nat := if wf' e.word 101 101 == 1 then capL e (wf' e.word 100 98) else wf' e.word 115 102

/-- Whether the head instruction of a queue waits on a tray slot, a tray stall, a watch without a timeout or a regulator (R82,
13 R377). -/
def stalls (c : Core) (q : Nat) (e : QEntry) : Bool :=
  let op := wOp e.word
  if q == 0 then
    ((op == 0x09 || (op == 0x00 && wf' e.word 96 96 == 1)) && !pushReady c) ||
    ((op == 0x00 || op == 0x08 || op == 0x11) && accInTray c (wf' e.word 115 113))
  else if q == 1 || q == 2 then
    (match slotNamed e with
     | some i => (slotAcc c i).isNone && !e.started && (op == 0x7E || op == 0x88 || decide (countOf e ≤ 8192)) | none => false)
  else if q == 5 then op == 0xC8 && e.started && wf' e.word 63 32 == 0
  else e.started && e.send.isNone

/-- STALL_LIMIT (R82): the first instruction of a queue that has waited longer than the partition's limit faults, behind a marker too.
DEDUCED (log entry 86): a wait on a marker is that of the instruction behind it, which the record names; a marker with nothing behind
it keeps nothing waiting. -/
def execStallLimit (t q : Nat) (s : State) : Res :=
  let c := getCore s t
  match isReady s && corePresent s t && decide (q < 6), c.kernel, (queueOf c q).dropWhile (fun e => e.marker) with
  | true, some k, e :: rest =>
    let limit := objNat s (0x3000 + k.pkt.partition) 0xB
    let markers := (queueOf c q).takeWhile (fun e => e.marker)
    let waits := if markers.isEmpty then stalls c q e else markers.any (fun m => !waitsMet c m.waits)
    match e.since with
    | some since =>
      if waits && limit != 0 && decide (since + limit < s.now) then
        .next (faultCore (updCore s t (fun c => setQueue c q (stampHead s.now (markers ++ rest)))) t q fStallLimit e.index e.iter none)
      else .next s
    | none => .next s
  | _, _, _ => .next s

end Sys2Proof.Machine
end

