-- ==== Sys2Proof/Machine/Operands.lean ====
section
/-! DEFINITION. Operand forms of the tensor core's queues: scratchpad operands, vector groups, accumulators, the tray, masks
and packed elements (02 R26, 04 R84–R87, R94–R96). -/

namespace Sys2Proof.Machine

open Sys2Proof

/-! ### Instructions that read, check and then write -/

/-- Part of an instruction: it goes on with a value, or faults with a code and the detail the spec states for it. -/
abbrev Op (α : Type) := EStateM (Nat × Option Nat) State α

/-- A fault. -/
def opFault {α : Type} (code : Nat) (d : Option Nat) : Op α := throw (code, d)

/-- A check: the fault when it does not hold. -/
def opCheck (ok : Bool) (code : Nat) (d : Option Nat) : Op Unit := if ok then pure () else throw (code, d)

/-- A change of the state. -/
def opSet (f : State → State) : Op Unit := modify f

/-- The core as it is. -/
def opCore (t : Nat) : Op Core := do return getCore (← get) t

/-- `n` free draws: the number of the first. -/
def opDraw (n : Nat) : Op Nat := do
  let s ← get
  set { s with free := s.free + n }
  return s.free

/-- The head of a queue run by its opcode, once it is ready. -/
def runOp (s : State) (t q op : Nat) (ready : State → QEntry → Bool) (act : QEntry → Op Unit) : Res :=
  runHead s t q op (fun s e =>
    if ready s e then
      match (act e).run s with
      | .ok _ s1 => .done s1
      | .error f s1 => .fault s1 f.1 f.2
    else .wait)

/-! ### Elements of a format -/

/-- Bits of an element. -/
def fmtBits (code : Nat) : Nat := (fmtOf code).width

/-- Bytes of `n` elements, with their scale bytes for an MX code (05 R130). -/
def fmtBytes (code n : Nat) : Nat :=
  if isMx code then n / 32 * (4 * fmtBits code + 1) else ceilDiv (n * fmtBits code) 8

/-- Elements of a format that fill whole bytes or a block (05 R123). -/
def groupOf (code : Nat) : Nat := if isMx code then 32 else if fmtBits code == 4 then 2 else if fmtBits code == 6 then 4 else 1

/-- Element bytes of a group of a format. -/
def groupBytes (code : Nat) : Nat := groupOf code * fmtBits code / 8

/-- Patterns packed into the bytes they fill. -/
def packElems (code : Nat) (l : List Nat) : List Byte :=
  natLe (ceilDiv (l.length * fmtBits code) 8) ((indexed l).foldl (fun a y => a + y.2 * 2 ^ (fmtBits code * y.1)) 0)

/-- Element `i` of elements of `w` bits packed little-endian (02 R26). -/
def elemAt (w : Nat) (l : List Byte) (i : Nat) : Nat :=
  (leNat ((l.drop (w * i / 8)).take 9) >>> (w * i % 8)) % 2 ^ w

/-- The first `n` elements. -/
def elems (w n : Nat) (l : List Byte) : List Nat := (List.range n).map (elemAt w l)

/-- Byte `j` of a region of `w`-bit elements after some of them are written: its new value, and whether every bit of it is. -/
def patchByte (w : Nat) (new : List (Option Nat)) (j : Nat) (old : Byte) : Byte × Bool :=
  let bit (b : Nat) : Option Bool := ((new.getD ((8 * j + b) / w) none).map (fun x => bitAt x ((8 * j + b) % w)))
  ((List.range 8).foldl (fun x b => match bit b with
      | some v => if v then x ||| (1#8 <<< b) else x &&& ~~~(1#8 <<< b)
      | none => x) old,
   (List.range 8).all (fun b => (bit b).isSome))

/-- A region of elements after some of them are written; none keeps. -/
def patch (w : Nat) (new : List (Option Nat)) (old : List Byte) : List (Byte × Bool) :=
  (indexed old).map (fun x => patchByte w new x.1 x.2)

/-- A source: its format code, its patterns and its values. -/
structure Src where
  code : Nat
  bits : List Nat
  vals : List Num

/-- A source of `n` elements of a format without block scales. -/
def mkSrc (code : Nat) (bits : List Nat) : Src := { code := code, bits := bits, vals := bits.map (decodeNum (fmtOf code)) }

/-- The scale bytes of `n` elements in the MX row layout (05 R130). -/
def mxScaleAt (code n : Nat) (l : List Byte) (block : Nat) : Nat := (l.getD (n / 32 * (4 * fmtBits code) + block) 0).toNat

/-- A source in the MX row layout. -/
def mxSrc (code n : Nat) (l : List Byte) : Src :=
  let b := elems (fmtBits code) n l
  { code := code, bits := b,
    vals := (indexed b).map (fun x => scaleBy (mxScaleAt code n l (x.1 / 32)) (decodeNum (fmtOf code) x.2)) }

/-- The value of an element of a source. -/
def Src.val (x : Src) (i : Nat) : Num := x.vals.getD i (Num.zero false)

/-- The flags of reading an element of a source (02 R32). -/
def Src.flags (x : Src) (i : Nat) : Flags := inputFlags x.code (x.bits.getD i 0)

/-! ### The scratchpad -/

/-- The offset that a captured A register names (R86). -/
def spadOff (e : QEntry) (r : Nat) : Nat := capA e r % 2 ^ 23

/-- The range check of a scratchpad operand (R86). DESIGN CHOICE (log entry 83): the offending offset of R109 is the operand's own
start, for one that runs past the end too. -/
def spadCheck (off n : Nat) : Op Unit := opCheck (off % 64 == 0 && decide (off + n ≤ spadBytes)) fSpadRange (some off)

/-- A read of bytes of the core's scratchpad; POISON_READ when one reads as poisoned (18 R483). -/
def spadRead (t off n : Nat) : Op (List Byte) := do
  let r := readMem (← get) .direct (spadBase t + off) n
  set r.1
  if r.2.2 then opFault fPoisonRead none else return r.2.1

/-- A scratchpad operand read: checked, then read. -/
def spadOperand (t off n : Nat) : Op (List Byte) := do
  spadCheck off n
  spadRead t off n

/-- Bytes written to a scratchpad, each marked when all its bits are written; a 64-byte word whose every bit is written loses
its poison, and every other word keeps its own (R86, 18 R476). -/
def spadPut (s : State) (t off : Nat) (l : List (Byte × Bool)) : State :=
  let a := spadBase t + off
  (pieces 64 a l.length).foldl (fun x w =>
    let lo := max a w
    let part := (l.drop (lo - a)).take (min (a + l.length) (w + 64) - lo)
    if part.length == 64 && part.all (fun b => b.2) then pokeRaw x lo (part.map (fun b => b.1)) false
    else { x with mem := sSetMany 0 x.mem lo (part.map (fun b => b.1)) }) s

/-- Whole bytes written to a scratchpad. -/
def spadPutBytes (s : State) (t off : Nat) (v : List Byte) : State := spadPut s t off (v.map (fun b => (b, true)))

/-- The bytes that a scratchpad holds, not read as an operand: what a write keeps of them (R86). -/
def spadHeld (s : State) (t off n : Nat) : List Byte := sGetMany 0 s.mem (spadBase t + off) n

/-! ### Vector groups and accumulators -/

/-- Bits of an element's place in a V register (R85): FP6 in an 8-bit container. -/
def vBits (code : Nat) : Nat := if code == 5 || code == 6 then 8 else fmtBits code

/-- Registers that a group of `n` elements spans (R95). -/
def vSpan (code n : Nat) : Nat := ceilDiv (n * vBits code) 4096

/-- The check of a V group (R95). -/
def vCheck (r code n : Nat) : Op Unit :=
  opCheck (decide (r + vSpan code n ≤ 32)) fVgroupWrap (some (detail2 r (vSpan code n)))

/-- The patterns of a V group's elements. -/
def vGet (c : Core) (r code n : Nat) : List Nat :=
  (elems (vBits code) n (sGetMany 0 c.v (512 * r) (ceilDiv (n * vBits code) 8))).map (· % 2 ^ fmtBits code)

/-- A V group after some of its elements are written. -/
def vPut (c : Core) (r code : Nat) (new : List (Option Nat)) : Core :=
  let n := ceilDiv (new.length * vBits code) 8
  { c with v := sSetMany 0 c.v (512 * r) ((patch (vBits code) new (sGetMany 0 c.v (512 * r) n)).map (fun b => b.1)) }

/-- A mask bit. -/
def maskBit (c : Core) (m i : Nat) : Bool := sGet false c.m (8192 * m + i)

/-- Mask bits written from bit 0 on; none keeps. -/
def maskPut (c : Core) (m : Nat) (new : List (Option Bool)) : Core :=
  { c with m := (indexed new).foldl (fun x b => match b.2 with | some v => sSet false x (8192 * m + b.1) v | none => x) c.m }

/-- Elements of an accumulator from a row on (R87). -/
def accGet (c : Core) (a row n : Nat) : List W32 := sGetMany 0 c.acc (32768 * a + 256 * row) n

/-- A cell of the transpose tile (R102). -/
def tileGet (c : Core) (row col : Nat) : W32 := sGet 0 c.tile (32 * row + col)

/-- Cells written row by row from a row on; none keeps. -/
def tilePut (c : Core) (row : Nat) (new : List (Option Nat)) : Core :=
  { c with tile := (indexed new).foldl (fun x b => match b.2 with
      | some v => sSet 0 x (32 * row + b.1) (BitVec.ofNat 32 v)
      | none => x) c.tile }

/-- An entry of a tally register (R104). -/
def tEntry (c : Core) (r i : Nat) : W64 := sGet 0 c.t (128 * r + i)

/-! ### Fields of vector and tally instructions (R94, R103) -/

/-- Destination format. -/
def dfmtOf (e : QEntry) : Nat := wf' e.word 97 94

/-- Source format. -/
def sfmtOf (e : QEntry) : Nat := wf' e.word 93 90

/-- Destination kind. -/
def dkOf (e : QEntry) : Nat := wf' e.word 89 88

/-- Destination number. -/
def dOf (e : QEntry) : Nat := wf' e.word 87 83

/-- First-source kind. -/
def skOf (e : QEntry) : Nat := wf' e.word 82 81

/-- First-source number. -/
def s1Of (e : QEntry) : Nat := wf' e.word 80 76

/-- FORMAT with the detail of R109. -/
def formatFault {α : Type} (e : QEntry) : Op α := opFault fFormat (some (detail2 (dfmtOf e) (sfmtOf e)))

/-- A vector or tally instruction may run: the tray slot it names, if any, is full, or was when it started (R68). -/
def slotReady (t : Nat) (s : State) (e : QEntry) : Bool :=
  match slotNamed e with
  | none => true
  | some i => (slotAcc (getCore s t) i).isSome || e.started

/-- A vector or tally instruction with an element count may start; one whose count is too large faults at the head without
waiting for its slot (R95). -/
def countReady (t : Nat) (s : State) (e : QEntry) : Bool := decide (8192 < countOf e) || slotReady t s e

/-- The format that the first source has: FP32 from an accumulator or the tray (R96). -/
def srcFmt (e : QEntry) : Nat := if skOf e < 2 then sfmtOf e else 0

/-- The accumulator of the first source. -/
def srcAcc (c : Core) (e : QEntry) : Nat :=
  if skOf e == 2 then s1Of e % 8 else ((slotNamed e).bind (slotAcc c)).getD 0

/-- The first source read (R87, R94–R96). -/
def readFirst (t : Nat) (e : QEntry) (n : Nat) : Op Src := do
  let c ← opCore t
  let f := srcFmt e
  if skOf e == 0 then
    if isMx f then formatFault e
    else
      vCheck (s1Of e) f n
      return mkSrc f (vGet c (s1Of e) f n)
  else if skOf e == 1 then
    if isMx f && n % 32 != 0 then formatFault e
    else
      let b ← spadOperand t (spadOff e (s1Of e)) (fmtBytes f n)
      return (if isMx f then mxSrc f n b else mkSrc f (elems (fmtBits f) n b))
  else
    let row := wf' e.word 71 65
    opCheck (decide (256 * row + n ≤ 32768)) fAccRange (some (detail2 row n))
    return mkSrc 0 ((accGet c (srcAcc c e) row n).map BitVec.toNat)

/-- A second or third source: a V group in sfmt. -/
def readGroup (t : Nat) (e : QEntry) (r n : Nat) : Op Src := do
  let f := sfmtOf e
  if isMx f then formatFault e
  else
    vCheck r f n
    return mkSrc f (vGet (← opCore t) r f n)

/-- The second source: the scalar in imm, or a V group (R94). -/
def readSecond (t : Nat) (e : QEntry) (n : Nat) : Op Src :=
  if wf' e.word 58 58 == 1 then pure (mkSrc 0 (List.replicate n (wf' e.word 31 0)))
  else readGroup t e (wf' e.word 63 59) n

/-- The results of the lanes that are on; the rest keep what they hold. -/
def lanes {α : Type} (n : Nat) (on : Nat → Bool) (f : Nat → α) : List (Option α) :=
  (List.range n).map (fun i => if on i then some (f i) else none)

/-- The flags of all the lanes that are on. -/
def laneFlags (l : List (Option (Nat × Flags))) : Flags := gather (l.filterMap (fun x => x.map (fun y => y.2)))

/-- The patterns of the lanes. -/
def laneBits (l : List (Option (Nat × Flags))) : List (Option Nat) := l.map (fun x => x.map (fun y => y.1))

/-- The check of a destination of `n` elements: a V group or a scratchpad operand (R86, R95). -/
def destCheck (e : QEntry) (fmt n : Nat) : Op Unit :=
  if dkOf e == 0 then
    (if isMx fmt then formatFault e else vCheck (dOf e) fmt n)
  else spadCheck (spadOff e (dOf e)) (fmtBytes fmt n)

/-- Elements written to the destination. -/
def destPut (t : Nat) (e : QEntry) (fmt : Nat) (new : List (Option Nat)) : Op Unit :=
  if dkOf e == 0 then opSet (fun s => updCore s t (fun c => vPut c (dOf e) fmt new))
  else opSet (fun s =>
    let off := spadOff e (dOf e)
    spadPut s t off (patch (fmtBits fmt) new (spadHeld s t off (fmtBytes fmt new.length))))

/-- Whether an instruction pops a slot (R69). -/
def popsSlot (e : QEntry) (i : Nat) : Bool :=
  !e.marker && slotNamed e == some i && (wOp e.word == 0x7E || wOp e.word == 0x88 || wf' e.word 64 64 == 1) &&
  (wOp e.word == 0x7E || wOp e.word == 0x88 || decide (countOf e ≤ 8192))

/-- The head of the other consumer's queue marked started, when it pops the same slot: a free choice has it started while the slot
was still full (R69). -/
def startRival (t q i : Nat) (s : State) : State :=
  match queueOf (getCore s t) (3 - q) with
  | e :: r =>
    if popsSlot e i && !e.started then
      if freeBool s then updCore (drew s) t (fun c => setQueue c (3 - q) ({ e with started := true } :: r)) else drew s
    else s
  | [] => s

/-- A slot emptied by an instruction of VQ or TQ (R69). -/
def popSlot (t i : Nat) (e : QEntry) : Op Unit :=
  opSet (fun s => updCore (startRival t (wf' e.word 119 116) i s) t (fun c => trayPop c i))

/-- The named slot emptied when the pop bit is set (R69). -/
def popIfAsked (t : Nat) (e : QEntry) : Op Unit :=
  match wf' e.word 64 64, slotNamed e with
  | 1, some i => popSlot t i e
  | _, _ => pure ()

/-- TRAY_UNDERFLOW (R69, R80): an instruction that started while its slot was full finds it emptied by the other consumer. -/
def underflowCheck (t : Nat) (e : QEntry) : Op Unit := do
  let c ← opCore t
  match slotNamed e with
  | some i => opCheck (!e.started || (slotAcc c i).isSome) fTrayUnderflow none
  | none => pure ()

/-- A vector or tally instruction: its count checked, its work done unless the count is 0, and its slot popped (R95, R104). -/
def countedOp (t : Nat) (e : QEntry) (act : Nat → Op Unit) : Op Unit := do
  underflowCheck t e
  let n := countOf e
  opCheck (decide (n ≤ 8192)) fVcount (some n)
  (if n == 0 then pure () else act n)
  popIfAsked t e

end Sys2Proof.Machine
end

