-- ==== Sys2Proof/Machine/Vector.lean ====
section
/-! DEFINITION. The vector engine's instructions (04 R94–R102, R108, R542). -/

namespace Sys2Proof.Machine

open Sys2Proof

/-- The lanes that a vector instruction computes (R96). -/
def vOn (c : Core) (e : QEntry) (i : Nat) : Bool := wf' e.word 49 49 == 0 || maskBit c (wf' e.word 52 50) i

/-- A vector instruction run at the head of VQ. -/
def runVq (t op : Nat) (act : QEntry → Nat → Op Unit) (s : State) : Res :=
  runOp s t 1 op (countReady t) (fun e => countedOp t e (act e))

/-- The formats of arithmetic operands (R97). -/
def isFloat3 (f : Nat) : Bool := decide (f ≤ 2)

/-- The formats of small elements that compare, select, MIN, MAX and VMOV also take (R97). -/
def isSmall (f : Nat) : Bool := decide (3 ≤ f) && decide (f ≤ 9)

/-- Whether a format holds every value of another exactly, infinities and NaN included (R97). -/
def holdsAll (d s : Nat) : Bool :=
  !isMx d && !isMx s &&
  (match d with
   | 0 => true
   | 1 => s != 0 && s != 2
   | 2 => s != 0 && s != 1
   | 3 => [3, 5, 6, 7, 9].contains s
   | 4 => [4, 6, 7, 9].contains s
   | 5 => [5, 7].contains s
   | 6 => [6, 7, 9].contains s
   | 7 => s == 7
   | 8 => s == 8 || s == 9
   | _ => s == 9)

/-- A result rounded once to a destination format, with the flags of its operation (R34, 02 R31, R32). -/
def lane (f : Nat) (inputs : List Num) (x : Num) : Nat × Flags :=
  let r := roundTo (fmtOf f) .rne false x
  (r.1, flagsOr r.2 (opFlags inputs x))

/-- Results written with their flags raised: the shared end of the elementwise instructions. -/
def finishVq (t : Nat) (e : QEntry) (fmt : Nat) (l : List (Option (Nat × Flags))) : Op Unit := do
  destCheck e fmt l.length
  opSet (fun s => raiseVq s t (laneFlags l))
  destPut t e fmt (laneBits l)

/-- The format rule of the arithmetic instructions (R97). -/
def arithCheck (e : QEntry) (fs : List Nat) : Op Unit :=
  if isFloat3 (dfmtOf e) && fs.all isFloat3 then pure () else formatFault e

/-- The format rule of compare, select, MIN and MAX (R97; their destination: log entry 18). -/
def exactCheck (e : QEntry) (f g : Nat) (dest : Bool) : Op Unit :=
  let d := dfmtOf e
  if (isFloat3 f && isFloat3 g && (!dest || isFloat3 d)) || (isSmall f && f == g && (!dest || isFloat3 d || d == f)) then pure ()
  else formatFault e

/-- The format of the second source. -/
def secondFmt (e : QEntry) : Nat := if wf' e.word 58 58 == 1 then 0 else sfmtOf e

/-- An instruction of two sources. -/
def binaryOp (t : Nat) (f : Num → Num → Num) (check : QEntry → Op Unit) (e : QEntry) (n : Nat) : Op Unit := do
  check e
  let a ← readFirst t e n
  let b ← readSecond t e n
  let c ← opCore t
  finishVq t e (dfmtOf e) (lanes n (vOn c e) (fun i =>
    let r := lane (dfmtOf e) [a.val i, b.val i] (f (a.val i) (b.val i))
    (r.1, gather [r.2, a.flags i, b.flags i])))

/-- VMOV: the source converted exactly (R97). -/
def vmovOp (t : Nat) (e : QEntry) (n : Nat) : Op Unit := do
  (if holdsAll (dfmtOf e) (srcFmt e) then pure () else formatFault e)
  let a ← readFirst t e n
  let c ← opCore t
  finishVq t e (dfmtOf e) (lanes n (vOn c e) (fun i =>
    ((roundTo (fmtOf (dfmtOf e)) .rne false (a.val i)).1, a.flags i)))

def execVmov (t : Nat) (s : State) : Res := runVq t 0x40 (vmovOp t) s

/-- VADD. -/
def execVadd (t : Nat) (s : State) : Res := runVq t 0x41 (binaryOp t numAdd (fun e => arithCheck e [srcFmt e, secondFmt e])) s

/-- VMUL. -/
def execVmul (t : Nat) (s : State) : Res := runVq t 0x43 (binaryOp t numMul (fun e => arithCheck e [srcFmt e, secondFmt e])) s

/-- VMIN. -/
def execVmin (t : Nat) (s : State) : Res :=
  runVq t 0x45 (binaryOp t numMin (fun e => exactCheck e (srcFmt e) (secondFmt e) true)) s

/-- VMAX. -/
def execVmax (t : Nat) (s : State) : Res :=
  runVq t 0x46 (binaryOp t numMax (fun e => exactCheck e (srcFmt e) (secondFmt e) true)) s

/-- The flags of a fused multiply-add: INVALID for 0 × ∞ or ∞ − ∞ among operands that are not NaN. -/
def fmaLane (f : Nat) (x y z : Num) : Nat × Flags :=
  let p := numMul x y
  let r := lane f [p, z] (numAdd p z)
  (r.1, flagsOr r.2 (opFlags [x, y] p))

/-- VFMA: one rounding (R97). -/
def vfmaOp (t : Nat) (e : QEntry) (n : Nat) : Op Unit := do
  arithCheck e [srcFmt e, secondFmt e, sfmtOf e]
  let a ← readFirst t e n
  let b ← readSecond t e n
  let d ← readGroup t e (wf' e.word 57 53) n
  let c ← opCore t
  finishVq t e (dfmtOf e) (lanes n (vOn c e) (fun i =>
    let r := fmaLane (dfmtOf e) (a.val i) (b.val i) (d.val i)
    (r.1, gather [r.2, a.flags i, b.flags i, d.flags i])))

/-- VFMA. -/
def execVfma (t : Nat) (s : State) : Res := runVq t 0x44 (vfmaOp t) s

/-- VSEL: the mask bit selects; men is ignored (R97). -/
def vselOp (t : Nat) (e : QEntry) (n : Nat) : Op Unit := do
  exactCheck e (srcFmt e) (secondFmt e) true
  let a ← readFirst t e n
  let b ← readSecond t e n
  let c ← opCore t
  finishVq t e (dfmtOf e) (lanes n (fun _ => true) (fun i =>
    let x := if maskBit c (wf' e.word 52 50) i then a.val i else b.val i
    let r := roundTo (fmtOf (dfmtOf e)) .rne false x
    (r.1, gather [r.2, a.flags i, b.flags i])))

/-- VSEL. -/
def execVsel (t : Nat) (s : State) : Res := runVq t 0x48 (vselOp t) s

/-- A condition of R98 between two values. DESIGN CHOICE (log entry 83): the reserved code 111, which only a stream CMP can carry
this far (R110), holds of nothing. -/
def condHolds (cond : Nat) (x y : Num) : Bool :=
  match numCmp x y with
  | none => cond == 1 || cond == 6
  | some o =>
    match cond with
    | 0 => o == .eq
    | 1 => o != .eq
    | 2 => o == .lt
    | 3 => o != .gt
    | 4 => o == .gt
    | 5 => o != .lt
    | _ => false

/-- VCMP (R98). -/
def vcmpOp (t : Nat) (e : QEntry) (n : Nat) : Op Unit := do
  exactCheck e (srcFmt e) (secondFmt e) false
  let a ← readFirst t e n
  let b ← readSecond t e n
  let c ← opCore t
  let l := lanes n (vOn c e) (fun i => (condHolds (wf' e.word 46 44) (a.val i) (b.val i), flagsOr (a.flags i) (b.flags i)))
  opSet (fun s => raiseVq s t (gather (l.filterMap (fun x => x.map (fun y => y.2)))))
  opSet (fun s => updCore s t (fun c => maskPut c (dOf e % 8) (l.map (fun x => x.map (fun y => y.1)))))

/-- VCMP. -/
def execVcmp (t : Nat) (s : State) : Res := runVq t 0x47 (vcmpOp t) s

/-- A logic code of R98 on two mask bits. -/
def maskLogic (cond : Nat) (x y : Bool) : Bool :=
  match cond with
  | 0 => x && y
  | 1 => x || y
  | 2 => x != y
  | 3 => x && !y
  | _ => !x

/-- MLOGIC (R98). -/
def mlogicOp (t : Nat) (e : QEntry) (n : Nat) : Op Unit :=
  opSet (fun s => updCore s t (fun c =>
    maskPut c (dOf e % 8) (lanes n (vOn c e) (fun i =>
      maskLogic (wf' e.word 46 44) (maskBit c (s1Of e % 8) i) (maskBit c (wf' e.word 63 59 % 8) i)))))

/-- MLOGIC. -/
def execMlogic (t : Nat) (s : State) : Res := runVq t 0x4C (mlogicOp t) s

/-- VTGET: a word of each entry of a T register (R97). -/
def vtgetOp (t : Nat) (e : QEntry) (n : Nat) : Op Unit := do
  opCheck (decide (n ≤ 128)) fVcount (some n)
  (if dfmtOf e == 0 then pure () else formatFault e)
  destCheck e 0 n
  let c ← opCore t
  destPut t e 0 (lanes n (vOn c e) (fun i =>
    let x := (tEntry c (s1Of e % 16) i).toNat
    if wf' e.word 44 44 == 1 then fld x 63 32 else fld x 31 0))

/-- VTGET. -/
def execVtget (t : Nat) (s : State) : Res := runVq t 0x4E (vtgetOp t) s

/-! ### Conversions (R99) -/

/-- How a conversion of element `i` rounds: RNE, or by the draw of its counter (R99, R113, R114). -/
def cvtRnd (sr : Bool) (key base i : Nat) : Rnd := if sr then .sr (srDraw key base i) else .rne

/-- One block of a conversion to an MX format: its scale and its 32 elements, of which the disabled ones hold their present
values, re-encoded with RNE and sat and no flags (R99, 02 R27). -/
def mxBlock (f : Nat) (sat : Bool) (l : List (Num × Option Rnd)) : Nat × List (Nat × Flags) :=
  let sc := mxScale f (l.map (fun x => x.1))
  (sc, l.map (fun x => match x.2 with
    | some r => mxElem f sc r sat x.1
    | none => ((mxElem f sc .rne sat x.1).1, noFlags)))

/-- The present values of a block of the destination, read with its scale (R99). -/
def readBlock (t off f n b : Nat) : Op (List Num) := do
  let eb := 4 * fmtBits f
  let x ← spadRead t (off + b * eb) eb
  let sc ← spadRead t (off + n / 32 * eb + b) 1
  return (elems (fmtBits f) 32 x).map (fun v => scaleBy (sc.getD 0 0).toNat (decodeNum (fmtOf f) v))

/-- VCVT to an MX format (R99). -/
def vcvtMx (t : Nat) (e : QEntry) (n : Nat) (a : Src) (rnd : Nat → Rnd) : Op Unit := do
  let f := dfmtOf e
  let sat := wf' e.word 47 47 == 1
  let off := spadOff e (dOf e)
  let eb := 4 * fmtBits f
  (if dkOf e == 1 && n % 32 == 0 then pure () else formatFault e)
  spadCheck off (fmtBytes f n)
  let c ← opCore t
  let blocks ← (List.range (n / 32)).mapM (fun b => do
    let on := (List.range 32).map (fun i => vOn c e (32 * b + i))
    let old ← if on.all id || !on.any id then pure [] else readBlock t off f n b
    return (on.any id, mxBlock f sat ((List.range 32).map (fun i =>
      if on.getD i false then (a.val (32 * b + i), some (rnd (32 * b + i))) else (old.getD i (Num.zero false), none)))))
  let flags := gather ((indexed blocks).map (fun x =>
    if x.2.1 then gather ((indexed x.2.2.2).map (fun y =>
      if vOn c e (32 * x.1 + y.1) then flagsOr y.2.2 (a.flags (32 * x.1 + y.1)) else noFlags)) else noFlags))
  opSet (fun s => raiseVq s t flags)
  opSet (fun s =>
    let held := spadHeld s t off (fmtBytes f n)
    let body := patch (fmtBits f) (blocks.flatMap (fun x => x.2.2.map (fun y => if x.1 then some y.1 else none)))
      (held.take (n / 32 * eb))
    let tail := (indexed blocks).map (fun x =>
      if x.2.1 then (BitVec.ofNat 8 x.2.2.1, true) else (held.getD (n / 32 * eb + x.1) 0, false))
    spadPut s t off (body ++ tail))

/-- VCVT (R99, 02 R29–R32). -/
def vcvtOp (t : Nat) (e : QEntry) (n : Nat) : Op Unit := do
  let f := dfmtOf e
  let sr := wf' e.word 48 48 == 1
  (if sr && srcFmt e != 0 then formatFault e else pure ())
  let a ← readFirst t e n
  let rnd := cvtRnd sr (capA e (wf' e.word 63 59)) (capA e (wf' e.word 57 53))
  if isMx f then vcvtMx t e n a rnd
  else do
    let c ← opCore t
    finishVq t e f (lanes n (vOn c e) (fun i =>
      let r := roundTo (fmtOf f) (rnd i) (wf' e.word 47 47 == 1) (a.val i)
      (r.1, flagsOr r.2 (a.flags i))))

/-- VCVT. -/
def execVcvt (t : Nat) (s : State) : Res := runVq t 0x49 (vcvtOp t) s

/-! ### The curve group (R100) -/

/-- A curve instruction: FP32 result within its bound, rounded once more for a narrower destination (02 R46). -/
def curveOp (t : Nat) (f : Nat → Num → W32 × Flags) (e : QEntry) (n : Nat) : Op Unit := do
  arithCheck e [srcFmt e]
  let a ← readFirst t e n
  let c ← opCore t
  let base ← opDraw n
  finishVq t e (dfmtOf e) (lanes n (vOn c e) (fun i =>
    let r := f (base + i) (a.val i)
    let q := roundTo (fmtOf (dfmtOf e)) .rne false (num32 r.1)
    (q.1, gather [r.2, q.2, a.flags i])))

/-- VEXP2. -/
def execVexp2 (t : Nat) (s : State) : Res := runVq t 0x50 (curveOp t exp2Op) s

/-- VLOG2. -/
def execVlog2 (t : Nat) (s : State) : Res := runVq t 0x51 (curveOp t log2Op) s

/-- VRCP. -/
def execVrcp (t : Nat) (s : State) : Res := runVq t 0x52 (curveOp t rcpOp) s

/-- VRSQRT. -/
def execVrsqrt (t : Nat) (s : State) : Res := runVq t 0x53 (curveOp t rsqrtOp) s

/-! ### Occupancy, the transpose tile, flag reads and tray pops -/

/-- The occupancy map of rows of `w` elements (R101, 02 R41). -/
def occupancy (w : Nat) (l : List Num) : Nat :=
  (indexed l).foldl (fun m x => if numIsZero x.2 then m else setBit m ((x.1 % w) / 32)) 0

/-- VOCC (R101). -/
def voccOp (t : Nat) (e : QEntry) (n : Nat) : Op Unit := do
  let w := wf' e.word 31 0
  (if w % 32 == 0 && decide (32 ≤ w) && decide (w ≤ 8192) && n % w == 0 then pure () else formatFault e)
  let a ← readFirst t e n
  let bytes := 8 * ceilDiv (w / 32) 64
  spadCheck (spadOff e (dOf e)) bytes
  opSet (fun s => spadPutBytes s t (spadOff e (dOf e)) (natLe bytes (occupancy w a.vals)))

/-- VOCC. -/
def execVocc (t : Nat) (s : State) : Res := runVq t 0x58 (voccOp t) s

/-- The bounds of the transpose tile (R102). -/
def tileCheck (e : QEntry) (first f n : Nat) : Op Unit :=
  opCheck (n % 32 == 0 && decide (first + n / 32 ≤ 32) && !isMx f) fTileRange (some (detail2 (dOf e) n))

/-- Rows of the tile written from the first source (R102). -/
def tileWriteOp (t : Nat) (on : Core → QEntry → Nat → Bool) (e : QEntry) (n : Nat) : Op Unit := do
  tileCheck e (dOf e) (srcFmt e) n
  let a ← readFirst t e n
  let c ← opCore t
  opSet (fun s => updCore s t (fun x => tilePut x (dOf e) (lanes n (on c e) (fun i => a.bits.getD i 0))))

/-- Columns of the tile read into the destination (R102). -/
def tileReadOp (t : Nat) (on : Core → QEntry → Nat → Bool) (e : QEntry) (n : Nat) : Op Unit := do
  let f := dfmtOf e
  tileCheck e (s1Of e) f n
  destCheck e f n
  let c ← opCore t
  destPut t e f (lanes n (on c e) (fun i => (tileGet c (i % 32) (s1Of e + i / 32)).toNat % 2 ^ fmtBits f))

/-- VTWR. -/
def execVtwr (t : Nat) (s : State) : Res := runVq t 0x60 (tileWriteOp t vOn) s

/-- VTRD. -/
def execVtrd (t : Nat) (s : State) : Res := runVq t 0x61 (tileReadOp t vOn) s

/-- The slot of a TRAYPOP emptied (R69, R108). -/
def traypopOp (t : Nat) (e : QEntry) : Op Unit := do
  underflowCheck t e
  match slotNamed e with
  | some i => popSlot t i e
  | none => pure ()

/-- TRAYPOP on VQ. -/
def execTraypopVq (t : Nat) (s : State) : Res := runOp s t 1 0x7E (slotReady t) (traypopOp t)

/-- VSTAT of a queue written to its 64-byte word and cleared (R33, R108). -/
def vflagsOp (t : Nat) (read : Core → W32) (clear : Core → Core) (e : QEntry) : Op Unit := do
  spadCheck (spadOff e (dOf e)) 64
  let c ← opCore t
  opSet (fun s => updCore (spadPutBytes s t (spadOff e (dOf e)) (natLe 4 (read c).toNat ++ List.replicate 60 0)) t clear)

/-- VFLAGS on VQ. -/
def execVflagsVq (t : Nat) (s : State) : Res :=
  runOp s t 1 0x7F (fun _ _ => true) (vflagsOp t (fun c => c.vstatVq) (fun c => { c with vstatVq := 0 }))

end Sys2Proof.Machine
end

