-- ==== Sys2Proof/Machine/Tally.lean ====
section
/-! DEFINITION. The tally unit's instructions and the reductions it shares with the stream vector unit (02 R43–R45, 04 R103–R108). -/

namespace Sys2Proof.Machine

open Sys2Proof

/-! ### Reductions (02 R44, R45; log entry 15) -/

/-- `k` units of 2^-24 of a magnitude. -/
def tol24 (k : Nat) (x : Num) : Num := numMul (.fin false k (-24)) (numAbs x)

/-- The exact sum of magnitudes of the finite ones among values. -/
def magSum (l : List Num) : Num := numSum ((l.filter (fun x => !numSpecial x)).map numAbs)

/-- A value rounded once to FP32, with the flags of that rounding. -/
def roundFlags (x : Num) : Num × Flags :=
  let r := roundTo fp32 .rne false x
  (decodeNum fp32 r.1, r.2)

/-- One FP32 addition, with its flags and those of its terms. -/
def addRounded (a b : Num × Flags) : Num × Flags :=
  let z := numAdd a.1 b.1
  let r := roundFlags z
  (r.1, gather [a.2, b.2, r.2, opFlags [a.1, b.1] z])

/-- One level of a pairwise tree: neighbours are added, a last odd one goes up as it is (02 R43, 07 R195). -/
def pairUp : List (Num × Flags) → List (Num × Flags)
  | a :: b :: r => addRounded a b :: pairUp r
  | l => l

/-- The sum of values in a pairwise tree with one RNE rounding per addition; `fuel` bounds the depth. -/
def pairTree : Nat → List (Num × Flags) → Num × Flags
  | 0, l => l.headD (Num.zero false, noFlags)
  | fuel + 1, l => match l with
    | [] => (Num.zero false, noFlags)
    | [x] => x
    | l => pairTree fuel (pairUp l)

/-- A free FP32 value; a NaN is the canonical one (02 R21). -/
def freeWord (n : Nat) : W32 :=
  let w := BitVec.ofNat 32 (Config.freeNat n)
  match num32 w with | .nan => nan32 | _ => w

/-- The sum of values in a pairwise tree over a free order (02 R43, R44, R47; log entry 15): each value is in FP32 first. `n` names
the first of as many draws as there are values. The flags are those of a lane (02 R32): INEXACT compares the result with the
exact sum `exact`. -/
def sumValue (n : Nat) (l : List Num) : W32 × Flags :=
  let r := pairTree 32 (shuffle n (l.map roundFlags))
  let w := round32 r.1
  let off := !numSpecial (numSum l) && differs w (numSum l)
  (w, { r.2 with inexact := off, underflow := off && isTiny w })

/-- The flags of a sum delivered as `w` (02 R32). -/
def sumFlags (l : List Num) (w : W32) : Flags :=
  let nan := num32 w == .nan && l.all (fun x => x != .nan)
  let inf := numSpecial (num32 w) && num32 w != .nan && l.all (fun x => !numSpecial x)
  let off := inf || (!numSpecial (num32 w) && !numSpecial (numSum l) && numCmp (num32 w) (numSum l) != some .eq)
  { noFlags with invalid := nan, overflow := inf, inexact := off }

/-- An entry: primary word in bits 31:0, secondary in bits 63:32 (R104). -/
def entry (a b : W32) : W64 := BitVec.ofNat 64 (a.toNat + b.toNat * 2 ^ 32)

/-- The primary word of an entry. -/
def primary (x : W64) : W32 := BitVec.ofNat 32 x.toNat

/-- The secondary word of an entry. -/
def secondary (x : W64) : W32 := BitVec.ofNat 32 (x.toNat / 2 ^ 32)

/-- SUM of the values of one row; +0 for an empty one. -/
def sumRow (n : Nat) (l : List Num) : W64 × Flags :=
  let r := sumValue n l
  (entry r.1 0, r.2)

/-- SUMSQ of the values of one row: each square is rounded once, then summed. -/
def sumsqRow (n : Nat) (l : List Num) : W64 × Flags := sumRow n (l.map (fun x => numMul x x))

/-- The extreme of a list in an order, from an identity. -/
def extreme (pick : Num → Num → Num) (start : Num) : List Num → Num
  | [] => start
  | x :: r => r.foldl pick x

/-- MAX or MIN of one row; the identity for an empty one (R105). -/
def extremeRow (max : Bool) (l : List Num) : W64 × Flags :=
  (entry (round32 (if max then extreme numMax (.inf true) l else extreme numMin (.inf false) l)) 0, noFlags)

/-- Whether `x` ranks strictly above (for ARGMAX) or below (for ARGMIN) `y`; a NaN beats every number (02 R45). -/
def beats (max : Bool) (x y : Num) : Bool :=
  match x, y with
  | _, .nan => false
  | .nan, _ => true
  | _, _ => if max then numLt y x else numLt x y

/-- ARGMAX or ARGMIN of one row of (index within the row, value), with the index base (R105). -/
def argRow (max : Bool) (base : Nat) (l : List (Nat × Num)) : W64 × Flags :=
  match l with
  | [] => (entry (if max then negInf32 else posInf32) 0xFFFFFFFF#32, noFlags)
  | x :: r =>
    let best := r.foldl (fun a b => if beats max b.2 a.2 then b else a) x
    let v := extreme (if max then numMax else numMin) x.2 (l.map (fun y => y.2))
    (entry (round32 v) (BitVec.ofNat 32 (base + best.1)), noFlags)

/-- 2^(x − m) exactly enough for a sum: 0 when far below every FP32 value; NaN and infinities as in 02 R46. -/
def expDiff (x m : Num) : Num :=
  match numAdd x (numNeg m) with
  | .nan => .nan
  | .inf true => Num.zero false
  | .inf false => .inf false
  | d => if numLt d (.fin true 400 0) then Num.zero false else exp2Ref d

/-- The flags of evaluating 2^(x − m) as VEXP2 does, on the draw `n` (R105). -/
def expFlags (n : Nat) (x m : Num) : Flags :=
  let d := rnd32 (numAdd x (numNeg m))
  flagsOr (exp2Op n d).2 (opFlags [x, m] d)

/-- A sum of exponentials within `k` units of 2^-24 of its value. -/
def expSum (n k : Nat) (l : List Num) : W32 :=
  match numSum l with
  | .fin s m e => if numIsZero (.fin s m e) then 0 else freeNear n (.fin s m e) (tol24 k (magSum l))
  | x => round32 x

/-- ROWSTAT of one row under a scale (R105): `n` names the first of `1 + length` draws. DESIGN CHOICE (log entry 83): the scale is a
parameter, so a subnormal one raises no DENORM. -/
def rowstat (n : Nat) (scale : Num) (l : List Num) : W64 × Flags :=
  let ps := l.map (fun x => roundTo fp32 .rne false (numMul scale x))
  let p := ps.map (fun x => decodeNum fp32 x.1)
  let m := extreme numMax (.inf true) p
  let fp := gather ((ps.zip l).map (fun x => flagsOr x.1.2 (opFlags [scale, x.2] (numMul scale x.2))))
  if m == .inf true then (entry negInf32 0, fp)
  else
    let terms := p.map (fun x => expDiff x m)
    let s := expSum n (clog2 l.length + 5) terms
    let off := decide (1 < l.length) && !numSpecial (num32 s) && numCmp (num32 s) (numSum terms) != some .eq
    (entry (round32 m) s, gather [fp, gather ((indexed p).map (fun x => expFlags (n + 1 + x.1) x.2 m)),
      { noFlags with inexact := off }])

/-- A merge of ROWSTAT pairs: the running maximum and each pair's rescaled sum; a pair whose maximum is −∞ adds +0 (R106, R107). -/
def mergeTerms (l : List W64) : Num × List Num :=
  let m := extreme numMax (.inf true) (l.map (fun x => num32 (primary x)))
  (m, l.map (fun x =>
    if num32 (primary x) == .inf true then Num.zero false
    else numMul (num32 (secondary x)) (expDiff (num32 (primary x)) m)))

/-- The merged pair (R107, 02 R44). -/
def mergePairs (n : Nat) (l : List W64) : W64 × Flags :=
  let r := mergeTerms l
  let s := expSum n (3 * clog2 l.length) r.2
  (entry (round32 r.1) s,
   flagsOr (sumFlags r.2 s) (gather ((indexed l).map (fun x =>
     if num32 (primary x.2) == .inf true then noFlags else expFlags (n + 1 + x.1) (num32 (primary x.2)) r.1))))

/-- The flags of reading the FP32 words of an entry (02 R32): both words for a pair of ROWSTAT or RSMERGE. -/
def entryFlags (pair : Bool) (x : W64) : Flags :=
  flagsOr (inputFlags 0 (primary x).toNat) (if pair then inputFlags 0 (secondary x).toNat else noFlags)

/-- A new result combined with the entry at the destination (R106); `op` is the opcode. -/
def combineWith (op n : Nat) (old new : W64) : W64 × Flags :=
  let a := num32 (primary old)
  let b := num32 (primary new)
  if op == 0x80 || op == 0x81 then
    let r := roundTo fp32 .rne false (numAdd a b)
    (entry (BitVec.ofNat 32 r.1) 0, flagsOr r.2 (opFlags [a, b] (numAdd a b)))
  else if op == 0x82 then (entry (round32 (numMax a b)) 0, noFlags)
  else if op == 0x83 then (entry (round32 (numMin a b)) 0, noFlags)
  else if op == 0x84 then (if beats true b a then new else old, noFlags)
  else if op == 0x85 then (if beats false b a then new else old, noFlags)
  else mergePairs n [old, new]

/-- The same, with the flags of reading the entry that was there. -/
def combine (op n : Nat) (old new : W64) : W64 × Flags :=
  let r := combineWith op n old new
  (r.1, flagsOr r.2 (entryFlags (decide (0x86 ≤ op)) old))

/-! ### Tally instructions (R103–R106) -/

/-- The elements that a tally instruction takes: those its mask enables (R103). -/
def tOn (c : Core) (e : QEntry) (i : Nat) : Bool := wf' e.word 46 46 == 0 || maskBit c (wf' e.word 49 47) i

/-- A tally instruction run at the head of TQ. -/
def runTq (t op : Nat) (act : QEntry → Nat → Op Unit) (s : State) : Res :=
  runOp s t 2 op (countReady t) (fun e => countedOp t e (act e))

/-- The row length. -/
def lenOf (e : QEntry) : Nat := wf' e.word 63 50

/-- The shape rules of R104. -/
def shapeCheck (e : QEntry) (n : Nat) : Op Unit :=
  opCheck (lenOf e != 0 && n % lenOf e == 0 && (dkOf e != 0 || decide (n / lenOf e ≤ 128))) fTallyShape
    (some (detail2 n (lenOf e)))

/-- The entries already at the destination, read when acc = 1 (R106). -/
def oldEntries (t : Nat) (e : QEntry) (rows : Nat) : Op (List W64) :=
  if wf' e.word 45 45 == 0 then pure []
  else if dkOf e == 0 then do
    let c ← opCore t
    return (List.range rows).map (tEntry c (dOf e % 16))
  else do
    let b ← spadRead t (spadOff e (dOf e)) (8 * rows)
    return (elems 64 rows b).map (BitVec.ofNat 64)

/-- Entries written to the destination. -/
def putEntries (t : Nat) (e : QEntry) (l : List W64) : Op Unit :=
  if dkOf e == 0 then opSet (fun s => updCore s t (fun c => { c with t := sSetMany 0 c.t (128 * (dOf e % 16)) l }))
  else opSet (fun s => spadPutBytes s t (spadOff e (dOf e)) (l.flatMap (fun x => natLe 8 x.toNat)))

/-- Results combined as acc asks, their flags raised, and written; `op` is the opcode. -/
def finishTq (t op : Nat) (e : QEntry) (l : List (W64 × Flags)) : Op Unit := do
  (if dkOf e == 0 then pure () else spadCheck (spadOff e (dOf e)) (8 * l.length))
  let old ← oldEntries t e l.length
  let base ← opDraw (3 * l.length)
  let out := if wf' e.word 45 45 == 0 then l
    else (indexed (old.zip l)).map (fun x =>
      let r := combine op (base + 3 * x.1) x.2.1 x.2.2.1
      (r.1, flagsOr r.2 x.2.2.2))
  opSet (fun s => raiseTq s t (gather (out.map (fun x => x.2))))
  putEntries t e (out.map (fun x => x.1))

/-- A reduction of rows: `f` gives the entry of one row from its draws and its enabled elements with their places. -/
def reduceOp (t op : Nat) (f : Nat → List (Nat × Num) → W64 × Flags) (e : QEntry) (n : Nat) : Op Unit := do
  shapeCheck e n
  let a ← readFirst t e n
  let c ← opCore t
  let len := lenOf e
  let base ← opDraw ((n / len) * (len + 1))
  let rows := (List.range (n / len)).map (fun r =>
    let on := (List.range len).filter (fun j => tOn c e (r * len + j))
    let x := f (base + r * (len + 1)) (on.map (fun j => (j, a.val (r * len + j))))
    (x.1, flagsOr x.2 (gather (on.map (fun j => a.flags (r * len + j))))))
  finishTq t op e rows

/-- The values of a row without their places. -/
def rowVals (l : List (Nat × Num)) : List Num := l.map (fun x => x.2)

/-- TSUM. -/
def execTsum (t : Nat) (s : State) : Res := runTq t 0x80 (reduceOp t 0x80 (fun n l => sumRow n (rowVals l))) s

/-- TSUMSQ. -/
def execTsumsq (t : Nat) (s : State) : Res := runTq t 0x81 (reduceOp t 0x81 (fun n l => sumsqRow n (rowVals l))) s

/-- TMAX. -/
def execTmax (t : Nat) (s : State) : Res := runTq t 0x82 (reduceOp t 0x82 (fun _ l => extremeRow true (rowVals l))) s

/-- TMIN. -/
def execTmin (t : Nat) (s : State) : Res := runTq t 0x83 (reduceOp t 0x83 (fun _ l => extremeRow false (rowVals l))) s

/-- TARGMAX. -/
def execTargmax (t : Nat) (s : State) : Res :=
  runTq t 0x84 (fun e n => reduceOp t 0x84 (fun _ l => argRow true (wf' e.word 31 0) l) e n) s

/-- TARGMIN. -/
def execTargmin (t : Nat) (s : State) : Res :=
  runTq t 0x85 (fun e n => reduceOp t 0x85 (fun _ l => argRow false (wf' e.word 31 0) l) e n) s

/-- ROWSTAT. -/
def execRowstat (t : Nat) (s : State) : Res :=
  runTq t 0x86 (fun e n => reduceOp t 0x86 (fun d l => rowstat d (decodeNum fp32 (wf' e.word 31 0)) (rowVals l)) e n) s

/-- A merge weight (R107): within 2^-20 of s·2^(m − m′) / S over the sum that was written (log entry 17). -/
def mergeWeight (n : Nat) (term : Num) (sum : W32) : W32 :=
  match num32 sum with
  | .fin sn m e =>
    if m == 0 then 0
    else
      match term with
      | .fin tn p g => if p == 0 then (if tn != sn then 0x80000000#32 else 0) else
          let q := divRef (tn != sn) p g m e
          freeNear n q (numScale (-20) (numAbs q))
      | .inf a => if a != sn then negInf32 else posInf32
      | .nan => nan32
  | .inf _ => match term with | .fin _ _ _ => 0 | _ => nan32
  | .nan => nan32

/-- The flags of a merge weight (02 R32): its rounded result against the exact quotient. -/
def weightFlags (term : Num) (sum w : W32) : Flags :=
  match num32 sum, term with
  | .fin _ m _, .fin _ _ _ =>
    let big := numSpecial (num32 w)
    let off := big || numCmp (numMul (num32 w) (num32 sum)) term != some .eq
    if m == 0 then noFlags
    else { noFlags with overflow := big, inexact := off, underflow := off && numLt (numAbs (num32 w)) (.fin false 1 (-126)) }
  | .inf _, .inf _ => { noFlags with invalid := true }
  | _, _ => noFlags

/-- RSMERGE (R107). -/
def rsmergeOp (t : Nat) (e : QEntry) (n : Nat) : Op Unit := do
  let k := wf' e.word 31 0
  let wo := spadOff e (wf' e.word 43 39)
  let wout := wf' e.word 44 44 == 1
  shapeCheck e n
  opCheck (decide (1 ≤ k) && decide (k ≤ 64)) fTallyShape (some k)
  let rows := n / lenOf e
  let b ← spadOperand t (spadOff e (s1Of e)) (8 * k * rows)
  (if wout then spadCheck wo (4 * k * rows) else pure ())
  let base ← opDraw (rows * (2 * k + 1))
  let pairs (r : Nat) : List W64 := (List.range k).map (fun i => BitVec.ofNat 64 (elemAt 64 (b.drop (8 * (i * rows + r))) 0))
  let out := (List.range rows).map (fun r => mergePairs (base + r * (2 * k + 1)) (pairs r))
  let term (i r : Nat) : Num := (mergeTerms (pairs r)).2.getD i (Num.zero false)
  let sumOf (r : Nat) : W32 := secondary (out.getD r (0, noFlags)).1
  let weight (i r : Nat) : W32 := mergeWeight (base + r * (2 * k + 1) + k + 1 + i) (term i r) (sumOf r)
  let weights := (List.range k).flatMap (fun i => (List.range rows).flatMap (fun r => natLe 4 (weight i r).toNat))
  let fl := (List.range k).flatMap (fun i => (List.range rows).map (fun r => weightFlags (term i r) (sumOf r) (weight i r)))
  let inFl := gather ((List.range rows).flatMap (fun r => (pairs r).map (entryFlags true)))
  finishTq t 0x87 e (out.map (fun x => (x.1, flagsOr x.2 inFl)))
  (if wout then opSet (fun s => raiseTq s t (gather fl)) else pure ())
  (if wout then opSet (fun s => spadPutBytes s t wo weights) else pure ())

/-- RSMERGE. -/
def execRsmerge (t : Nat) (s : State) : Res := runTq t 0x87 (rsmergeOp t) s

/-- TRAYPOP on TQ. -/
def execTraypopTq (t : Nat) (s : State) : Res := runOp s t 2 0x88 (slotReady t) (traypopOp t)

/-- TTWR (R102). -/
def execTtwr (t : Nat) (s : State) : Res := runTq t 0x98 (tileWriteOp t tOn) s

/-- TTRD (R102). -/
def execTtrd (t : Nat) (s : State) : Res := runTq t 0x99 (tileReadOp t tOn) s

/-- VFLAGS on TQ. -/
def execVflagsTq (t : Nat) (s : State) : Res :=
  runOp s t 2 0x9F (fun _ _ => true) (vflagsOp t (fun c => c.vstatTq) (fun c => { c with vstatTq := 0 }))

end Sys2Proof.Machine
end

