-- ==== Sys2Proof/Machine/Transfer.lean ====
section
/-! DEFINITION. The DMA agents' transfers XLD and XST, and cache maintenance INVAL, WB and WBINV (05 R115–R136, 08 R215–R219). -/

namespace Sys2Proof.Machine

open Sys2Proof

def fDescAddr : Nat := 0x0301
def fDescPerm : Nat := 0x0302
def fDescShape : Nat := 0x0303
def fDescStride : Nat := 0x0304
def fDescAlign : Nat := 0x0305
def fDescAlias : Nat := 0x0306
def fDescConv : Nat := 0x0307
def fDescReduce : Nat := 0x0308
def fDescRange : Nat := 0x0309
def fStripBusy : Nat := 0x030A
def fWindowClosed : Nat := 0x030B

/-! ### Geometry (R118–R123) -/

/-- One side of a transfer: format, base with the scratchpad window's base added on the scratchpad side, extents and strides in
bytes. -/
structure Side where
  code : Nat
  own : Bool
  base : Int
  ext : List Nat
  raw : List Int
  stride : List Int

/-- A transfer: its sides, `perm`, leading pads, modes, pad value, signal word, and generator key and counter base. -/
structure Xfer where
  src : Side
  dst : Side
  perm : List Nat
  lo : List Int
  padw : Bool
  rnd : Bool
  sat : Bool
  reduce : Nat
  pad : Nat
  signal : W32
  key : Nat
  ctr : Nat
  fmt : Nat
  flags : Nat

/-- Bytes of an element of a whole-byte format; 0 otherwise. -/
def wholeBytes (code : Nat) : Nat := if isMx code || isPacked code then 0 else fmtBits code / 8

/-- A side from its 48 bytes (R119); `over` replaces the base (R115). -/
def parseSide (code shift : Nat) (org : Int) (own : Bool) (b : List Byte) (repl : Option Nat) : Side :=
  let raw := (List.range 5).map (fun k => signedOf 32 (bytesAt b (28 + 4 * k) 4))
  let base := repl.getD (bytesAt b 0 8)
  { code := code, own := own, base := org + ((if own then base % 2 ^ 23 else base % 2 ^ 52 : Nat) : Int),
    ext := (List.range 5).map (fun k => bytesAt b (8 + 4 * k) 4), raw := raw,
    stride := (indexed raw).map (fun x => if x.1 == 0 then x.2 else x.2 * (2 ^ shift : Nat)) }

/-- An extent. -/
def Side.e (x : Side) (k : Nat) : Nat := x.ext.getD k 0

/-- A stride in bytes. -/
def Side.st (x : Side) (k : Nat) : Int := x.stride.getD k 0

/-- A stride as written. -/
def Side.rawSt (x : Side) (k : Nat) : Int := x.raw.getD k 0

/-- The start of a run (R121). -/
def Side.run (x : Side) (i : Nat → Nat) : Int :=
  x.base + x.st 1 * i 1 + x.st 2 * i 2 + x.st 3 * i 3 + x.st 4 * i 4

/-- The byte ranges, from a run's start, of its elements `lo` up to `hi` (R121, R130). -/
def Side.ranges (x : Side) (lo hi : Nat) : List (Nat × Nat) :=
  if hi ≤ lo then []
  else if isMx x.code then
    let eb := 4 * fmtBits x.code
    [(lo / 32 * eb, hi / 32 * eb), (x.e 0 / 32 * eb + lo / 32, x.e 0 / 32 * eb + hi / 32)]
  else if isPacked x.code then [(lo * fmtBits x.code / 8, hi * fmtBits x.code / 8)]
  else if x.rawSt 0 == 0 then [(0, wholeBytes x.code)]
  else [(lo * wholeBytes x.code, hi * wholeBytes x.code)]

/-- The indices of a dimension at which data lies: destination dimension `k` (R120). -/
def Xfer.span (x : Xfer) (k : Nat) : Nat × Nat :=
  let lo := x.lo.getD k 0
  ((max 0 lo).toNat, (min (x.dst.e k : Int) (lo + x.src.e (x.perm.getD k 0))).toNat)

/-- Whether a transfer has a data element. -/
def Xfer.hasData (x : Xfer) : Bool := (List.range 5).all (fun k => decide ((x.span k).1 < (x.span k).2))

/-- Whether a transfer has a point at all. -/
def Xfer.hasPoint (x : Xfer) : Bool := x.dst.ext.all (fun e => e != 0)

/-- The lowest and one past the highest byte of a box of indices of a side: `iv k` is the interval of dimension `k`. -/
def Side.bounds (x : Side) (iv : Nat → Nat × Nat) : Int × Int :=
  let term (k : Nat) : Int × Int :=
    let a := x.st k * ((iv k).1 : Int)
    let b := x.st k * (((iv k).2 : Int) - 1)
    (min a b, max a b)
  let r := x.ranges (iv 0).1 (iv 0).2
  let lo := r.foldl (fun m y => min m y.1) ((r.headD (0, 0)).1)
  let hi := r.foldl (fun m y => max m y.2) 0
  (x.base + (term 1).1 + (term 2).1 + (term 3).1 + (term 4).1 + lo,
   x.base + (term 1).2 + (term 2).2 + (term 3).2 + (term 4).2 + hi)

/-- The source interval of each source dimension. -/
def Xfer.srcIv (x : Xfer) (d : Nat) : Nat × Nat :=
  match (List.range 5).find? (fun k => x.perm.getD k 0 == d) with
  | some k => (((x.span k).1 - x.lo.getD k 0 : Int).toNat, ((x.span k).2 - x.lo.getD k 0 : Int).toNat)
  | none => (0, 0)

/-- The touched range of each side, if it has one (R134). -/
def Xfer.touched (x : Xfer) : List (Bool × Side × Int × Int) :=
  (if x.hasData then [(false, x.src, x.src.bounds x.srcIv)] else []) ++
  (if x.padw && x.reduce == 0 then (if x.hasPoint then [(true, x.dst, x.dst.bounds (fun k => (0, x.dst.e k)))] else [])
   else if x.hasData then [(true, x.dst, x.dst.bounds x.span)] else [])

/-! ### Checks (R134, R151, R213, R369) -/

/-- The address at which a range first leaves the one region that R134 allows it, if it does. -/
def firstOutside (s : State) (lo hi : Nat) : Option Nat :=
  let r := locRange s lo
  if 300 ≤ r.1 && r.1 != 500 || !locBacked s (locate lo) then some lo
  else if r.2 < hi then some r.2 else none

/-- The first of a list for which a check fails, by a fault. -/
def checkEach {α : Type} (l : List α) (f : α → Option (Nat × Option Nat)) : Op Unit :=
  match l.findSome? f with
  | some e => throw e
  | none => pure ()

/-- The range of one side, with the first address outside when it leaves its region; on the scratchpad side addresses are
offsets (log entry 19). -/
def rangeFault (s : State) (t : Nat) (side : Bool) (x : Side) (lo hi : Int) : Option (Nat × Option Nat) :=
  let n := if side then 1 else 0
  if x.own then
    let a := lo - spadBase t
    let b := hi - spadBase t
    if a < 0 then some (fDescRange, some (detailAddr n (unsignedOf 52 a)))
    else if b > spadBytes then some (fDescRange, some (detailAddr n (max a.toNat spadBytes)))
    else none
  else if lo < 0 then some (fDescRange, some (detailAddr n (unsignedOf 52 lo)))
  else (firstOutside s lo.toNat hi.toNat).map (fun a => (fDescRange, some (detailAddr n a)))

/-- Checks 2 to 8 of R134, on the descriptor's fields. -/
def fieldChecks (x : Xfer) (perm : Nat) : Op Unit := do
  opCheck ((List.range 5).all (fun k => x.perm.contains k) && x.perm.getD 0 9 == 0) fDescPerm (some perm)
  let big := x.dst.ext.foldl max 0
  opCheck (decide (x.dst.ext.foldl (· * ·) 1 ≤ 2 ^ 32)) fDescShape (some (72 + 4 * (x.dst.ext.findIdx (· == big))))
  let strideOk (y : Side) (zero : Bool) : Bool :=
    let w := wholeBytes y.code
    if w == 0 then y.rawSt 0 == 1 else y.rawSt 0 == w || (zero && y.rawSt 0 == 0)
  opCheck (strideOk x.src true) fDescStride (some (detail2 0 (unsignedOf 32 (x.src.rawSt 0))))
  opCheck (strideOk x.dst false) fDescStride (some (detail2 1 (unsignedOf 32 (x.dst.rawSt 0))))
  checkEach [(16, x.src), (64, x.dst)] (fun y =>
    let w := wholeBytes y.2.code
    if w != 0 then
      if y.2.base % w != 0 then some (fDescAlign, some y.1)
      else ([1, 2, 3, 4].find? (fun k => decide (1 < y.2.e k) && y.2.st k % w != 0)).map (fun k =>
        (fDescAlign, some (y.1 + 28 + 4 * k)))
    else
      let g : Int := groupOf y.2.code
      ([(6, x.lo.getD 0 0), (24, (x.src.e 0 : Int)), (72, (x.dst.e 0 : Int))].find? (fun f => f.2 % g != 0)).map (fun f =>
        (fDescAlign, some f.1)))
  (match [1, 2, 3, 4].find? (fun k => x.reduce == 0 && x.dst.rawSt k == 0 && decide (1 < x.dst.e k)) with
   | some k => opFault fDescAlias (some k)
   | none => pure ())
  opCheck ((!x.rnd || (x.src.code == 0 && x.reduce == 0)) && (x.reduce == 0 || decide (x.dst.code ≤ 2))) fDescConv
    (some (detail2 x.fmt x.flags))

/-- Check 8 (R124, R129): a reduction's destination lies in a stack or in the GDDR tier. -/
def reduceCheck (t : Nat) (x : Xfer) : Op Unit :=
  let ok := !x.dst.own && isCached x.dst.base.toNat
  let base := if x.dst.own then x.dst.base - spadBase t else x.dst.base
  opCheck (x.reduce == 0 || ok) fDescReduce (some base.toNat)

/-- The far-side ranges of a transfer's touched bytes. -/
def farRanges (x : Xfer) : List (Nat × Nat) :=
  (x.touched.filter (fun y => !y.2.1.own)).map (fun y => (y.2.2.1.toNat, (y.2.2.2 - y.2.2.1).toNat))

/-- UNIT_ABSENT, check 9, then STRIP_BUSY, WINDOW_CLOSED and PART_FENCE (R134, R151, R213, R369). -/
def placeChecks (s : State) (t p : Nat) (x : Xfer) : Op Unit := do
  checkEach (x.touched.filter (fun y => !y.2.1.own)) (fun y =>
    (absentIn s y.2.2.1.toNat y.2.2.2.toNat).map (fun a => (fUnitAbsent, some a)))
  checkEach x.touched (fun y => rangeFault s t y.1 y.2.1 y.2.2.1 y.2.2.2)
  checkEach (farRanges x) (fun r => if inTransition s r.1 r.2 then some (fStripBusy, none) else none)
  checkEach (farRanges x) (fun r => if windowClosed s (some t) r.1 then some (fWindowClosed, none) else none)
  checkEach (farRanges x) (fun r => if fenced s p r.1 r.2 then some (fPartFence, none) else none)

/-! ### The walk (R120–R128) -/

/-- A piece of the destination: the run and the group of the run it is written by, its address, its bytes, whether it is padding,
whether it comes of a poisoned source burst. -/
structure Piece where
  run : Nat
  grp : Nat
  addr : Nat
  bytes : List Byte
  pad : Bool
  poison : Bool

/-- The path to an address: the home slice for stacks and GDDR (08 R208). -/
def pathOf (a : Nat) : Path := if isCached a then .home else .direct

/-- The outer indices of run number `r`: dimension 1 varies fastest. -/
def Xfer.outer (x : Xfer) (r : Nat) (k : Nat) : Nat :=
  match k with
  | 1 => r % x.dst.e 1
  | 2 => r / x.dst.e 1 % x.dst.e 2
  | 3 => r / (x.dst.e 1 * x.dst.e 2) % x.dst.e 3
  | 4 => r / (x.dst.e 1 * x.dst.e 2 * x.dst.e 3)
  | _ => 0

/-- How many runs a transfer has. -/
def Xfer.runs (x : Xfer) : Nat := x.dst.e 1 * x.dst.e 2 * x.dst.e 3 * x.dst.e 4

/-- Whether a run holds data, by its outer indices. -/
def Xfer.runData (x : Xfer) (r : Nat) : Bool :=
  [1, 2, 3, 4].all (fun k => decide ((x.span k).1 ≤ x.outer r k) && decide (x.outer r k < (x.span k).2))

/-- The source run of a destination run. -/
def Xfer.srcRun (x : Xfer) (r : Nat) : Int :=
  x.src.base + ([1, 2, 3, 4].map (fun k => x.src.st (x.perm.getD k 0) * ((x.outer r k : Int) - x.lo.getD k 0))).foldl (· + ·) 0

/-- How a transfer reads its source: bytes of a range, and whether they read as poisoned. -/
structure Reader where
  bytes : Nat → Nat → List Byte
  poisoned : Nat → Nat → Bool

/-- The source as it stands in a state. -/
def readsIn (s : State) : Reader :=
  { bytes := fun a n => peek s (pathOf a) a n, poisoned := fun a n => peekPoison s (pathOf a) a n }

/-- Elements `lo` up to `hi` of a source run as patterns, values and (for MX) the scale bytes of their blocks; the whole groups that
hold them are read. -/
def readElems (rd : Reader) (x : Side) (start : Int) (lo hi : Nat) : List Nat × List Num × List Byte :=
  let get (r : Nat × Nat) : List Byte := rd.bytes (start + r.1).toNat (r.2 - r.1)
  let n := hi - lo
  let g := groupOf x.code
  let from' := lo / g * g
  let f := fmtOf x.code
  match x.ranges from' (ceilDiv hi g * g) with
  | [e, sc] =>
    let b := (elems (fmtBits x.code) (hi - from') (get e)).drop (lo - from')
    let scale := get sc
    (b, (indexed b).map (fun y => scaleBy (scale.getD ((y.1 + (lo - from')) / 32) 0).toNat (decodeNum f y.2)), scale)
  | [e] =>
    let b := if wholeBytes x.code != 0 && x.rawSt 0 == 0 then List.replicate n (leNat (get e))
             else (elems (fmtBits x.code) (hi - from') (get e)).drop (lo - from')
    (b, b.map (decodeNum f), [])
  | _ => ([], [], [])

/-- Whether a source burst under elements `lo` up to `hi` reads as poisoned (R136). -/
def elemsPoison (rd : Reader) (x : Side) (start : Int) (lo hi : Nat) : Bool :=
  let g := groupOf x.code
  (x.ranges (lo / g * g) (ceilDiv hi g * g)).any (fun r => rd.poisoned (start + r.1).toNat (r.2 - r.1))

/-- The bytes of one destination group from its source elements, with the scale byte for MX (R127, R128). -/
def convertGroup (x : Xfer) (walk : Nat) (b : List Nat) (v : List Num) (scale : List Byte) : List Byte × List Byte :=
  let c := x.dst.code
  let rnd (i : Nat) : Rnd := if x.rnd then .sr (srDraw x.key x.ctr (walk + i)) else .rne
  if x.src.code == c then (packElems c b, scale)
  else if isMx c then
    let sc := mxScale c v
    (packElems c ((indexed v).map (fun y => (mxElem c sc (rnd y.1) x.sat y.2).1)), [BitVec.ofNat 8 sc])
  else (packElems c ((indexed v).map (fun y => (roundTo (fmtOf c) (rnd y.1) x.sat y.2).1)), [])

/-- The bytes of one padding group (R118, R127). -/
def padGroup (x : Xfer) : List Byte × List Byte :=
  let c := x.dst.code
  (packElems c (List.replicate (groupOf c) (x.pad % 2 ^ fmtBits c)), if isMx c then [BitVec.ofNat 8 (x.pad / 256)] else [])

/-- The pieces of destination group `u` of run `r`. -/
def groupPieces (x : Xfer) (r u : Nat) (pad poison : Bool) (v : List Byte × List Byte) : List Piece :=
  let start := x.dst.run (x.outer r)
  let eb := groupBytes x.dst.code
  let first : Piece := { run := r, grp := u, addr := (start + u * eb).toNat, bytes := v.1, pad := pad, poison := poison }
  if v.2.isEmpty then [first]
  else [first, { run := r, grp := u, addr := (start + x.dst.e 0 / 32 * eb + u).toNat, bytes := v.2, pad := pad, poison := poison }]

/-- The source element of a transfer that is the first of destination group `u` of a run. -/
def Xfer.firstOf (x : Xfer) (u : Nat) : Nat := (u * groupOf x.dst.code - x.lo.getD 0 0 : Int).toNat

/-- Whether destination group `u` of run `r` is data. -/
def Xfer.isData (x : Xfer) (r u : Nat) : Bool :=
  x.runData r && decide ((x.span 0).1 ≤ u * groupOf x.dst.code) && decide (u * groupOf x.dst.code < (x.span 0).2)

/-- The pieces of a data group from the source elements read for it: patterns, values, scales, and whether they are poisoned. -/
def dataPieces (x : Xfer) (r u : Nat) (b : List Nat × List Num × List Byte) (poison : Bool) : List Piece :=
  groupPieces x r u false poison (convertGroup x (x.dst.e 0 * r + u * groupOf x.dst.code) b.1 b.2.1 b.2.2)

/-- The pieces of one run, its source read as given (R120, R126). -/
def runPieces (rd : Reader) (x : Xfer) (r : Nat) : List Piece :=
  let g := groupOf x.dst.code
  (List.range (x.dst.e 0 / g)).flatMap (fun u =>
    if x.isData r u then
      let a := x.firstOf u
      dataPieces x r u (readElems rd x.src (x.srcRun r) a (a + g)) (elemsPoison rd x.src (x.srcRun r) a (a + g))
    else if x.padw then groupPieces x r u true false (padGroup x) else [])

/-- The state after a run's source is read: lines filled, errors detected (R117, 08 R208). -/
def touchRun (s : State) (x : Xfer) (r : Nat) : State :=
  if x.runData r && decide ((x.span 0).1 < (x.span 0).2) then
    let start := x.srcRun r
    let j := x.lo.getD 0 0
    (x.src.ranges ((x.span 0).1 - j : Int).toNat ((x.span 0).2 - j : Int).toNat).foldl (fun s y =>
      touch s (pathOf (start + y.1).toNat) (start + y.1).toNat (y.2 - y.1)) s
  else s

/-- Every run read in turn: the state after, and the pieces. -/
def readRuns (s : State) (x : Xfer) : State × List Piece :=
  (List.range x.runs).foldl (fun a r => let s1 := touchRun a.1 x r; (s1, a.2 ++ runPieces (readsIn s1) x r)) (s, [])

/-! ### Writing (R124–R126, R129, R136) -/

/-- Whether two data pieces of different runs collide. -/
def collide (l : List Piece) : Bool :=
  l.any (fun a => l.any (fun b => a.run != b.run && overlaps a.addr a.bytes.length b.addr b.bytes.length))

/-- The pieces that lie in one burst, cut to it. -/
def inBurst (g w : Nat) (l : List Piece) : List Piece :=
  l.filterMap (fun p =>
    if overlaps p.addr p.bytes.length w g then
      let lo := max p.addr w
      let hi := min (p.addr + p.bytes.length) (w + g)
      some { p with addr := lo, bytes := (p.bytes.drop (lo - p.addr)).take (hi - lo) }
    else none)

/-- The pieces of a burst in the order their writes land: padding first, then the runs, in a free order when they collide. -/
def landingOrder (n : Nat) (l : List Piece) : List Piece :=
  let pads := l.filter (fun p => p.pad)
  let data := l.filter (fun p => !p.pad)
  if collide data then
    pads ++ (shuffle n (data.map (fun p => p.run)).eraseDups).flatMap (fun r => data.filter (fun p => p.run == r))
  else pads ++ data

/-- Contiguous stretches of a store of bytes. -/
def stretches : Store Byte → List (Nat × List Byte)
  | [] => []
  | (a, b) :: r =>
    match stretches r with
    | (c, l) :: q => if c == a + 1 then (a, b :: l) :: q else (a, [b]) :: (c, l) :: q
    | [] => [(a, [b])]

/-- One burst written; the flag says that a write was discarded. -/
def writeBurst (s : State) (l : List Piece) : State × Bool :=
  let m := l.foldl (fun m p => (indexed p.bytes).foldl (fun m b => sIns m (p.addr + b.1) b.2) m) ([] : Store Byte)
  let bad := l.any (fun p => p.poison)
  (stretches m).foldl (fun a x => let r := writeMem a.1 (pathOf x.1) x.1 x.2 bad; (r.1, a.2 || r.2)) (s, false)

/-- The bursts that pieces touch, each with its writes in the order they land: `n` is the first draw, the answer's the next. -/
def landings (n : Nat) (l : List Piece) : Nat × List (List Piece) :=
  ((l.flatMap (fun p => pieces (burst p.addr) p.addr p.bytes.length)).eraseDups).foldl (fun a w =>
    let ps := inBurst (burst w) w l
    (a.1 + ps.length, a.2 ++ [landingOrder a.1 ps])) (n, [])

/-- Bursts written, each in the order of its writes. -/
def writeBursts (s : State) (l : List (List Piece)) : State × Bool :=
  l.foldl (fun a ps => let r := writeBurst a.1 ps; (r.1, a.2 || r.2)) (s, false)

/-- Every burst that the pieces touch written. -/
def writePieces (s : State) (l : List Piece) : State × Bool :=
  let n := landings s.free l
  writeBursts { s with free := n.1 } n.2

/-- One element reduced into its destination at the home slice (R129). -/
def reduceElem (s : State) (x : Xfer) (addr : Nat) (v : Num) (poison : Bool) : State × Bool :=
  let n := wholeBytes x.dst.code
  let old := readMem s .home addr n
  let d := decodeNum (fmtOf x.dst.code) (leNat old.2.1)
  let y := if x.reduce == 1 then numAdd d v else if x.reduce == 2 then numMax d v else numMin d v
  let r := (roundTo (fmtOf x.dst.code) .rne x.sat y).1
  writeMem old.1 .home addr (natLe n r) (poison || old.2.2)

/-- Elements `lo` up to `hi` of a source run, the reader of each source group picked by its number in the run, with their poison. -/
def readPicked (pick : Nat → Reader) (x : Side) (start : Int) (lo hi : Nat) : (List Nat × List Num × List Byte) × Bool :=
  let g := groupOf x.code
  let l := (List.range (ceilDiv hi g - lo / g)).map (fun i =>
    let k := lo / g + i
    (readElems (pick k) x start (max lo (k * g)) (min hi ((k + 1) * g)), elemsPoison (pick k) x start (k * g) ((k + 1) * g)))
  ((l.flatMap (fun y => y.1.1), l.flatMap (fun y => y.1.2.1), l.flatMap (fun y => y.1.2.2)), l.any (fun y => y.2))

/-- The bytes of a group of a source run: addresses. -/
def groupAddrs (x : Side) (start : Int) (k : Nat) : List Nat :=
  (x.ranges (k * groupOf x.code) ((k + 1) * groupOf x.code)).flatMap (fun r =>
    (List.range (r.2 - r.1)).map (fun i => (start + r.1).toNat + i))

/-- The data elements of a reduction: run and destination index, and address. -/
def reduceItems (x : Xfer) : List (Nat × Nat × Nat) :=
  (List.range x.runs).flatMap (fun r =>
    if x.runData r then
      (List.range ((x.span 0).2 - (x.span 0).1)).map (fun i =>
        let k := (x.span 0).1 + i
        (r, k, (x.dst.run (x.outer r) + k * wholeBytes x.dst.code).toNat))
    else [])

/-- The items of a reduction applied one at a time in the order given (R129). A source group is read as it was, or, once no item still
to come changes it, freely as it stands (R125). -/
def reduceAll (was : State) (x : Xfer) : List (Nat × Nat × Nat) → State × Bool → State × Bool
  | [], a => a
  | e :: rest, a =>
    let start := x.srcRun e.1
    let j := (e.2.1 - x.lo.getD 0 0 : Int).toNat
    let n := wholeBytes x.dst.code
    let settled (k : Nat) : Bool :=
      (groupAddrs x.src start k).all (fun b => (e :: rest).all (fun i => !decide (i.2.2 ≤ b && b < i.2.2 + n)))
    let b := readPicked (fun k => if freeBool a.1 && settled k then readsIn a.1 else readsIn was) x.src start j (j + 1)
    let r := reduceElem (drew a.1) x e.2.2 (b.1.2.1.getD 0 (Num.zero false)) b.2
    reduceAll was x rest (r.1, a.2 || r.2 || b.2)

/-- The piece of a list that covers a byte on behalf of a group. -/
def covering (l : List Piece) (r u b : Nat) : Option Piece :=
  l.find? (fun p => p.run == r && p.grp == u && decide (p.addr ≤ b) && decide (b < p.addr + p.bytes.length))

/-- The write that a byte ends with: the last of its burst's writes that covers it. -/
def lastOn (plan : List (List Piece)) (b : Nat) : Option Piece :=
  plan.findSome? (fun l => l.reverse.find? (fun p => decide (p.addr ≤ b) && decide (b < p.addr + p.bytes.length)))

/-- The source as a transfer leaves it, for a source group all of whose writes have been worked out: `vals` holds their pieces. -/
def readsAfter (was : Reader) (plan : List (List Piece)) (vals : List Piece) : Reader :=
  let last (b : Nat) : Option (Piece × Piece) := (lastOn plan b).bind (fun p => (covering vals p.run p.grp b).map (fun q => (p, q)))
  { bytes := fun a k => (indexed (was.bytes a k)).map (fun z =>
      match last (a + z.1) with | some (_, q) => q.bytes.getD (a + z.1 - q.addr) z.2 | none => z.2),
    poisoned := fun a k =>
      (List.range k).any (fun i => match last (a + i) with | some (_, q) => q.poison | none => false) ||
      (pieces (burst a) a k).any (fun w => was.poisoned w (burst w) && (List.range (burst w)).any (fun i => (lastOn plan (w + i)).isNone)) }

/-- The pieces of one group worked out once the others in `vals` are: each source group is freely the old one or, where every write of
it is worked out, the new one (R125). -/
def mixedGroup (was : Reader) (plan : List (List Piece)) (x : Xfer) (vals : List Piece) (r u n : Nat) : List Piece :=
  let start := x.srcRun r
  let a := x.firstOf u
  let known (b : Nat) : Bool := match lastOn plan b with | some p => (covering vals p.run p.grp b).isSome | none => true
  let pick (k : Nat) : Reader :=
    if Config.freeNat (n + (k - a / groupOf x.src.code)) % 2 == 1 && (groupAddrs x.src start k).all known then readsAfter was plan vals
    else was
  let b := readPicked pick x.src start a (a + groupOf x.dst.code)
  dataPieces x r u b.1 b.2

/-- A transfer whose destination overlaps its source (R125). Each burst's writes land in a free order (R124); the groups are worked
out in a free order, each from the old or the new value of each source group; `old` are the pieces of the source as it was. -/
def writeOverlapping (s : State) (x : Xfer) (old : List Piece) : State × Bool :=
  let plan := landings s.free old
  let keys := ((old.filter (fun p => !p.pad)).map (fun p => (p.run, p.grp))).eraseDups
  let pads := old.filter (fun p => p.pad)
  let n := plan.1 + keys.length
  let g := groupOf x.dst.code + 1
  let vals := (indexed (shuffle plan.1 keys)).foldl (fun v e =>
    v ++ mixedGroup (readsIn s) plan.2 x v e.2.1 e.2.2 (n + e.1 * g)) pads
  let cut (p : Piece) : Piece := match covering vals p.run p.grp p.addr with
    | some q => { p with bytes := (q.bytes.drop (p.addr - q.addr)).take p.bytes.length, poison := q.poison }
    | none => p
  let r := writeBursts { s with free := n + keys.length * g } (plan.2.map (fun l => l.map cut))
  (r.1, r.2 || vals.any (fun p => p.poison))

/-- A transfer performed: the state, and whether its signal carries poison. -/
def performXfer (s : State) (x : Xfer) : State × Bool :=
  if x.reduce != 0 then
    let s1 := (List.range x.runs).foldl (fun s r => touchRun s x r) s
    let items := reduceItems x
    reduceAll s1 x (shuffle s1.free items) ({ s1 with free := s1.free + items.length }, false)
  else
    let old := readRuns s x
    let meets := match x.touched with
      | [a, b] => decide (a.2.2.1 < b.2.2.2) && decide (b.2.2.1 < a.2.2.2)
      | _ => false
    if meets then writeOverlapping old.1 x old.2
    else
      let w := writePieces old.1 old.2
      (w.1, w.2 || old.2.any (fun p => p.poison))

/-! ### XLD and XST -/

/-- A transfer from its descriptor and the captured registers (R115–R119). -/
def parseXfer (t : Nat) (inbound : Bool) (e : QEntry) (d : List Byte) : Xfer :=
  let w := e.word
  let fmt := bytesAt d 1 1
  let shift := bytesAt d 2 1
  let flags := bytesAt d 0 1
  let perm := (List.range 5).map (fun k => fld (bytesAt d 4 2) (3 * k + 2) (3 * k))
  let org : Int := spadBase t
  let repl (r : Nat) (on : Nat) : Option Nat := if wf' w on on == 1 then some (capA e r) else none
  let src := parseSide (fmt % 16) (shift % 16) (if inbound then 0 else org) (!inbound) (d.drop 16) (repl (wf' w 110 106) 105)
  let dst := parseSide (fmt / 16) (shift / 16) (if inbound then org else 0) inbound (d.drop 64) (repl (wf' w 104 100) 99)
  let xl := wf' w 87 87 == 1
  let n := capL e (wf' w 86 84)
  { src := if xl then { src with ext := src.ext.set (perm.getD 4 9) n } else src,
    dst := if xl then { dst with ext := dst.ext.set 4 n } else dst,
    perm := perm, lo := (List.range 5).map (fun k => signedOf 16 (bytesAt d (6 + 2 * k) 2)),
    padw := bitAt flags 0, rnd := bitAt flags 1, sat := bitAt flags 2, reduce := fld flags 4 3, pad := bytesAt d 112 4,
    signal := BitVec.ofNat 32 (bytesAt d 116 4), key := capA e (wf' w 98 94), ctr := capA e (wf' w 93 89), fmt := fmt,
    flags := flags }

/-- The partition that a core's kernel is charged to (R369). -/
def kernelPart (s : State) (t : Nat) : Nat := match (getCore s t).kernel with | some k => k.pkt.partition | none => 0

/-- Where a descriptor may lie (R117). -/
def descPlace (s : State) (p a : Nat) : Bool :=
  a % 128 == 0 && locBacked s (locate a) &&
  (match locate a with
   | .stack n off => isProtected (getStack s n) (regionOf (getStack s n) off)
   | .gddr _ => true
   | .host _ => true
   | .spad _ _ => true
   | _ => false) && !fenced s p a 128

/-- The address of a transfer's descriptor. -/
def descAddr (e : QEntry) : Nat := capA e (wf' e.word 115 111) % 2 ^ 52

/-- The descriptor read and every check made (R117, R134): the transfer, and the copy that it uses throughout. -/
def startXfer (t : Nat) (inbound : Bool) (e : QEntry) : Op (Xfer × List Byte) := do
  opSet (readWord wPartition)
  let s ← get
  let p := kernelPart s t
  let a := descAddr e
  opCheck (!locAbsent s (locate a)) fUnitAbsent (some a)
  opCheck (descPlace s p a) fDescAddr (some a)
  opCheck (!windowClosed s (some t) a) fWindowClosed none
  let r := unitRead s a 128 (.core t)
  set r.1
  opCheck (!r.2.2) fPoisonRead none
  let x := parseXfer t inbound e r.2.1
  fieldChecks x (bytesAt r.2.1 4 2)
  reduceCheck t x
  placeChecks r.1 t p x
  return (x, r.2.1)

/-- Bytes a transfer moves on its far side, for the regulators. -/
def farBytes (x : Xfer) : Nat :=
  let side := if x.src.own then x.dst else x.src
  let n := ([0, 1, 2, 3, 4].map (fun k => (x.span k).2 - (x.span k).1)).foldl (· * ·) 1
  ceilDiv (n * fmtBits side.code) 8

/-- The regulator of a transfer's far side. -/
def farReg (x : Xfer) : Option RegKind := (farRanges x).head?.bind (fun r => regOf r.1)

/-- The head of a queue marked: the copy of its descriptor kept, or a wait for a regulator begun. -/
def markHead (s : State) (t q : Nat) (f : QEntry → QEntry) : State :=
  updCore s t (fun c => setQueue c q ((queueOf c q).modifyHead f))

/-- A transfer that has started, with its descriptor's copy: it waits while memory it touches cannot be reached (14 R386, 06 R163) or
its regulator is empty (13 R376), each such wait counted once, else runs whole. -/
def moveXfer (t q : Nat) (inbound : Bool) (s : State) (e : QEntry) (x : Xfer) (d : List Byte) : Body :=
  let p := kernelPart s t
  let shut := (farRanges x).any (fun r => accessHeld s r.1 r.2)
  match (farReg x).filter (fun k => !shut && !regOpen s p k) with
  | some _ =>
    if e.started then .stay s
    else .stay (bump (markHead s t q (fun e => { e with started := true, desc := some d })) (0x3400 + p) 0x0B 1)
  | none =>
    if shut then .stay (markHead s t q (fun e => { e with desc := some d }))
    else
      let s2 := match farReg x with | some k => debit s p k (farBytes x) | none => s
      let r := performXfer s2 x
      .done (if inbound || wf' e.word 88 88 == 1 then r.1 else applySignal r.1 p x.signal r.2)

/-- A transfer at the head of its queue (R115–R136): its descriptor is read and checked once, when it starts. -/
def runXfer (t q op : Nat) (inbound : Bool) (s : State) : Res :=
  runHead s t q op (fun s e =>
    match e.desc with
    | some d => moveXfer t q inbound s e (parseXfer t inbound e d) d
    | none =>
      if accessHeld s (descAddr e) 128 then .wait
      else
        match (startXfer t inbound e).run s with
        | .error f s1 => .fault s1 f.1 f.2
        | .ok x s1 => moveXfer t q inbound s1 e x.1 x.2)

/-- XLD. -/
def execXld (t : Nat) (s : State) : Res := runXfer t 3 0xA0 true s

/-- XST. -/
def execXst (t : Nat) (s : State) : Res := runXfer t 4 0xA8 false s

/-! ### Cache maintenance (08 R215–R219) -/

/-- The start and the length of a maintenance instruction's range. -/
def maintRange (e : QEntry) : Nat × Nat := (capA e (wf' e.word 115 111) % 2 ^ 52, capA e (wf' e.word 110 106))

/-- The range of a maintenance instruction checked (R217, R369); a length of 0 is not. -/
def maintCheck (t : Nat) (e : QEntry) : Op (Nat × Nat) := do
  opSet (readWord wPartition)
  let s ← get
  let a := (maintRange e).1
  let n := (maintRange e).2
  (if n == 0 then pure ()
   else do
    checkEach [absentIn s a (a + n)] (fun x => x.map (fun b => (fUnitAbsent, some b)))
    (if !isCached a then opFault fDescRange (some a)
     else match firstOutside s a (a + n) with
      | some x => opFault fDescRange (some x)
      | none => pure ())
    opCheck (!fenced s (kernelPart s t) a n) fPartFence none)
  return (a, n)

/-- Whether a write-back of a line is poison or is discarded: the line is poisoned, or lies in a channel declared failing (06 R160). -/
def badWriteBack (s : State) (key : Nat) (l : Line) : Bool :=
  l.dirty && (l.poison || (match locate (key * 128) with
    | .stack n off => bitAt (getStack s n).failing (chanOf (getStack s n) off) | _ => false))

/-- Whether a line lies in a maintenance range. -/
def inMaint (r : Nat × Nat) (key : Nat) : Bool := decide (r.1 / 128 ≤ key) && decide (key * 128 < r.1 + r.2) && r.2 != 0

/-- The host's copies of the lines of a range back-invalidated, before a home slice acts on them (08 R208, R221). -/
def snoopRange (r : Nat × Nat) (s : State) : State :=
  (((s.link.tracked.map (fun h => h / 128)).eraseDups).filter (inMaint r)).foldl (fun x k => snoop x (k * 128)) s

/-- A maintenance instruction: its effect on each line present, then the signal of WB and WBINV (R216), with poison when what was
written back is poison or was discarded (R225). -/
def maintOp (t : Nat) (act : State → Nat → State) (signals : Bool) (e : QEntry) : Op Unit := do
  let r ← maintCheck t e
  opSet (snoopRange r)
  let s0 ← get
  let bad := s0.cache.any (fun l => inMaint r l.1 && badWriteBack s0 l.1 l.2)
  opSet (fun s => (s.cache.filter (fun l => inMaint r l.1)).foldl (fun x l => act x l.1) s)
  let s ← get
  (if signals && wf' e.word 105 105 == 1 then
    opSet (fun x => applySignal x (kernelPart s t) (BitVec.ofNat 32 (capA e (wf' e.word 104 100))) bad)
   else pure ())

/-- Whether every dirty line of the range can be written back: none lies in a tripped stack (06 R163). -/
def maintReady (s : State) (e : QEntry) : Bool :=
  !s.cache.any (fun l => inMaint (maintRange e) l.1 && l.2.dirty &&
    (match locate (l.1 * 128) with | .stack n _ => stackTripped s n | _ => false))

/-- INVAL. -/
def execInval (t : Nat) (s : State) : Res :=
  runOp s t 3 0xB0 (fun _ _ => true) (maintOp t (fun s k => dropLine (maybeReplace s k) k false) false)

/-- WB. -/
def execWb (t : Nat) (s : State) : Res := runOp s t 4 0xB8 maintReady (maintOp t cleanLine true)

/-- WBINV. -/
def execWbinv (t : Nat) (s : State) : Res :=
  runOp s t 4 0xB9 maintReady (maintOp t (fun s k => dropLine s k true) true)

end Sys2Proof.Machine
end

