-- ==== Sys2Proof/Machine/Engine.lean ====
section
/-! DEFINITION. The stack sequencer: program loads, launches, the broadcaster and the collectors (07_bank_engines.md R185–R199). -/

namespace Sys2Proof.Machine

open Sys2Proof

def eIllegal : Nat := 0x0401
def eBankProt : Nat := 0x0402
def eRowRange : Nat := 0x0403
def eNoRow : Nat := 0x0404
def eColRange : Nat := 0x0405
def eLmemRange : Nat := 0x0406
def eFormat : Nat := 0x0407
def eShape : Nat := 0x0408
def eInputRange : Nat := 0x0409
def eBlockOver : Nat := 0x040A
def eBlockPending : Nat := 0x040B
def eLoop : Nat := 0x040C
def eSkipRange : Nat := 0x040D
def ePcRange : Nat := 0x040E
def eGroupSlot : Nat := 0x040F
def eRunLimit : Nat := 0x0410
def eChannelDown : Nat := 0x0411
def eGroupDest : Nat := 0x0412
def eLaunchFormat : Nat := 0x0413
def eLmemEcc : Nat := 0x0414

/-- A change of the running launch of a stack. -/
def updLaunch (s : State) (n : Nat) (f : LaunchRun → LaunchRun) : State :=
  updStack s n (fun k => { k with launch := k.launch.map f })

/-! ### Collectors (R194–R196) -/

/-- The pairwise sum of pushed words, in the order given (R43, R195); a NaN is the canonical one (02 R21). -/
def collectSum (l : List W32) : W32 := round32 (pairTree 32 (l.map (fun x => (num32 x, noFlags)))).1

/-- A push in the list of a group in ascending q. -/
def insertPush (p : Push) : List Push → List Push
  | [] => [p]
  | x :: r => if p.q < x.q then p :: x :: r else x :: insertPush p r

/-- The result of one lane of a SUM or MAX group, in FP32 or rounded once to BF16 (R195). -/
def reducedLane (g : Group) (ps : List Push) (i : Nat) : List Byte :=
  let v := ps.map (fun p => p.lanes.getD i 0)
  let w := if g.op == 0 then collectSum v else round32 (extreme numMax (.inf true) (v.map num32))
  if g.fmt == 1 then natLe 2 (roundTo (fmtOf 1) .rne false (num32 w)).1 else natLe 4 w.toNat

/-- Every pushed value of a group with its lane, in push order. -/
def pushedValues (g : Group) : List (Nat × W32) :=
  g.got.flatMap (fun p => (indexed p.lanes).map (fun x => (p.off + x.1, x.2)))

/-- The lanes of a GATHER or STAT group, each with one of its pushed values; `n` names the first draw. -/
def gatheredLanes (n : Nat) (g : Group) : Store W32 :=
  let vs := pushedValues g
  vs.foldl (fun m x =>
    let c := (vs.filter (fun y => y.1 == x.1)).map (fun y => y.2)
    sIns m x.1 (c.getD (Config.freeNat (n + x.1) % c.length) 0)) []

/-- Lanes that follow one another, as bytes from the first lane on. -/
def laneRuns : Store W32 → List (Nat × List Byte)
  | [] => []
  | (l, w) :: r =>
    match laneRuns r with
    | (m, b) :: t => if m == l + 1 then (l, natLe 4 w.toNat ++ b) :: t else (l, natLe 4 w.toNat) :: (m, b) :: t
    | [] => [(l, natLe 4 w.toNat)]

/-- The pieces of a group's result: offset from dst and bytes; `n` names the first draw. -/
def collected (n : Nat) (g : Group) : List (Nat × List Byte) :=
  if g.op ≤ 1 then
    let ps := g.got.foldl (fun l p => insertPush p l) []
    [(0, (List.range g.width).flatMap (reducedLane g ps))]
  else
    let runs := (laneRuns (gatheredLanes n g)).map (fun x => (4 * x.1, x.2))
    if g.op == 2 then runs
    else
      let e := (rowstat (n + g.width) (num32 g.scale) ((pushedValues g).map (fun x => num32 x.2))).1
      runs ++ [(roundup64 (4 * g.width), natLe 8 e.toNat)]

/-- The path of collector and other inbound writes of a partition (08 R208). -/
def inboundPath (s : State) (p : Nat) : Path := if cacheMode s p then .direct else .home

/-- A group written with its signal (R196); `final` when it has not had its pushes. -/
def writeGroup (s : State) (n i : Nat) (final : Bool) : State :=
  match (getStack s n).launch with
  | none => s
  | some l =>
    match l.groups[i]? with
    | none => s
    | some g =>
      let p := l.record.partition
      let bad := final || g.got.any (fun x => x.poison.any id)
      let ps := collected s.free g
      let s1 := { s with free := s.free + 2 * g.width + 1 + (pushedValues g).length }
      let w := ps.foldl (fun a x =>
        let r := unitWrite (debitAddr a.1 p (g.dst + x.1) x.2.length) (inboundPath a.1 p) (g.dst + x.1) x.2 bad
        (r.1, a.2 || r.2)) (s1, bad)
      let s2 := applySignal w.1 p g.signal w.2
      updLaunch s2 n (fun l =>
        { l with groups := l.groups.set i { g with written := true }, poisoned := l.poisoned + (if bad then 1 else 0) })

/-! ### Program loads (R185, R186) -/

/-- A work item of a partition that has no completion record failed: reported to its steward (R186, R188, R485). -/
def workFailed (s : State) (p sc code : Nat) : State := itemFailed (report s sc code 0) p code

/-- An engine after an image is loaded: only the entries and data bytes of the image change, and the data carries no poison. -/
def loadEngine (img : List Byte) (e : Engine) : Engine :=
  let base := bytesAt img 6 2
  let count := bytesAt img 8 2
  let dlen := bytesAt img 10 2
  let doff := bytesAt img 12 2
  { e with
    pm := (List.range count).foldl (fun m i => sSet 0 m (base + i) (BitVec.ofNat 64 (bytesAt img (32 + 8 * i) 8))) e.pm,
    dm := sSetMany 0 e.dm doff ((img.drop (32 + 8 * count)).take dlen),
    dmPoison := sDropRange e.dmPoison (doff / 4) ((doff + dlen) / 4) }

/-- The code that a program load fails with, if any; the bytes of the image otherwise (R185, R186, 18 R483). -/
def checkLoad (s : State) (n q0 q1 image p : Nat) : State × Except Nat (List Byte) :=
  if !stackPresent s n || !hasEngines s then (s, .error fUnitAbsent)
  else if !imagePlace s p image 32 then (s, .error fImageLoc)
  else
    let h := unitRead s image 32
    let count := bytesAt h.2.1 8 2
    let dlen := bytesAt h.2.1 10 2
    let doff := bytesAt h.2.1 12 2
    let len := 32 + 8 * count + dlen
    if h.2.2 then (h.1, .error fPoisonRead)
    else if bytesAt h.2.1 0 4 != 0x314B4E42 || bytesAt h.2.1 4 2 != 1 || count == 0
        || decide (512 < bytesAt h.2.1 6 2 + count) || dlen % 4 != 0 || doff % 4 != 0 || decide (12288 < doff + dlen) then
      (h.1, .error fImageFormat)
    else if !imagePlace h.1 p image len then (h.1, .error fImageLoc)
    else if decide (q1 < q0) || decide (engineCount (getStack s n) ≤ q1) then (h.1, .error eLaunchFormat)
    else
      let b := unitRead h.1 image len
      if b.2.2 then (b.1, .error fPoisonRead) else (b.1, .ok b.2.1)

/-- A program load carried out. DESIGN CHOICE (log entry 87): the stewards name for a later reload every image that loaded, in the
order of its last load. -/
def doLoad (s : State) (n q0 q1 image p : Nat) : State :=
  match checkLoad (readWord wPartition s) n q0 q1 image p with
  | (s1, .error code) => workFailed s1 p (stewardOf s1 p) code
  | (s1, .ok img) =>
    let o : SeqOp := .load q0 q1 image p
    (List.range (q1 + 1 - q0)).foldl (fun x i => updEngine x n (q0 + i) (loadEngine img))
      (updStack s1 n (fun k => { k with named := k.named.filter (fun x => x != o) ++ [o] }))

/-! ### Launches (R187–R191) -/

/-- A launch record's fields (R187); bits 63:52 of every address are ignored. -/
def parseLaunch (b : List Byte) (sc : Nat) : LaunchRec :=
  let w32 (off : Nat) : W32 := BitVec.ofNat 32 (bytesAt b off 4)
  { vec := bytesAt b 0 8 % 2 ^ 52, groups := bytesAt b 8 8 % 2 ^ 52, record := bytesAt b 16 8 % 2 ^ 52, signal := w32 24,
    arg := w32 28, p0 := w32 32, pstride := w32 36, kstride := bytesAt b 40 4, q0 := bytesAt b 44 2, q1 := bytesAt b 46 2,
    entry := bytesAt b 48 2, vlen := bytesAt b 50 2, xoff := bytesAt b 52 2, kwrap := bytesAt b 54 2, stack := bytesAt b 56 1,
    vfmt := bytesAt b 57 1 % 16, ngroups := bytesAt b 58 2, partition := bytesAt b 60 1 % 16, tag := bytesAt b 62 2, sc := sc }

/-- The fields of a group-table entry (R194). -/
def parseGroup (b : List Byte) : Group :=
  { dst := bytesAt b 0 8 % 2 ^ 52, op := bytesAt b 8 1, fmt := bytesAt b 9 1, pushes := bytesAt b 10 2, width := bytesAt b 12 4,
    scale := BitVec.ofNat 32 (bytesAt b 16 4), signal := BitVec.ofNat 32 (bytesAt b 20 4), got := [], written := false }

/-- Bytes of a group's result from dst on. -/
def groupSize (g : Group) : Nat :=
  if g.op ≤ 1 then g.width * (if g.fmt == 1 then 2 else 4)
  else if g.op == 2 then 4 * g.width else roundup64 (4 * g.width) + 8

/-- Whether a group-table entry keeps the limits of R194 and its destination may be written (08 R213, 13 R369). -/
def groupOk (s : State) (p : Nat) (g : Group) : Bool :=
  let lmem := match locate g.dst with | .lmem _ _ => true | _ => false
  decide (g.op ≤ 3) && (g.fmt == 0 || (g.fmt == 1 && decide (g.op ≤ 1))) && decide (1 ≤ g.pushes) && decide (1 ≤ g.width) &&
  decide (g.width ≤ (if g.op ≤ 1 then 256 else 16777216)) && g.dst % 64 == 0 &&
  (firstOutside s g.dst (g.dst + groupSize g)).isNone && !lmem && !windowClosed s none g.dst && !fenced s p g.dst (groupSize g)

/-- Bytes of a broadcast element. -/
def vecBytes (r : LaunchRec) : Nat := if r.vfmt == 1 then 2 else 1

/-- How many source slices a broadcast reads. -/
def vecSlices (r : LaunchRec) : Nat := min (r.q1 - r.q0 + 1) r.kwrap

/-- The address of a source slice of a broadcast (R192). -/
def sliceAddr (r : LaunchRec) (j : Nat) : Nat := r.vec + j * r.kstride * vecBytes r

/-- The checks of a launch in the order of R188: the code it fails with and the address at fault where there is one (R190), or its
groups. -/
def checkLaunch (s : State) (n : Nat) (r : LaunchRec) : State × Except (Nat × Option Nat) (List Group) :=
  if !stackPresent s n || !hasEngines s then (s, .error (fUnitAbsent, none))
  else if decide (r.q1 < r.q0) || decide (engineCount (getStack s n) ≤ r.q1) || decide (512 ≤ r.entry)
      || decide (2048 < r.xoff + r.vlen) || r.kwrap == 0 || !([1, 3, 4, 8].contains r.vfmt) || decide (256 < r.ngroups) then
    (s, .error (eLaunchFormat, none))
  else if r.ngroups != 0 && (r.groups % 32 != 0 || !imagePlace s r.partition r.groups (32 * r.ngroups)) then
    (s, .error (eGroupDest, some r.groups))
  else
    let b := unitRead s r.groups (32 * r.ngroups)
    let gs := (List.range r.ngroups).map (fun i => parseGroup (b.2.1.drop (32 * i)))
    let far := if r.vec != 0 && r.vlen != 0 then (List.range (vecSlices r)).map (sliceAddr r) else []
    if b.2.2 then (b.1, .error (fPoisonRead, some r.groups))
    else
      match gs.find? (fun g => !groupOk b.1 r.partition g), far.find? (fun a => fenced b.1 r.partition a (r.vlen * vecBytes r)) with
      | some g, _ => (b.1, .error (eGroupDest, some g.dst))
      | none, some a => (b.1, .error (fPartFence, some a))
      | none, none => (b.1, .ok gs)

/-- A launch that has not started. -/
def newLaunch (r : LaunchRec) (gs : List Group) (now : Nat) : LaunchRun :=
  { record := r, groups := gs, start := now, aborted := false, firstFault := none, halted := 0, faulted := 0, cols := 0,
    skipped := 0, stallref := 0, stallext := 0, poisoned := 0, time := 0, waited := false }

/-- The 64 bytes of a launch's completion record (R190). -/
def launchRecord (l : LaunchRun) (now : Nat) : List Byte :=
  let status := if l.aborted then 2 else if l.firstFault.isSome then 1 else 0
  let f := l.firstFault.getD (0, 0, 0, 0)
  natLe 2 l.record.tag ++ natLe 1 status ++ natLe 1 0 ++ natLe 2 f.2.1 ++ natLe 2 f.1 ++ natLe 2 f.2.2.1 ++ natLe 2 0
    ++ natLe 4 f.2.2.2 ++ natLe 8 l.start ++ natLe 8 now ++ natLe 4 l.halted ++ natLe 4 l.faulted ++ natLe 4 l.stallref
    ++ natLe 4 l.stallext ++ natLe 4 l.cols ++ natLe 4 l.skipped ++ natLe 4 l.poisoned ++ natLe 4 0

/-- The completion record written, its signal riding on the write (R190); poisoned unless the launch is done (18 R491). -/
def writeLaunch (s : State) (l : LaunchRun) : State :=
  let p := l.record.partition
  let w := unitWrite (debitAddr s p l.record.record 64) .home l.record.record (launchRecord l s.now) false .other
  let s1 := match l.firstFault with | some f => itemFailed w.1 p f.2.1 | none => w.1
  applySignal s1 p l.record.signal (w.2 || l.aborted || l.firstFault.isSome)

/-- A launch that starts no engine: its record shows the code with q = 0xFFFF (R188). -/
def failLaunch (s : State) (r : LaunchRec) (code : Nat) (at' : Option Nat) : State :=
  let d := detailOf s at'
  let l := newLaunch r [] s.now
  writeLaunch d.1 { l with firstFault := some (0xFFFF, code, 0, d.2 % 2 ^ 32) }

/-- One order of a sequencer carried out: a load, or the checks of a launch, which then waits for LAUNCH_START. -/
def runOrder (s : State) (n : Nat) (o : SeqOp) : State :=
  match o with
  | .load q0 q1 image p => doLoad s n q0 q1 image p
  | .launch r =>
    match checkLaunch (readWord wPartition s) n r with
    | (s1, .error e) => failLaunch s1 r e.1 e.2
    | (s1, .ok gs) => updStack s1 n (fun k => { k with ready := some (newLaunch r gs s.now) })

/-- An order reads memory that cannot be reached now, so that it waits (14 R386, 06 R163). -/
def orderHeld (s : State) : SeqOp → Bool
  | .load _ _ image _ => accessHeld s image 32
  | .launch r => accessHeld s r.groups (32 * r.ngroups) || accessHeld s r.vec (r.vlen * vecBytes r)

/-- The sequencer's orders one at a time, in the order given, until one waits for the link, or is a launch that waits to start or
runs (R186). -/
def runOrders (n : Nat) : Nat → State → State
  | 0, s => s
  | fuel + 1, s =>
    let k := getStack s n
    match k.launch, k.ready, k.seq with
    | none, none, o :: r =>
      if orderHeld s o then s else runOrders n fuel (runOrder (updStack s n (fun k => { k with seq := r })) n o)
    | _, _, _ => s

/-- The images that a power-gating took from the engines loaded again, in the order given, until one cannot be read now (R165, R186). -/
def runReloads (n : Nat) : List SeqOp → State → State
  | [], s => updStack s n (fun k => { k with reload := [] })
  | o :: r, s => if orderHeld s o then updStack s n (fun k => { k with reload := o :: r }) else runReloads n r (runOrder s n o)

/-- A sequencer's waiting reloads and orders carried out as far as they go. -/
def drainOrders (s : State) (n : Nat) : State :=
  let s1 := runReloads n (getStack s n).reload s
  if (getStack s1 n).reload.isEmpty then runOrders n (getStack s1 n).seq.length s1 else s1

/-- An order given to a sequencer. -/
def giveOrder (s : State) (n : Nat) (o : SeqOp) : State :=
  let p := match o with | .load _ _ _ p => p | .launch r => r.partition
  drainOrders (updStack (stir s p) n (fun k => { k with seq := k.seq ++ [o] })) n

/-- PROGRAM_LOAD (R186). A load for an absent stack or a part with no engines is reported at once. -/
def execProgramLoad (n q0 q1 image p : Nat) (s : State) : Res :=
  if isReady s then
    if stackPresent s n && hasEngines s then .next (giveOrder s n (.load q0 q1 (image % 2 ^ 52) p))
    else .next (workFailed s p (stewardOf s p) fUnitAbsent)
  else .next s

/-- LAUNCH (R187, R188): the record is read, and the launch goes to the sequencer of its stack, which checks it in its turn. -/
def execLaunch (record sc : Nat) (s : State) : Res :=
  if isReady s && stewardPresent s sc && !accessHeld s (record % 2 ^ 52) 64 then
    let b := unitRead (readWord wPartition s) (record % 2 ^ 52) 64 .steward
    let r := parseLaunch b.2.1 sc
    let p := (ownerOfSteward s sc).getD 16
    if b.2.2 then .next (workFailed b.1 p sc fPoisonRead)
    else if r.record == 0 || r.record % 64 != 0 then .next (workFailed b.1 p sc eLaunchFormat)
    else if stackPresent s r.stack then .next (giveOrder b.1 r.stack (.launch r))
    else .next (failLaunch b.1 r fUnitAbsent none)
  else .next s

/-! ### The broadcaster (R192, R193) -/

/-- A source slice, read as a transfer reads that address: the state after reading it, and each element's pattern with its poison. A
window that is closed reads as all ones with poison (08 R213). DEDUCED (log entry 87): like a transfer it reads steward local memory. -/
def readSlice (s : State) (a n w : Nat) : State × List (Nat × Bool) :=
  let r := unitRead s a (n * w) .steward
  let marks := r.2.2 && !windowShut s .steward a && locBacked s (locate a) && locBacked s (locate (a + n * w - 1)) &&
    !inTransition s a (n * w)
  (r.1, (List.range n).map (fun i =>
    (bytesAt r.2.1 (i * w) w, if marks then peekPoison r.1 (if isCached a then .home else .direct) (a + i * w) w else r.2.2)))

/-- An engine after its slice arrives. -/
def fillX (r : LaunchRec) (sl : List (Nat × Bool)) (e : Engine) : Engine :=
  { e with
    xfmt := r.vfmt,
    x := sSetMany 0 e.x r.xoff (sl.map (fun v => BitVec.ofNat 16 v.1)),
    xPoison := sSetMany false e.xPoison r.xoff (sl.map (fun v => v.2)),
    arrErr := sDropRange e.arrErr (0x1000 + r.xoff) (0x1000 + r.xoff + sl.length),
    z := sSetMany false e.z r.xoff (sl.map (fun v => numIsZero (decodeNum (fmtOf r.vfmt) v.1))) }

/-- The broadcast of a launch. -/
def broadcast (s : State) (n : Nat) (r : LaunchRec) : State :=
  if r.vec == 0 || r.vlen == 0 then s
  else
    (List.range (vecSlices r)).foldl (fun x j =>
      let a := sliceAddr r j
      let sl := readSlice (debitAddr x r.partition a (r.vlen * vecBytes r)) a r.vlen (vecBytes r)
      ((List.range (r.q1 - r.q0 + 1)).filter (fun i => i % r.kwrap == j)).foldl (fun y i =>
        updEngine y n (r.q0 + i) (fillX r sl.2)) sl.1) s

/-- An engine as it starts (R189). -/
def startEngine (r : LaunchRec) (q now : Nat) (e : Engine) : Engine :=
  { e with
    g := sSet 0 (sSet 0 (sSet 0 ([] : Store W32) 13 r.arg) 14 (r.p0 + BitVec.ofNat 32 (q - r.q0) * r.pstride)) 15 (BitVec.ofNat 32 q),
    le := BitVec.allOnes 32, stage := [], row := none, loops := [], pc := r.entry, running := true, startAt := now,
    partition := r.partition, runs := e.runs + 1 }

/-- Whether the regulators that a launch comes under let it start (13 R375, R376). -/
def launchOpen (s : State) (n : Nat) (r : LaunchRec) : Bool :=
  regOpen s r.partition (.engineTime n) &&
  (r.vec == 0 || r.vlen == 0 || (match regOf r.vec with | some k => regOpen s r.partition k | none => true))

/-- LAUNCH_START (R189): the broadcast, then every engine of the range starts. It waits while the stack is tripped (06 R163),
its partition sleeps, or a regulator's bucket is not above 0 (13 R376), which is counted once. -/
def execLaunchStart (n : Nat) (s : State) : Res :=
  let k := getStack s n
  match isReady s && stackPresent s n && !stackTripped s n && k.refresh ≤ 1 && k.reload.isEmpty, k.launch, k.ready with
  | true, none, some l =>
    let r := l.record
    if decide ((getPart s r.partition).stop ≠ 0) || accessHeld s r.vec (r.vlen * vecBytes r) then .next s
    else if launchOpen s n r then
      let s1 := broadcast (updStack s n (fun k => { k with ready := none, launch := some { l with start := s.now } })) n r
      .next ((List.range (r.q1 - r.q0 + 1)).foldl (fun x i => updEngine x n (r.q0 + i) (startEngine r (r.q0 + i) s.now)) s1)
    else if l.waited then .next s
    else .next (bump (updStack s n (fun k => { k with ready := some { l with waited := true } })) (0x3400 + r.partition) 0x0B 1)
  | _, _, _ => .next s

/-- Whether an engine of a launch's range still runs. -/
def stillRunning (k : Stack) (r : LaunchRec) : Bool :=
  (List.range (r.q1 - r.q0 + 1)).any (fun i => (getEngine k (r.q0 + i)).running)

/-- A result or the record of a launch goes to memory that cannot be reached now (14 R386, 06 R163). -/
def writesHeld (s : State) (l : LaunchRun) : Bool :=
  accessHeld s l.record.record 64 || l.groups.any (fun g => !g.written && accessHeld s g.dst (groupSize g))

/-- LAUNCH_COMPLETE (R190, R196): incomplete groups written poisoned, the record and its signal; then the next orders. The time of
the engines is debited in whole ct, to within one ct an engine (log entry 12). -/
def execLaunchComplete (n : Nat) (s : State) : Res :=
  match isReady s, (getStack s n).launch with
  | true, some l =>
    if stillRunning (getStack s n) l.record || writesHeld s l then .next s
    else
      let s1 := (List.range l.groups.length).foldl (fun x i =>
        match (l.groups[i]?).map (fun g => g.written) with | some false => writeGroup x n i true | _ => x) s
      let part := freeNat s1 % (l.halted + l.faulted + 1)
      let s2 := debit (drew s1) l.record.partition (.engineTime n) (l.time + part)
      let s3 := match (getStack s2 n).launch with | some x => writeLaunch s2 x | none => s2
      .next (drainOrders (updStack s3 n (fun k => { k with launch := none })) n)
  | _, _ => .next s

/-- Every engine of a launch stopped where it is. -/
def stopEngines (k : Stack) (r : LaunchRec) (now : Nat) : Stack :=
  (List.range (r.q1 - r.q0 + 1)).foldl (fun x i =>
    let e := getEngine x (r.q0 + i)
    if e.running then
      { x with engines := sSet Engine.init x.engines (r.q0 + i) { e with running := false, row := none },
               launch := x.launch.map (fun l => { l with time := l.time + (now - e.startAt) }) }
    else x) k

/-- A launch aborted (R191): one that has not started completes with no engine started. -/
def abortLaunch (s : State) (n : Nat) : State :=
  let k := getStack s n
  match k.launch, k.ready with
  | some l, _ =>
    let k1 := { k with launch := some { l with aborted := true } }
    updStack s n (fun _ => stopEngines k1 l.record s.now)
  | none, some l => updStack s n (fun k => { k with ready := none, launch := some { l with aborted := true, start := s.now } })
  | none, none => s

/-- LAUNCH_ABORT (R191). -/
def execLaunchAbort (n : Nat) (s : State) : Res :=
  if isReady s && stackPresent s n then .next (abortLaunch s n) else .next s

/-! ### Engines that stop (R191, R199) -/

/-- An engine stops with a fault; only the first of the launch is recorded. A detail that the spec does not state is free. -/
def faultEngine (s : State) (n q code : Nat) (d : Option Nat) : State :=
  let r := detailOf s d
  let e := getEngine (getStack s n) q
  let s1 := updEngine r.1 n q (fun e =>
    { e with running := false, row := none, faults := e.faults + 1, lastCode := code, lastIndex := e.pc })
  updLaunch s1 n (fun l =>
    { l with faulted := l.faulted + 1, firstFault := l.firstFault.or (some (q, code, e.pc, r.2 % 2 ^ 32)),
             time := l.time + (s.now - e.startAt) })

/-- RUN_LIMIT (R191): an engine that runs past its partition's limit faults. -/
def execRunLimit (n q : Nat) (s : State) : Res :=
  let e := getEngine (getStack s n) q
  let limit := objNat s (0x3000 + e.partition) 0x0C
  if isReady s && stackPresent s n && e.running && limit != 0 && decide (e.startAt + limit < s.now) then
    .next (faultEngine s n q eRunLimit none)
  else .next s

end Sys2Proof.Machine
end

