-- ==== Sys2Proof/Machine/Ring.lean ====
section
/-! DEFINITION. The host link and the step-record rings (14_host_link.md R384–R386, R401–R408). -/

namespace Sys2Proof.Machine

open Sys2Proof

/-! ### The ring and its control block (R401–R405) -/

/-- The ring's base address; 0 when the partition has no ring (R405). -/
def ringBase (s : State) (p : Nat) : Nat := objNat s (0x6810 + p) 1

/-- The ring's size S. -/
def ringSize (s : State) (p : Nat) : Nat := objNat s (0x6810 + p) 2

/-- The control block's address. -/
def ringControl (s : State) (p : Nat) : Nat := objNat s (0x6810 + p) 3

/-- Whether a partition has a ring. -/
def hasRing (s : State) (p : Nat) : Bool := ringBase s p != 0

/-- The state with a partition's ring changed. -/
def updRing (s : State) (p : Nat) (f : Ring → Ring) : State := updPart s p (fun x => { x with ring := f x.ring })

/-- A write by the device to host memory that a partition's work makes: debited to its host-link regulator (13 R375). -/
def hostPut (s : State) (p a : Nat) (v : List Byte) : State := (unitWrite (debitAddr s p a v.length) .direct a v false).1

/-- Line 0 of the control block: producer and lastseq (R402). -/
def putLine0 (s : State) (p : Nat) : State :=
  let r := (getPart s p).ring
  let last := match r.lastseq with | some n => n | none => 0xFFFFFFFFFFFFFFFF
  hostPut s p (ringControl s p) (natLe 8 r.producer ++ natLe 8 last ++ natLe 48 0)

/-- A lane of a partition. -/
def laneOf (s : State) (p l : Nat) : Lane := sGet Lane.init (getPart s p).lanes l

/-- The LSEQ word of a lane (R389): its number and its expected sequence. -/
def lseqWord (s : State) (p l : Nat) : Nat := l * 2 ^ 28 + (laneOf s p l).expected

/-- Line 2 of the control block: the sixteen LSEQ words. It reaches host memory while the link is up. -/
def putLine2 (s : State) (p : Nat) : State :=
  if hasRing s p && linkUp s then
    hostPut s p (ringControl s p + 128) ((List.range 16).flatMap (fun l => natLe 4 (lseqWord s p l)))
  else s

/-- Whether the host's consumer value is above producer, or more than S below it (R404). -/
def consumerBad (s : State) (p : Nat) : Bool :=
  let r := (getPart s p).ring
  decide (r.producer < r.consumer) || decide (ringSize s p < r.producer - r.consumer)

/-- Whether `b` bytes of records fit the ring (R404). -/
def ringFits (s : State) (p b : Nat) : Bool :=
  let r := (getPart s p).ring
  !consumerBad s p && decide (r.producer + b ≤ ringSize s p + r.consumer)

/-- Whether a record of a partition may be written now: the link is up (R386), and its bytes fit. -/
def recordRoom (s : State) (p b : Nat) : Bool := linkUp s && ringFits s p b

/-- A wait for room, counted once (R404). -/
def countWait (s : State) (p : Nat) : State :=
  if (getPart s p).ring.waited || !linkUp s then s
  else updRing (bump s (0x6810 + p) 8 1) p (fun r => { r with waited := true })

/-- Whether the ring's message is due (R407). -/
def wantFires (s : State) (p : Nat) : Bool :=
  let r := (getPart s p).ring
  match r.lastseq with
  | none => false
  | some last =>
    let want := r.want.toNat
    want != 0xFFFFFFFFFFFFFFFF && decide (want ≤ last) && r.want != r.lastWant &&
    (decide (objNat s (0x6810 + p) 5 ≤ last - want + 1) ||
      r.written.any (fun e => e.1 == want && decide (e.2 + objNat s (0x6810 + p) 6 ≤ s.now)))

/-- The ring's vector sent once when it is due, and its want recorded (R407). -/
def fireRing (s : State) (p : Nat) : State :=
  if hasRing s p && linkUp s && wantFires s p then
    updRing (interrupt s (0x6810 + p) 4) p (fun r => { r with lastWant := r.want })
  else s

/-- The bytes of a record at the ring's producer, run over its end to its start (R401). -/
def putRing (s : State) (p : Nat) (b : List Byte) : State :=
  let size := ringSize s p
  let off := (getPart s p).ring.producer % size
  let s1 := hostPut s p (ringBase s p + off) (b.take (size - off))
  hostPut s1 p (ringBase s p) (b.drop (size - off))

/-- One record written: its bytes, then line 0, then the ring's message if it is due (R403, R408). -/
def writeRing (s : State) (p : Nat) (b : List Byte) : State :=
  let s1 := putRing s p b
  let note (r : Ring) : Ring :=
    { r with producer := r.producer + b.length, lastseq := some r.seq, seq := r.seq + 1,
             written := r.written ++ [(r.seq, s.now)], waited := false }
  fireRing (putLine0 (bump (updRing s1 p note) (0x6810 + p) 7 1) p) p

/-- A ring set anew (R405): producer and consumer 0, lastseq all ones, in the new control block. -/
def resetRing (s : State) (p : Nat) : State :=
  let s1 := updRing s p (fun r => { r with producer := 0, lastseq := none, seq := 0, consumer := 0, written := [], waited := false })
  if hasRing s1 p then putLine2 (hostPut (putLine0 s1 p) p (ringControl s1 p + 64) (natLe 8 0)) p else s1

/-- The host's words of line 1 as the device sees them (R402, R404): a consumer value out of range is counted. -/
def seeLine1 (s : State) (p : Nat) : State :=
  let b := peek s .direct (ringControl s p + 64) 16
  let old := (getPart s p).ring.consumer
  let s1 := updRing s p (fun r => { r with consumer := bytesAt b 0 8, want := BitVec.ofNat 64 (bytesAt b 8 8) })
  let s2 := if bytesAt b 0 8 != old && consumerBad s1 p then bump s1 (0x6810 + p) 0xD 1 else s1
  fireRing s2 p

/-- RING_CONTROL_WRITE (R402): the host writes bytes of line 1; a cache-coherent link shows them to the device at once. -/
def execRingControlWrite (p off : Nat) (bytes : List Byte) (s : State) : Res :=
  if isReady s && decide (p < 16) && hasRing s p && decide (off + bytes.length ≤ 64) then
    let s1 := pokeRaw s (ringControl s p + 64 + off) bytes false
    .next (if decide (2 ≤ s.link.level) then seeLine1 s1 p else s1)
  else .next s

/-- CONTROL_BLOCK_POLL (R402): on a PCIe-only link the device reads line 1 every 64 ct. -/
def execControlBlockPoll (p : Nat) (s : State) : Res :=
  if isReady s && decide (p < 16) && hasRing s p && s.link.level == 1 && dueEvery s 64 then
    .next (seeLine1 (debitAddr s p (ringControl s p + 64) 64) p)
  else .next s

/-- RING_MODERATION_TIMER (R407): the record that the host wants is old enough. -/
def execRingModerationTimer (p : Nat) (s : State) : Res :=
  if isReady s && decide (p < 16) then .next (fireRing s p) else .next s

end Sys2Proof.Machine
end

