-- ==== Sys2Proof/Machine/Page.lean ====
section
/-! DEFINITION. KV pages in memory: their format, their places, their bytes, and the entries that name them
(11_attention_and_kv_cache.md R282–R289). -/

namespace Sys2Proof.Machine

open Sys2Proof

/-- A page by number. -/
def pageOf (x : Part) (g : Nat) : Page := sGet Page.init x.pages g

/-- A partition with a page changed. -/
def updPage (x : Part) (g : Nat) (f : Page → Page) : Part := { x with pages := sIns x.pages g (f (pageOf x g)) }

/-- The stack in which a page lies, or lay before it was spilled. -/
def Page.stack (g : Page) : Nat := g.addr / 0x2000000000

/-- A page of a partition marked poisoned. -/
def poisonPage (s : State) (p g : Nat) : State := updPart s p (fun x => updPage x g (fun z => { z with poisoned := true }))

/-! ### Rows (R283, R285) -/

/-- Rows of the side block of an eviction-class page (R285). -/
def sideRows (m : Model) : Nat := 32 * ceilDiv (m.layers * m.kvheads * 256 + 1088) 65536

/-- Rows that come before the keys and values. -/
def leadRows (m : Model) : Nat := if m.kvclass == 1 then 0 else sideRows m

/-- Rows of one layer: latent rows, or the key rows and then the value rows. -/
def layerRows (m : Model) : Nat := if m.kvclass == 1 then m.kvdim / 32 else 2 * m.kvheads * (m.kvdim / 32)

/-- Rows of a page. -/
def pageRows (m : Model) : Nat := leadRows m + m.layers * layerRows m

/-- Bytes of a page. -/
def pageBytes (m : Model) : Nat := 2048 * pageRows m

/-- The first row that holds a head's keys, or its values, in a layer; in the latent class the layer's latent rows (R283). -/
def headRow (m : Model) (layer head : Nat) (value : Bool) : Nat :=
  leadRows m + layer * layerRows m +
  (if m.kvclass == 1 then 0 else (if value then m.kvheads * (m.kvdim / 32) else 0) + head * (m.kvdim / 32))

/-- Bytes that a token has in a page. -/
def tokenBytes (m : Model) : Nat := 32 * m.layers * layerRows m

/-- The place of byte `i` of a token's keys and values in a page: row i / 32 after the side block, line i mod 32, and there the byte of
the token's slot. -/
def tokenPlace (m : Model) (slot i : Nat) : Nat := 2048 * (leadRows m + i / 32) + 64 * (i % 32) + slot

/-! ### Places (R286, R287, R374) -/

/-- Whether a stripe width suits a model's page format (R286). -/
def stripeOk (m : Model) (w : Nat) : Bool :=
  w == 0 ||
  ((if m.kvclass == 1 then m.kvdim / 32 % w == 0 else [1, 2, 4, 8, 16, 32].contains w && 2 * m.kvheads * m.kvdim / 32 % w == 0) &&
    decide (ceilDiv (pageRows m) w ≤ 4096))

/-- The widths of a stripe in compute regions: the preferred one (R313), or all that the format allows. -/
def stripeWidths (s : State) (p : Nat) (m : Model) : List Nat :=
  let pref := objNat s (0x5100 + p) 0x12
  if pref != 0 && stripeOk m pref then [pref] else ((List.range (max 32 (m.kvdim / 32) + 1)).drop 1).filter (stripeOk m)

/-- The address ranges, as first address and bytes, of a page's member parts, or of the whole page in protected regions. -/
def pageSpans (g : Page) : List (Nat × Nat) :=
  if g.w == 0 then [(g.addr, 2048 * g.rows)]
  else (List.range g.w).map (fun j => (g.addr + j * 0x800000, 2048 * (g.rows / g.w)))

/-- The device address of a page's row (R286). -/
def rowAddr (g : Page) (n : Nat) : Nat :=
  if g.w == 0 then g.addr + 2048 * n else g.addr + (n % g.w) * 0x800000 + (n / g.w) * 2048

/-- Whether pages lie in protected regions, as on the WDN-4812P (R287). -/
def pagesProtected (s : State) : Bool := s.hw.variant == .wdn4812P

/-- Whether a range lies in regions of one stack that a mask gives, all of the attribute that pages need. -/
def spanOk (s : State) (owned : Nat → Nat) (r : Nat × Nat) : Bool :=
  match locate r.1 with
  | .stack n off =>
    let k := getStack s n
    decide (off + r.2 ≤ backed k) && chanCount k != 0 &&
    ((List.range 16).filter (fun i => decide (off < (i + 1) * regionSize k) && decide (i * regionSize k < off + r.2))).all
      (fun i => bitAt (owned n) i && isProtected k i == pagesProtected s && !bitAt k.trans i)
  | _ => false

/-- Whether two ranges share a byte. -/
def spansMeet (a b : Nat × Nat) : Bool := overlaps a.1 a.2 b.1 b.2

/-- What a new page of a partition must leave alone: its pages in the stacks and the memory that its models name. -/
def takenSpans (x : Part) : List (Nat × Nat) :=
  let named (m : Option Model) : List (Nat × Nat) := match m with | some y => y.named | none => []
  named x.model ++ named x.draft ++ (x.pages.filter (fun e => e.2.tier == 0)).flatMap (fun e => pageSpans e.2)

/-- Whether a page may lie where it says. -/
def placeOk (s : State) (x : Part) (owned : Nat → Nat) (g : Page) : Bool :=
  (pageSpans g).all (fun r => spanOk s owned r && (takenSpans x).all (fun t => !spansMeet r t))

/-- Place number `i` of a stack for a page of a format: width, region, bank-linear index and row of a stripe whose members stay in
their banks, or a row of the stack in protected regions. -/
def placeAt (s : State) (n : Nat) (ws : List Nat) (g : Page) (i : Nat) : Page :=
  let k := getStack s n
  if pagesProtected s then { g with w := 0, addr := n * 0x2000000000 + 2048 * i }
  else
    let w := ws.getD (i % ws.length) 1
    let j := i / ws.length
    let room := 4097 - g.rows / w
    let q := j / room % (engineCount k + 1 - w)
    let r := j / room / (engineCount k + 1 - w) % 16
    { g with w := w, addr := n * 0x2000000000 + r * regionSize k + q * 0x800000 + (j % room) * 2048 }

/-- How many places a stack has to try. -/
def placeCount (s : State) (n : Nat) (ws : List Nat) : Nat :=
  let k := getStack s n
  if pagesProtected s then backed k / 2048 else ws.length * 16 * engineCount k * 4097

/-- A place of a stack for a page, a free choice among those that are good. -/
def choosePlace (s : State) (p n : Nat) (m : Model) (owned : Nat → Nat) (g : Page) : State × Option Page :=
  let ws := stripeWidths s p m
  let c := placeCount s n ws
  (drew s, ((List.range c).map (fun i => placeAt s n ws g ((freeNat s + i) % c))).find? (placeOk s (getPart s p) owned))

/-! ### Bytes -/

/-- Rows of a page in the stacks read: a launch reads its own bank directly, every other reader the home path (08 R208). -/
def readRows (s : State) (bank : Bool) (g : Page) (l : List Nat) : State × List (List Byte × Bool) :=
  l.foldl (fun a n =>
    let r := if bank then readMem a.1 .bank (rowAddr g n) 2048 else unitRead a.1 (rowAddr g n) 2048
    (r.1, a.2 ++ [(r.2.1, r.2.2)])) (s, [])

/-- A page's rows with their poison, in the stacks or below them. -/
def pageContent (s : State) (g : Page) : State × List (List Byte × Bool) :=
  if g.tier == 0 then readRows s false g (List.range g.rows) else (s, g.stow)

/-- Bytes written at a place of a page, through the home path. -/
def writePage (s : State) (g : Page) (off : Nat) (v : List Byte) (poison : Bool) : State :=
  (pieces 2048 off v.length).foldl (fun x b =>
    let lo := max off b
    let hi := min (off + v.length) (b + 2048)
    (unitWrite x .home (rowAddr g (lo / 2048) + lo % 2048) ((v.drop (lo - off)).take (hi - lo)) poison).1) s

/-- Rows put back in the stacks. -/
def fillRows (s : State) (g : Page) (l : List (List Byte × Bool)) : State :=
  (indexed l).foldl (fun x e => writePage x g (2048 * e.1) e.2.1 e.2.2) s

/-- A page leaves the stacks for a tier below: its content goes with it (01 R18). -/
def stowPage (s : State) (p g tier : Nat) : State :=
  let r := pageContent s (pageOf (getPart s p) g)
  updPart r.1 p (fun x => updPage x g (fun z => { z with tier := tier, stow := r.2 }))

/-- A page comes to a place in the stacks, with its content. -/
def landRows (s : State) (p g : Nat) (at' : Page) : State :=
  let old := pageOf (getPart s p) g
  let r := pageContent s old
  let new := { old with tier := 0, addr := at'.addr, w := at'.w, stow := [] }
  updPart (fillRows r.1 new r.2) p (fun x => { x with pages := sIns x.pages g new })

/-! ### Token slots and the side block (R284, R285, R289) -/

/-- A place of the side block: the importance of a layer, KV head and token slot. -/
def massPlace (m : Model) (layer head slot : Nat) : Nat := ((layer * m.kvheads + head) * 64 + slot) * 4

/-- The token entry of a slot. -/
def entryPlace (m : Model) (slot : Nat) : Nat := m.layers * m.kvheads * 256 + 16 * slot

/-- The header: page score and step count at the last sample. -/
def headerPlace (m : Model) : Nat := m.layers * m.kvheads * 256 + 1024

/-- A page taken from the pool holds unspecified bytes (R291): free values. DESIGN CHOICE (log entry 92): the stewards start an
eviction-class page with its cumulative importance, its score and its sampled step count at 0. -/
def freshPage (s : State) (m : Model) (g : Page) : State :=
  let s1 := (List.range g.rows).foldl (fun x n => writePage (drew x) g (2048 * n) (natLe 2048 (freeNat x)) false) s
  if m.kvclass == 2 then
    writePage (writePage s1 g 0 (List.replicate (m.layers * m.kvheads * 256) 0) false) g (headerPlace m) (List.replicate 8 0) false
  else s1

/-- One token's keys and values written into a slot of a page (R281, R289), and in the eviction class its token entry (R285). -/
def writeToken (s : State) (m : Model) (g : Page) (slot tok pos : Nat) (kv : List Byte) : State :=
  let s1 := (indexed kv).foldl (fun x e => writePage x g (tokenPlace m slot e.1) [e.2] false) s
  if m.kvclass == 2 then writePage s1 g (entryPlace m slot) (natLe 4 tok ++ natLe 4 pos) false else s1

/-- WB over a page's member parts when it fills (R289). -/
def cleanPage (s : State) (g : Page) : State :=
  (s.cache.filter (fun e => (pageSpans g).any (fun r => spansMeet r (128 * e.1, 128)))).foldl (fun x e => cleanLine x e.1) s

/-! ### Page entries (R288) -/

/-- The bank row of every member part's first row. -/
def pageBankRow (s : State) (g : Page) : Nat :=
  match locate g.addr with
  | .stack n off => if g.w == 0 then 0 else (bankOf (getStack s n) off).2
  | _ => 0

/-- The bank-linear index of a page's first member. -/
def pageBank (s : State) (g : Page) : Nat := match locate g.addr with | .stack n off => (bankOf (getStack s n) off).1 | _ => 0

/-- A page entry of 16 bytes. -/
def pageEntry (s : State) (g : Page) (readOnly : Bool) : List Byte :=
  natLe 8 g.addr ++ natLe 4 g.ppos ++ natLe 2 (pageBankRow s g) ++ natLe 1 g.w ++ natLe 1 (g.fill + (if readOnly then 128 else 0))

/-- The bank page list of an engine for a launch over pages: the count, then each page of which a member lies in its bank, with the
page's slot in the launch's output groups. -/
def bankList (s : State) (l : List Page) (q : Nat) : List W32 :=
  let here := (indexed l).filter (fun e => decide (pageBank s e.2 ≤ q) && decide (q < pageBank s e.2 + e.2.w))
  BitVec.ofNat 32 here.length :: here.map (fun e => BitVec.ofNat 32 (pageBankRow s e.2 + 65536 * e.1))

/-- The bank page lists of the engines that hold a member of some page. -/
def bankLists (s : State) (n : Nat) (l : List Page) : List (Nat × List W32) :=
  ((List.range (engineCount (getStack s n))).map (fun q => (q, bankList s l q))).filter (fun e => decide (1 < e.2.length))

end Sys2Proof.Machine
end

