-- ==== Sys2Proof/Machine/Route.lean ====
section
/-! DEFINITION. Span routes, packet queues and page shipments as a sender forms them (15_span_links.md R423–R426, R432, R434,
R436, R437). -/

namespace Sys2Proof.Machine

open Sys2Proof

/-- The route entry of a device number (R432). -/
def routeEntry (s : State) (dev : Nat) : Nat := bytesAt (objBytes s 0x6040 1) (2 * dev) 2

/-- The ports that the route entry of a device and the partition's egress mask allow; a port whose peer differs is excluded. -/
def routePorts (s : State) (p dev : Nat) : List Nat :=
  let e := routeEntry s dev
  let mask := objNat s (0x3000 + p) 0xA
  if bitAt e 15 then
    (bitsOf 9 e).filter (fun n => bitAt mask n && portPresent s n && ((getPort s n).peer == dev || (getPort s n).peer == 0x0FFF))
  else []

/-- Those of them that are UP. -/
def upPorts (s : State) (p dev : Nat) : List Nat := (routePorts s p dev).filter (fun n => (getPort s n).state == 2)

/-- The 16-byte header of a packet (R420). -/
def packetHeader (k : Packet) : List Byte :=
  natLe 2 (k.dstDev % 4096 + k.dstPart % 16 * 4096) ++
  natLe 2 (k.kind % 16 + ceilDiv k.payload.length 4 % 2048 * 16 + (if k.poison then 32768 else 0)) ++
  natLe 2 (k.tag % 4096 + k.cls % 4 * 4096 + (if k.ackreq then 16384 else 0)) ++
  natLe 2 k.seq ++ natLe 4 k.offset ++ natLe 4 k.signal.toNat

/-- Bytes of a packet: its header and payload. -/
def packetBytes (k : Packet) : Nat := 16 + k.payload.length

/-- Bytes queued at a port. -/
def queuedBytes (s : State) (n : Nat) : Nat := ((getPort s n).queue.map (fun x => packetBytes x.pkt)).sum

/-- The port of R424 for a class: the lowest UP port, or for SPREAD one with the fewest bytes queued, ties a free choice. -/
def choosePort (s : State) (cls : Nat) (ups : List Nat) : State × Option Nat :=
  if cls == 1 then
    let least := (ups.map (queuedBytes s)).foldl min ((ups.map (queuedBytes s)).headD 0)
    let ties := ups.filter (fun n => queuedBytes s n == least)
    if ties.length < 2 then (s, ties.head?) else (drew s, ties[freeNat s % ties.length]?)
  else (s, ups.head?)

/-- A packet put in a port's queue, or held while no port of its route is UP or earlier packets for the device are held (R434). -/
def sendPkt (s : State) (x : TxPacket) : State :=
  let hold : State := { s with spanHeld := s.spanHeld ++ [{ x with since := s.now }] }
  if s.spanHeld.any (fun y => y.pkt.dstDev == x.pkt.dstDev) then hold
  else
    let r := choosePort s x.pkt.cls (upPorts s x.part x.pkt.dstDev)
    match r.2 with
    | none => hold
    | some n => updPort r.1 n (fun y => { y with queue := y.queue ++ [x] })

/-- The key of a stream direction: the tag, or the page stream with its peer (R423, R437). -/
def streamKey (tag dev part : Nat) : Nat := if tag == 4095 then 4096 + dev * 16 + part else tag

/-- The number of the next packet that a partition forms on a stream direction; its low 16 bits are the packet's seq. -/
def nextSeq (s : State) (p key : Nat) : Nat := sGet 0 (getPart s p).txSeq key

/-- A packet formed with the next number of its stream direction and sent (R423, R426). -/
def formPkt (s : State) (p : Nat) (k : Packet) (last : Bool) : State :=
  let key := streamKey k.tag k.dstDev k.dstPart
  let n := nextSeq s p key
  let s1 := updPart s p (fun x => { x with txSeq := sSet 0 x.txSeq key (n + 1) })
  let ack := k.ackreq || last || n % 2048 == 2047
  sendPkt s1 { pkt := { k with seq := n % 65536, ackreq := ack }, part := p, since := s.now, waited := false }

/-- Held packets offered again, in order, as when a port becomes UP (R434). -/
def releaseHeld (s : State) : State :=
  s.spanHeld.foldl sendPkt { s with spanHeld := [] }

/-! ### Page shipments (R436, R437) -/

/-- The 32-byte prefix of a PAGE packet (R436): the last packet carries the count and the tail. -/
def pagePrefix (handle model adapter aver ordinal ppos fill count : Nat) (tail : Option (Nat × Nat)) : List Byte :=
  let t := tail.getD (0, 0)
  natLe 4 handle ++ natLe 4 model ++ natLe 2 adapter ++ natLe 2 aver ++ natLe 4 ordinal ++ natLe 4 ppos
    ++ natLe 1 (fill + (if tail.isSome then 128 else 0)) ++ natLe 3 count ++ natLe 4 t.1 ++ natLe 4 t.2

/-- The packets of one page sent, with its bytes in page-row order. -/
def shipPage (s : State) (p : Nat) (x : Session) (m : Model) (adapter aver ordinal g count : Nat) (last : Bool) : State :=
  let pg := pageOf (getPart s p) g
  let n := ceilDiv (pageBytes m) 4064
  let got := pageContent s pg
  let bytes := got.2.flatMap (fun r => r.1)
  let bad (off len : Nat) : Bool :=
    pg.poisoned || (indexed got.2).any (fun r => r.2.2 && overlaps off len (2048 * r.1) 2048)
  let one (y : State) (i : Nat) : State :=
    let final := last && decide (i + 1 = n)
    let len := min 4064 (pageBytes m - 4064 * i)
    let tail := if final then some (x.pendingTok.getD 0, x.cached) else none
    let body := pagePrefix x.phandle m.identity adapter aver ordinal pg.ppos pg.fill (if final then count else 0) tail
    let k : Packet := { dstDev := x.peer, dstPart := x.ppart, kind := 4, poison := bad (4064 * i) len, tag := 4095, cls := 1,
                        ackreq := final, seq := 0, offset := 1016 * i, signal := 0, payload := body ++ (bytes.drop (4064 * i)).take len }
    formPkt y p k final
  let s1 := (List.range n).foldl one got.1
  let ref : ShipRef := { handle := x.handle, page := g, peer := x.peer, ppart := x.ppart,
                         seq := nextSeq s1 p (streamKey 4095 x.peer x.ppart) - 1 }
  updPart s1 p (fun q =>
    { q with ships := q.ships ++ [ref], pages := sMod Page.init q.pages g (fun z => { z with ship := z.ship + 1 }) })

/-- The adapter id and version that a session holds; 0xFFFF and 0 for none. -/
def adapterOf (x : Part) (y : Session) : Nat × Nat :=
  match y.slot with
  | none => (0xFFFF, 0)
  | some i => ((sGet Slot.init x.adapters i).id, (sGet Slot.init x.adapters i).version)

/-- A session's pages queued to its peer, in ascending ordinal (12 R354). -/
def shipSession (s : State) (p : Nat) (x : Session) : State :=
  match (getPart s p).model with
  | none => s
  | some m =>
    let a := adapterOf (getPart s p) x
    let count := x.pages.length * ceilDiv (pageBytes m) 4064
    (indexed x.pages).foldl (fun y e => shipPage y p x m a.1 a.2 e.1 e.2 count (decide (e.1 + 1 = x.pages.length))) s

end Sys2Proof.Machine
end

