-- ==== Sys2Proof/Machine/Pool.lean ====
section
/-! DEFINITION. The page pool, reference counts, spills, evictions and negatives (11_attention_and_kv_cache.md R283–R310). -/

namespace Sys2Proof.Machine

open Sys2Proof

/-! ### References (R290, R291) -/

/-- Whether a session holds a page: in its list, for a committed step, or for the draft model (12 R325, R340). -/
def holds (y : Session) (g : Nat) : Bool := y.pages.contains g || y.ahead.contains g || y.draftPages.contains g

/-- How many sessions hold a page. -/
def listers (x : Part) (g : Nat) : Nat := (x.sessions.filter (fun y => holds y g)).length

/-- Whether a negative node holds a page. -/
def nodeHolds (x : Part) (g : Nat) : Bool := x.negatives.any (fun n => n.page == g)

/-- Whether a pinned node holds a page: it is never spilled (R309). -/
def pinnedPage (x : Part) (g : Nat) : Bool := x.negatives.any (fun n => n.page == g && n.pinned)

/-- The reference count of a page (R290). -/
def pageRefs (x : Part) (g : Nat) : Nat :=
  listers x g + (x.negatives.filter (fun n => n.page == g)).length + (pageOf x g).ship

/-- A page is read-only: more than one session lists it, or a node holds it. -/
def pageReadOnly (x : Part) (g : Nat) : Bool := nodeHolds x g || decide (1 < listers x g)

/-- Every step with a number below `n` is complete. -/
def stepsDone (x : Part) (n : Nat) : Bool := n == 0 || (match x.doneNo with | some d => decide (n ≤ d + 1) | none => false)

/-- Pages at count 0 returned to the pool at a step boundary, once every committed step that names them is complete (R291). -/
def freePages (x : Part) : Part :=
  { x with pages := x.pages.filter (fun e => pageRefs x e.1 != 0 || !stepsDone x e.2.untilStep) }

/-! ### Room in the stacks (R292, R374, 01 R18) -/

/-- Pages of the pool in the stacks. -/
def poolSize (x : Part) : Nat := (x.pool.map (fun e => e.2)).sum

/-- Whether a page is one of the pool: of the resident model's format. -/
def inPool (x : Part) (g : Page) : Bool := !g.draft && x.model.map (fun m => m.identity) == some g.model

/-- Free pages of a stack. -/
def stackFree (x : Part) (k : Nat) : Nat :=
  sGet 0 x.pool k - (x.pages.filter (fun e => e.2.tier == 0 && e.2.stack == k && inPool x e.2)).length

/-- Free pages of the pool. -/
def pagesFree (x : Part) : Nat := ((List.range 12).map (stackFree x)).sum

/-- The stacks of a list with the most free pages, if any has one. -/
def mostFree (x : Part) (l : List Nat) : List Nat :=
  let top := (l.map (stackFree x)).foldl max 0
  if top == 0 then [] else l.filter (fun k => stackFree x k == top)

/-- One of several equal choices, a free one when there is more than one. -/
def pickOne (s : State) (l : List Nat) : State × Option Nat :=
  if l.length < 2 then (s, l.head?) else (drew s, l[freeNat s % l.length]?)

/-- The stack of a new page (R374): that of the session's last page, else the one with the most free pages, same die first. -/
def pickStack (s : State) (p : Nat) (pref : Option Nat) : State × Option Nat :=
  let x := getPart s p
  match pref with
  | none => pickOne s (mostFree x (List.range 12))
  | some k =>
    if 0 < stackFree x k then (s, some k)
    else
      let near := mostFree x ((List.range 12).filter (fun j => j / 6 == k / 6))
      pickOne s (if near.isEmpty then mostFree x (List.range 12) else near)

/-- Whether a page may be spilled: it lies in the stacks, no session of a committed step and not the one named holds it, and no
pinned node does. -/
def mayspill (x : Part) (self : Nat) (g : Nat) : Bool :=
  let running (h : Nat) : Bool :=
    x.committed.any (fun c => c.shares.any (fun y => y.handle == h)) ||
    (match x.flight with | some f => f.step.shares.any (fun y => y.handle == h) | none => false)
  (pageOf x g).tier == 0 && !(x.sessions.any (fun y => holds y g && (y.handle == self || running y.handle))) && !pinnedPage x g

/-- Whether the partition's GDDR share has room for a page of some rows beside those spilled there. -/
def gddrRoom (s : State) (p rows : Nat) : Bool :=
  let x := getPart s p
  decide (2048 * ((x.pages.filter (fun e => e.2.tier == 1)).map (fun e => e.2.rows)).sum + 2048 * rows ≤ (gddrShare s p).2 - (gddrShare s p).1)

/-- The tier that takes one more page (R18): GDDR while the share has room. A full GDDR tier gives a page of its own down to host
memory, or the new page goes there itself, which is a free choice, as is whether host memory has room; none when the tiers are
full. -/
def lowerTier (s : State) (p rows : Nat) : State × Option Nat :=
  if gddrRoom s p rows then (s, some 1)
  else
    let s1 := drew s
    if freeBool s then
      let x := getPart s1 p
      let c := pickOne (drew s1) ((x.pages.filter (fun e => e.2.tier == 1 && e.2.rows == rows && !pinnedPage x e.1)).map (fun e => e.1))
      match freeBool s1, c.2 with
      | true, some g => (updPart c.1 p (fun y => updPage y g (fun z => { z with tier := 2 })), some 1)
      | _, _ => (c.1, some 2)
    else (s1, none)

/-- Two nodes lie in one tree: of one resident model and one adapter version (R305). -/
def sameTree (m n : Negative) : Bool := m.model == n.model && m.adapter == n.adapter && m.aver == n.aver

/-- A node has no child. -/
def isLeaf (x : Part) (n : Negative) : Bool :=
  !(x.negatives.any (fun m => sameTree m n && m.parent == n.hash && m.page != n.page))

/-- A node dropped, its page named by the steps committed so far. -/
def dropNode (x : Part) (g : Nat) : Part :=
  updPage { x with negatives := x.negatives.filter (fun n => n.page != g) } g
    (fun z => { z with untilStep := max z.untilStep x.stepNo })

/-- The node of a list that was printed least recently. -/
def leastPrinted (n : Negative) (r : List Negative) : Negative := r.foldl (fun a m => if decide (m.lastPrint < a.lastPrint) then m else a) n

/-- The unpinned leaf nodes that only the tree holds, by whether their page lies in the stacks (R310). -/
def looseLeaves (x : Part) (inStacks : Bool) : List Negative :=
  x.negatives.filter (fun n => !n.pinned && isLeaf x n && pageRefs x n.page == 1 && ((pageOf x n.page).tier == 0) == inStacks)

/-- The tier that a spilled page goes to. When the tiers are full, a node spilled before is discarded, and the page takes its
place (R310). -/
def spillTier (s : State) (p rows : Nat) : State × Option Nat :=
  let t := lowerTier s p rows
  match t.2, looseLeaves (getPart t.1 p) false with
  | none, n :: r =>
    let old := leastPrinted n r
    (bump (updPart t.1 p (fun y => dropNode y old.page)) (0x5100 + p) 0x11 1, some (pageOf (getPart t.1 p) old.page).tier)
  | o, _ => (t.1, o)

/-- A page spilled, if a tier takes it; a node's page counts as a node spilled. -/
def spillPage (s : State) (p g : Nat) : State × Bool :=
  let t := spillTier s p (pageOf (getPart s p) g).rows
  match t.2 with
  | none => (t.1, false)
  | some tier =>
    let s1 := if nodeHolds (getPart s p) g then bump t.1 (0x5100 + p) 0x10 1 else t.1
    (stowPage s1 p g tier, true)

/-- One page spilled to make room (R18, R292); which one is a free choice. -/
def spillOne (s : State) (p self : Nat) : State × Bool :=
  let x := getPart s p
  let c := pickOne s ((x.pages.map (fun e => e.1)).filter (mayspill x self))
  match c.2 with
  | none => (c.1, false)
  | some g => spillPage c.1 p g

/-- The stack that a page goes to, a page being spilled when the pool is empty. -/
def roomFor (s : State) (p self : Nat) (pref : Option Nat) : State × Option Nat :=
  let r := pickStack s p pref
  match r.2 with
  | some _ => r
  | none =>
    let q := spillOne r.1 p self
    if q.2 then pickStack q.1 p pref else (q.1, none)

/-- A new page of the resident or the draft model put in a stack, where a place is free. -/
def placePage (s : State) (p k ppos : Nat) (draft : Bool) : State × Option Nat :=
  match (if draft then (getPart s p).draft else (getPart s p).model) with
  | none => (s, none)
  | some m =>
    let c := choosePlace s p k m (regionsOwned s p) { Page.init with rows := pageRows m, model := m.identity, draft := draft, ppos := ppos }
    match c.2 with
    | none => (c.1, none)
    | some pg =>
      let g := (getPart s p).nextPage
      (updPart (freshPage c.1 m pg) p (fun x => { x with pages := sIns x.pages g pg, nextPage := g + 1 }), some g)

/-- A new page of the pool at a position. -/
def newPage (s : State) (p self : Nat) (pref : Option Nat) (ppos : Nat) : State × Option Nat :=
  let r := roomFor s p self pref
  match r.2 with
  | none => (r.1, none)
  | some k => placePage r.1 p k ppos false

/-- A new page of the draft model (12 R340): in the stack of the session's last one, else in another, where a place is free. DESIGN
CHOICE (log entry 92): these pages come from the partition's regions beside the pool of the resident model's pages. -/
def newDraftPage (s : State) (p : Nat) (pref : Option Nat) (ppos : Nat) : State × Option Nat :=
  (pref.toList ++ List.range 12).foldl (fun a k => match a.2 with | some _ => a | none => placePage a.1 p k ppos true) (s, none)

/-- The stacks for one more page of an adopted session (R374): with the most free pages, among those with room that hold the fewest
of its pages. -/
def spreadStacks (x : Part) (l : List Nat) : List Nat :=
  let room := (List.range 12).filter (fun k => 0 < stackFree x k)
  let count (k : Nat) : Nat := (l.filter (fun g => g != 0 && (pageOf x g).tier == 0 && (pageOf x g).stack == k)).length
  let least := (room.map count).foldl min l.length
  mostFree x (room.filter (fun k => count k == least))

/-- A new page of an adopted session, a page being spilled when the pool is empty. -/
def adoptPage (s : State) (p self : Nat) (l : List Nat) (ppos : Nat) : State × Option Nat :=
  let r := pickOne s (spreadStacks (getPart s p) l)
  match r.2 with
  | none => newPage r.1 p self none ppos
  | some k => placePage r.1 p k ppos false

/-- A place in the stacks for a page that comes back (R374): its former one if it is free, else as for a new page. -/
def returnPlace (s : State) (p self : Nat) (pg : Page) : State × Option Page :=
  let x := getPart s p
  let m := if pg.draft then x.draft else x.model
  if placeOk s x (regionsOwned s p) pg && (pg.draft || decide (0 < stackFree x pg.stack)) then (s, some pg)
  else
    let r := if pg.draft then (s, some pg.stack) else roomFor s p self (some pg.stack)
    match r.2, m with
    | some k, some y => choosePlace r.1 p k y (regionsOwned s p) pg
    | _, _ => (r.1, none)

/-- A spilled page brought back into the stacks (R18). -/
def returnPage (s : State) (p self g : Nat) : State × Bool :=
  let pg := pageOf (getPart s p) g
  if pg.tier == 0 then (s, true)
  else
    let r := returnPlace s p self pg
    match r.2 with
    | none => (r.1, false)
    | some at' => (landRows r.1 p g at', true)

/-- Every page of a list brought back; whether all could be. -/
def returnPages (s : State) (p self : Nat) (l : List Nat) : State × Bool :=
  l.foldl (fun a g => let r := returnPage a.1 p self g; (r.1, a.2 && r.2)) (s, true)

/-! ### Idle adapters (R18, 12 R359) -/

/-- Whether an adapter slot is idle: READY, and no session holds a reference. -/
def idleSlot (x : Part) (i : Nat) (v : Slot) : Bool := v.state == 2 && !(x.sessions.any (fun y => y.slot == some i))

/-- An idle adapter may be spilled to the GDDR tier or to host memory, or further down from there: which, a free choice. -/
def spillIdle (p : Nat) (s : State) (e : Nat × Slot) : State :=
  if idleSlot (getPart s p) e.1 e.2 && decide (e.2.tier < 2) && freeBool s then
    let tier := if e.2.tier == 0 && decide ((gddrShare s p).1 < (gddrShare s p).2) && freeBool (drew s) then 1 else 2
    updPart (drew (drew s)) p (fun x => { x with adapters := sMod Slot.init x.adapters e.1 (fun v => { v with tier := tier }) })
  else drew s

/-- Spills of idle adapters at a step boundary. -/
def spillAdapters (s : State) (p : Nat) : State := (getPart s p).adapters.foldl (spillIdle p) s

/-- The adapter of a session back in the stacks before a step reads it. -/
def returnAdapter (s : State) (p : Nat) (y : Session) : State :=
  match y.slot with
  | none => s
  | some i => updPart s p (fun x => { x with adapters := sMod Slot.init x.adapters i (fun v => { v with tier := 0 }) })

/-! ### Sessions' page lists -/

/-- A session by handle. -/
def sessionOf (x : Part) (h : Nat) : Option Session := x.sessions.find? (fun y => y.handle == h)

/-- A partition with a session changed. -/
def modSession (x : Part) (h : Nat) (f : Session → Session) : Part :=
  { x with sessions := x.sessions.map (fun y => if y.handle == h then f y else y) }

/-- The state with a session changed. -/
def updSession (s : State) (p h : Nat) (f : Session → Session) : State := updPart s p (fun x => modSession x h f)

/-- The page budget in force (R301): 0 for no limit. -/
def budgetOf (s : State) (p : Nat) (y : Session) : Nat :=
  let b := if y.budget != 0 then y.budget else objNat s (0x5100 + p) 4
  if b == 0 then 0 else max b (4 + objNat s (0x5100 + p) 6 + 1)

/-- The pages that a session may give up: neither its anchor nor its window (R301). -/
def evictable (x : Part) (w : Nat) (y : Session) : List Nat :=
  let whole := y.pages.filter (fun g => decide ((pageOf x g).ppos + 64 ≤ y.cached))
  let win := whole.drop (whole.length - w)
  whole.filter (fun g => !(y.pages.take 4).contains g && !win.contains g)

/-- Whether a page is evicted before another: the lower score, then the lower position (R302). -/
def evictsFirst (x : Part) (a b : Nat) : Bool :=
  let u := pageOf x a
  let v := pageOf x b
  match numCmp (num32 u.score) (num32 v.score) with
  | some .lt => true
  | some .gt => false
  | _ => decide (u.ppos < v.ppos)

/-- A session's reference to its least page dropped (R302): neither anchor nor window. -/
def dropLeast (s : State) (p : Nat) (y : Session) : State :=
  let x := getPart s p
  match evictable x (objNat s (0x5100 + p) 6) y with
  | [] => s
  | g :: r =>
    let low := r.foldl (fun a c => if evictsFirst x c a then c else a) g
    bump (updPart s p (fun z =>
      updPage (modSession z y.handle (fun v => { v with pages := v.pages.filter (fun c => c != low) })) low
        (fun pg => { pg with untilStep := max pg.untilStep (z.stepNo) }))) (0x5100 + p) 0xF 1

/-- An eviction when `more` pages would exceed the budget (R302); eviction class only. -/
def evictOne (s : State) (p more : Nat) (y : Session) : State :=
  let b := budgetOf s p y
  let evicts := match (getPart s p).model with | some m => m.kvclass == 2 | none => false
  if !evicts || b == 0 || decide (y.pages.length + y.ahead.length + more ≤ b) then s else dropLeast s p y

/-- The position that the next page of a session begins at. -/
def nextPos (x : Part) (l : List Nat) : Nat := match l.getLast? with | some g => (pageOf x g).ppos + 64 | none => 0

/-- Pages that a session still needs for positions below `target`. -/
def pagesNeeded (x : Part) (y : Session) (target : Nat) : Nat := ceilDiv (target - nextPos x (y.pages ++ y.ahead)) 64

/-- Evictions that let a session take `more` pages (R292 step 4). -/
def evictFor (p h more : Nat) : Nat → State → State
  | 0, s => s
  | fuel + 1, s =>
    match sessionOf (getPart s p) h with
    | none => s
    | some y =>
      let s1 := evictOne s p more y
      match sessionOf (getPart s1 p) h with
      | none => s1
      | some z => if z.pages.length == y.pages.length then s1 else evictFor p h more fuel s1

/-- What growing a session's pages comes to. -/
inductive Grown where
  | ok | length | capacity
deriving DecidableEq, Repr

/-- Pages taken until a session's list covers positions below `target` (R292, R300, R302). -/
def growPages (p h target : Nat) : Nat → State → State × Grown
  | 0, s => (s, .ok)
  | fuel + 1, s =>
    let x := getPart s p
    match sessionOf x h with
    | none => (s, .ok)
    | some y =>
      let l := y.pages ++ y.ahead
      let latent := match x.model with | some m => m.kvclass == 1 | none => false
      if decide (target ≤ nextPos x l) then (s, .ok)
      else if latent && decide (131072 ≤ l.length) then (s, .length)
      else
        let s1 := evictOne s p 1 y
        let r := newPage s1 p h (l.getLast?.map (fun g => (pageOf x g).stack)) (nextPos x l)
        match r.2 with
        | none => (r.1, .capacity)
        | some g => growPages p h target fuel (updSession r.1 p h (fun v => { v with ahead := v.ahead ++ [g] }))

/-- The draft model's pages taken until they cover positions below `target` (12 R340). -/
def growDraft (p h target : Nat) : Nat → State → State × Bool
  | 0, s => (s, true)
  | fuel + 1, s =>
    let x := getPart s p
    match sessionOf x h with
    | none => (s, true)
    | some y =>
      if decide (target ≤ nextPos x y.draftPages) then (s, true)
      else
        let r := newDraftPage s p (y.draftPages.getLast?.map (fun g => (pageOf x g).stack)) (nextPos x y.draftPages)
        match r.2 with
        | none => (r.1, false)
        | some g => growDraft p h target fuel (updSession r.1 p h (fun v => { v with draftPages := v.draftPages ++ [g] }))

/-- The fill of the pages of a list once `n` positions are held (R284). -/
def fillList (x : Part) (l : List Nat) (n : Nat) : Part :=
  l.foldl (fun a g => updPage a g (fun z => { z with fill := max z.fill (min 64 (n - z.ppos)) })) x

/-- A session's pages once its positions are held: pages taken ahead join its list with their first token (R284). -/
def fillPages (x : Part) (y : Session) : Part :=
  let used := y.ahead.filter (fun g => decide ((pageOf x g).ppos < y.cached))
  let z := modSession x y.handle (fun v => { v with pages := v.pages ++ used, ahead := v.ahead.filter (fun g => !used.contains g) })
  fillList (fillList z (y.pages ++ used) y.cached) y.draftPages y.cached

/-- The page of a list that holds a position, with its slot. -/
def slotOf (x : Part) (l : List Nat) (pos : Nat) : Option (Nat × Nat) :=
  (l.find? (fun g => decide ((pageOf x g).ppos ≤ pos) && decide (pos < (pageOf x g).ppos + 64))).map (fun g => (g, pos - (pageOf x g).ppos))

/-! ### Negatives (R305–R310) -/

/-- The hash of a block after the hash of the block before it (R305). -/
def blockHash (h : Nat) (toks : List Nat) : Nat := bytesAt (sha256 (natLe 8 h ++ toks.flatMap (natLe 4))) 0 8

/-- Whether a node lies in the tree of the resident model and an adapter version (R305). -/
def inTree (x : Part) (a v : Nat) (n : Negative) : Bool :=
  x.model.map (fun m => m.identity) == some n.model && n.adapter == a && n.aver == v

/-- The node of a block of a tree. -/
def nodeAt (x : Part) (a v h : Nat) (toks : List Nat) : Option Negative :=
  x.negatives.find? (fun n => inTree x a v n && n.hash == h && n.tokens == toks)

/-- The nodes that match a prompt, from the root on (R306), and whether the search ended at a hash whose tokens differ. A node with a
poisoned page, which the next boundary removes with its descendants (R293), is not printed. -/
def matchNodes (x : Part) (a v : Nat) : Nat → Nat → List Nat → List Negative × Bool
  | 0, _, _ => ([], false)
  | fuel + 1, h, toks =>
    let blk := toks.take 64
    let h1 := blockHash h blk
    match nodeAt x a v h1 blk with
    | some n =>
      if (pageOf x n.page).poisoned then ([], false)
      else let r := matchNodes x a v fuel h1 (toks.drop 64); (n :: r.1, r.2)
    | none => ([], x.negatives.any (fun n => inTree x a v n && n.hash == h1))

/-- The lookup of a prompt (R306): the nodes printed, with the lookup, blocks printed and mismatches counted. -/
def lookup (s : State) (p a v : Nat) (prompt : List Nat) : State × List Negative :=
  let r := matchNodes (getPart s p) a v ((prompt.length - 1) / 64) 0 prompt
  let s1 := bump (bump s (0x5100 + p) 0xC 1) (0x5100 + p) 0xD r.1.length
  let s2 := if r.2 then bump s1 (0x5100 + p) 0xE 1 else s1
  (updPart s2 p (fun x => { x with negatives := x.negatives.map (fun n =>
    if r.1.any (fun m => m.page == n.page) then { n with lastPrint := s.now } else n) }), r.1)

/-- The chain of block hashes of a token sequence, root first. -/
def hashChain : Nat → Nat → List Nat → List (Nat × List Nat)
  | 0, _, _ => []
  | n + 1, h, toks =>
    let h1 := blockHash h (toks.take 64)
    (h1, toks.take 64) :: hashChain n h1 (toks.drop 64)

/-- One page of a session registered (R308): wholly prompt tokens, its parent a node, and no such node yet. -/
def registerBlock (y : Session) (a v : Nat) (x : Part) (e : Nat × Nat × List Nat) : Part :=
  let b := e.1
  match y.pages.find? (fun g => (pageOf x g).ppos == 64 * b) with
  | none => x
  | some g =>
    let parent := if b == 0 then 0 else ((hashChain b 0 (y.history.map (fun t => t.1))).getLastD (0, [])).1
    let parentOk := b == 0 || x.negatives.any (fun n => inTree x a v n && n.hash == parent)
    let known := (nodeAt x a v e.2.1 e.2.2).isSome
    let prompted := ((y.history.drop (64 * b)).take 64).all (fun t => t.2)
    if parentOk && !known && prompted && !(pageOf x g).poisoned then
      { x with negatives := x.negatives ++
        [{ model := (x.model.map (fun m => m.identity)).getD 0, adapter := a, aver := v, hash := e.2.1, parent := parent,
           tokens := e.2.2, page := g, pinned := false, lastPrint := 0 }] }
    else x

/-- The pages of a session that have filled since it held `old` positions registered as nodes, where the rules ask for it (R308). -/
def registerPages (s : State) (p h old : Nat) : State :=
  let x := getPart s p
  match sessionOf x h with
  | none => s
  | some y =>
    if (y.register || objNat s (0x5100 + p) 9 == 1) && !y.adopted then
      let a := adapterOf x y
      let blocks := indexed (hashChain (min (y.cached / 64) (y.history.length / 64)) 0 (y.history.map (fun t => t.1)))
      updPart s p (fun z => (blocks.filter (fun e => decide (old < 64 * e.1 + 64))).foldl (registerBlock y a.1 a.2) z)
    else s

/-- The negative capacity (R313): a quarter of the pool when the object is 0. -/
def negCapacity (s : State) (p : Nat) : Nat :=
  let c := objNat s (0x5100 + p) 0xA
  if c == 0 then poolSize (getPart s p) / 4 else c

/-- Negative pages in the stacks. -/
def negInStacks (x : Part) : Nat := (x.negatives.filter (fun n => (pageOf x n.page).tier == 0)).length

/-- Nodes spilled while the negatives in the stacks exceed their capacity (R310): unpinned leaves that only the node holds, least
recently printed first, as long as a tier takes them. -/
def spillNodes (p : Nat) : Nat → State → State
  | 0, s => s
  | fuel + 1, s =>
    let x := getPart s p
    if negInStacks x ≤ negCapacity s p then s
    else
      match looseLeaves x true with
      | [] => s
      | n :: r =>
        let old := leastPrinted n r
        let t := spillPage s p old.page
        if t.2 then spillNodes p fuel t.1 else t.1

/-- Whether an adapter version still has a slot. -/
def versionHeld (x : Part) (a v : Nat) : Bool :=
  a == 0xFFFF || x.adapters.any (fun e => e.2.state != 0 && e.2.id == a && e.2.version == v)

/-- Nodes of versions without a slot discarded (R310). -/
def discardStale (s : State) (p : Nat) : State :=
  let x := getPart s p
  let gone := x.negatives.filter (fun n => !versionHeld x n.adapter n.aver)
  bump (updPart s p (fun y => gone.foldl (fun a n => dropNode a n.page) y)) (0x5100 + p) 0x11 gone.length

/-- The nodes that hold a poisoned page, with every node below them (R293, 18 R487). -/
def belowPoison (x : Part) : Nat → List Negative → List Negative
  | 0, l => l
  | fuel + 1, l =>
    let more := x.negatives.filter (fun n =>
      !(l.any (fun m => m.page == n.page)) && l.any (fun m => sameTree m n && m.hash == n.parent))
    if more.isEmpty then l else belowPoison x fuel (l ++ more)

/-- A partition without the nodes of poisoned pages and their descendants. -/
def dropPoisoned (x : Part) : Part :=
  let bad := x.negatives.filter (fun n => (pageOf x n.page).poisoned)
  (belowPoison x x.negatives.length bad).foldl (fun a n => dropNode a n.page) x

end Sys2Proof.Machine
end

