-- ==== Sys2Proof/Machine/Svu.lean ====
section
/-! DEFINITION. The stream vector unit of a steward core (04 R110–R114, R540). -/

namespace Sys2Proof.Machine

open Sys2Proof

def fSvuAddr : Nat := 0x0209
def fSvuCount : Nat := 0x020A
def fSvuFormat : Nat := 0x020B

/-- The fields of the 64 bytes of a stream command (R110); reserved bits are ignored (00 R9). -/
def parseStream (b : List Byte) : SvuCmd :=
  let fl := bytesAt b 2 1
  { sfmt := bytesAt b 1 1 % 16, dfmt := bytesAt b 1 1 / 16, rnd := bitAt fl 0, sat := bitAt fl 1, cond := fld fl 4 2,
    count := bytesAt b 4 4 % 2 ^ 25, src1 := bytesAt b 8 8, src2 := bytesAt b 16 8, dst := bytesAt b 24 8,
    key := BitVec.ofNat 64 (bytesAt b 32 8), base := BitVec.ofNat 64 (bytesAt b 40 8), scalar := BitVec.ofNat 32 (bytesAt b 48 4),
    k := bytesAt b 52 2 }

/-- A fault of a stream command: reported to its steward, with nothing written (R111, 18 R485). -/
def svuFault (s : State) (i code : Nat) (d : Option Nat) : State :=
  let r := detailOf s d
  updSteward (report r.1 i code r.2) i (fun x => { x with lastFault := code })

/-- Whether a stream lies wholly where R111 allows it: the unit's own local memory, one scratchpad window, stack or GDDR memory. -/
def streamPlace (s : State) (i a n : Nat) : Bool :=
  let last := a + n - 1
  let r := locRange s a
  locBacked s (locate a) && locBacked s (locate last) && decide ((locRange s last).1 = r.1) &&
  (match locate a with
   | .lmem k _ => k == i
   | .stack _ _ => true
   | .gddr _ => true
   | .spad _ _ => true
   | _ => false)

/-- The part of a destination stream that is worked out at once, an element or the elements that share bytes or a scale: its bytes
with their offsets in the stream, and its flags. -/
structure Chunk where
  parts : List (Nat × List Byte)
  flags : Flags

/-- What a stream command is made of: the formats and counts of its two source streams, the bytes of its destination, free draws, and
its result. -/
structure Stream where
  code1 : Nat
  n1 : Nat
  code2 : Nat
  n2 : Nat
  lenD : Nat
  draws : Nat
  run : Nat → Src → Src → List Chunk

/-- Bytes of the first source stream. -/
def Stream.len1 (x : Stream) : Nat := fmtBytes x.code1 x.n1

/-- Bytes of the second source stream. -/
def Stream.len2 (x : Stream) : Nat := fmtBytes x.code2 x.n2

/-- A source stream as elements. -/
def streamSrc (f n : Nat) (b : List Byte) : Src := if isMx f then mxSrc f n b else mkSrc f (elems (fmtBits f) n b)

/-- Bytes put into a destination stream. -/
def putParts (d : List (Option Byte)) (l : List (Nat × List Byte)) : List (Option Byte) :=
  l.foldl (fun d p => d.take p.1 ++ p.2.map some ++ d.drop (p.1 + p.2.length)) d

/-- The bytes of a destination stream. -/
def chunkBytes (n : Nat) (l : List Chunk) : List Byte :=
  (l.foldl (fun d c => putParts d c.parts) (List.replicate n none)).map (fun b => b.getD 0)

/-- The flags of a stream. -/
def chunkFlags (l : List Chunk) : Flags := gather (l.map (fun c => c.flags))

/-- The bytes that an element of a stream of `n` is read from, its scale byte among them for MX (05 R130). -/
def elemBytes (f n k : Nat) : List Nat :=
  let w := fmtBits f
  (List.range (ceilDiv ((k + 1) * w) 8 - k * w / 8)).map (fun i => k * w / 8 + i) ++ (if isMx f then [n * w / 8 + k / 32] else [])

/-- A source of which each element is the old one, or freely the new one once every byte of it that the destination overlaps has been
written: `d` holds what has been, `n` is the first draw. -/
def mixSrc (n f cnt src dst : Nat) (b : List Byte) (d : List (Option Byte)) : Src :=
  let at' (i : Nat) : Option (Option Byte) := if dst ≤ src + i then d[src + i - dst]? else none
  let now := streamSrc f cnt ((indexed b).map (fun y => ((at' y.1).getD none).getD y.2))
  let old := streamSrc f cnt b
  let new (k : Nat) : Bool := Config.freeNat (n + k) % 2 == 1 && (elemBytes f cnt k).all (fun i => at' i != some none)
  { old with bits := (indexed (old.bits.zip now.bits)).map (fun y => if new y.1 then y.2.2 else y.2.1),
             vals := (indexed (old.vals.zip now.vals)).map (fun y => if new y.1 then y.2.2 else y.2.1) }

/-- Whether the destination overlaps a source in another way than exactly. -/
def oddly (c : SvuCmd) (x : Stream) (src n : Nat) : Bool := n != 0 && src != c.dst && overlaps src n c.dst x.lenD

/-- A stream command whose destination overlaps a source in another way than exactly (R111): its chunks are worked out in a free
order, each from the old or the new value of each element of such a source. `f` is the first draw of the operation, `n` the first of
the order and of the choices, `old` the result from the old sources. -/
def streamFree (c : SvuCmd) (x : Stream) (f n : Nat) (a b : List Byte) (old : List Chunk) : List Chunk :=
  ((shuffle n (indexed old)).foldl (fun (r : List (Option Byte) × List Chunk) p =>
    let m := n + old.length + p.1 * (x.n1 + x.n2)
    let a1 := if oddly c x c.src1 x.len1 then mixSrc m x.code1 x.n1 c.src1 c.dst a r.1 else streamSrc x.code1 x.n1 a
    let b1 := if oddly c x c.src2 x.len2 then mixSrc (m + x.n1) x.code2 x.n2 c.src2 c.dst b r.1 else streamSrc x.code2 x.n2 b
    let k := (x.run f a1 b1).getD p.1 p.2
    (putParts r.1 k.parts, r.2 ++ [k])) (List.replicate x.lenD none, [])).2

/-- A stream command run (R111). A poisoned source contains the partition and writes nothing (18 R483). -/
def streamRun (s : State) (i : Nat) (c : SvuCmd) (x : Stream) : State :=
  let s1 := { s with free := s.free + x.draws }
  let a := unitRead s1 c.src1 x.len1 .steward
  let b := unitRead a.1 c.src2 x.len2 .steward
  if a.2.2 || b.2.2 then
    match ownerOfSteward s i with
    | some p => contain b.1 p none 1 fPoisonRead
    | none => b.1
  else
    let old := x.run s.free (streamSrc x.code1 x.n1 a.2.1) (streamSrc x.code2 x.n2 b.2.1)
    let odd := oddly c x c.src1 x.len1 || oddly c x c.src2 x.len2
    let out := if odd then streamFree c x s.free b.1.free a.2.1 b.2.1 old else old
    let s2 := if odd then { b.1 with free := b.1.free + old.length * (1 + x.n1 + x.n2) } else b.1
    let w := unitWrite (raiseSvu s2 i (chunkFlags out)) .home c.dst (chunkBytes x.lenD out) false .steward
    updSteward w.1 i (fun y => { y with streams := y.streams + 1 })

/-- A stream that cuts an MX block. -/
def cutsBlock (f n : Nat) : Bool := isMx f && n % 32 != 0

/-- A stream command of one operation (R110, R111): nothing happens unless its op byte is that operation's. It is checked for its
count, then for what the operation asks, then for its places, and it waits while memory it names cannot be reached. `bad` answers the
fault that the operation raises on the command's fields. -/
def streamOp (op : Nat) (i : Nat) (b : List Byte) (s : State) (bad : SvuCmd → Option Nat) (mk : SvuCmd → Stream) : Res :=
  let c := parseStream b
  let x := mk c
  if !isReady s || !stewardPresent s i || bytesAt b 0 1 != op then .next s
  else if c.count > 16777216 then .next (svuFault s i fSvuCount none)
  else if c.count == 0 then .next s
  else
    match bad c with
    | some code => .next (svuFault s i code none)
    | none =>
      if !streamPlace s i c.src1 x.len1 && x.len1 != 0 || !streamPlace s i c.src2 x.len2 && x.len2 != 0 ||
          !streamPlace s i c.dst x.lenD then .next (svuFault s i fSvuAddr none)
      else if accessHeld s c.src1 x.len1 || accessHeld s c.src2 x.len2 || accessHeld s c.dst x.lenD then .next s
      else .next (streamRun s i c x)

/-- SVU_FORMAT for a count that cuts an MX block of the source. -/
def badSrc (c : SvuCmd) : Option Nat := if cutsBlock c.sfmt c.count then some fSvuFormat else none

/-- SVU_FORMAT for a count that cuts an MX block of the source or the destination. -/
def badBoth (c : SvuCmd) : Option Nat := if cutsBlock c.sfmt c.count || cutsBlock c.dfmt c.count then some fSvuFormat else none

/-- SVU_FORMAT for operands of add, multiply, FMA and the curves in another format than FP32, BF16 and FP16 (02 R34, R46, 04 R100). -/
def badArith (c : SvuCmd) : Option Nat := if !isFloat3 c.sfmt || cutsBlock c.dfmt c.count then some fSvuFormat else none

/-- No fault. -/
def badNever (_ : SvuCmd) : Option Nat := none

/-- Values converted to a destination stream of `n` elements (02 R27, R29–R31), each with the flags of its operation: a chunk for each
group of elements, with its scale byte for MX. -/
def streamConvert (f n : Nat) (sat : Bool) (rnd : Nat → Rnd) (val : Nat → Num × Flags) : List Chunk :=
  let g := groupOf f
  (List.range (ceilDiv n g)).map (fun u =>
    let v := (List.range (min g (n - u * g))).map (fun j => (u * g + j, val (u * g + j)))
    let sc := if isMx f then mxScale f (v.map (fun y => y.2.1)) else 0
    let r := v.map (fun y => if isMx f then mxElem f sc (rnd y.1) sat y.2.1 else roundTo (fmtOf f) (rnd y.1) sat y.2.1)
    { parts := (u * groupBytes f, packElems f (r.map (fun y => y.1))) ::
        (if isMx f then [(n * fmtBits f / 8 + u, [BitVec.ofNat 8 sc])] else []),
      flags := flagsOr (gather (r.map (fun y => y.2))) (gather (v.map (fun y => y.2.2))) })

/-- The flags of reading every element of a source. -/
def srcFlags (x : Src) : Flags := gather (x.bits.map (inputFlags x.code))

/-- An elementwise stream of one or two sources: `f` gives each result and whether its operation was invalid. DESIGN CHOICE (log entry
83): a subnormal scalar raises no DENORM, being no element of a stream. -/
def elementwise (c : SvuCmd) (two : Bool) (f : Nat → Num → Num → Num × Flags) : Stream :=
  { code1 := c.sfmt, n1 := c.count, code2 := c.sfmt, n2 := if two then c.count else 0, lenD := fmtBytes c.dfmt c.count,
    draws := c.count,
    run := fun n x y =>
      streamConvert c.dfmt c.count false (fun _ => .rne) (fun i =>
        let r := f (n + i) (x.val i) (y.val i)
        (r.1, gather [r.2, x.flags i, if two then y.flags i else noFlags])) }

/-- The scalar of a command as a value. -/
def scalarOf (c : SvuCmd) : Num := num32 c.scalar

/-- SVU_ADD. -/
def execSvuAdd (i : Nat) (b : List Byte) (s : State) : Res :=
  streamOp 0x01 i b s badArith (fun c => elementwise c true (fun _ a b => (numAdd a b, opFlags [a, b] (numAdd a b))))

/-- SVU_MUL: by the scalar, or by src2 when it is not 0. -/
def execSvuMul (i : Nat) (b : List Byte) (s : State) : Res :=
  streamOp 0x02 i b s badArith (fun c => elementwise c (c.src2 != 0) (fun _ a b =>
    let y := if c.src2 == 0 then scalarOf c else b
    (numMul a y, opFlags [a, y] (numMul a y))))

/-- SVU_FMA: src1 × scalar + src2, one rounding. -/
def execSvuFma (i : Nat) (b : List Byte) (s : State) : Res :=
  streamOp 0x03 i b s badArith (fun c => elementwise c true (fun _ a b =>
    let p := numMul a (scalarOf c)
    (numAdd p b, flagsOr (opFlags [a, scalarOf c] p) (opFlags [p, b] (numAdd p b)))))

/-- SVU_MIN. -/
def execSvuMin (i : Nat) (b : List Byte) (s : State) : Res :=
  streamOp 0x04 i b s badBoth (fun c => elementwise c true (fun _ a b => (numMin a b, noFlags)))

/-- SVU_MAX. -/
def execSvuMax (i : Nat) (b : List Byte) (s : State) : Res :=
  streamOp 0x05 i b s badBoth (fun c => elementwise c true (fun _ a b => (numMax a b, noFlags)))

/-- SVU_CMP: a byte per element. -/
def execSvuCmp (i : Nat) (b : List Byte) (s : State) : Res :=
  streamOp 0x06 i b s badSrc (fun c =>
    { code1 := c.sfmt, n1 := c.count, code2 := c.sfmt, n2 := c.count, lenD := c.count, draws := 0,
      run := fun _ x y => (List.range c.count).map (fun k =>
        { parts := [(k, [if condHolds c.cond (x.val k) (y.val k) then 1#8 else 0#8])], flags := flagsOr (x.flags k) (y.flags k) }) })

/-- The format code of a stream of bytes (02 R20). -/
def byteCode : Nat := 8

/-- SVU_SEL: src1 where the byte of src2 is nonzero, else the scalar. -/
def execSvuSel (i : Nat) (b : List Byte) (s : State) : Res :=
  streamOp 0x07 i b s badBoth (fun c =>
    { code1 := c.sfmt, n1 := c.count, code2 := byteCode, n2 := c.count, lenD := fmtBytes c.dfmt c.count, draws := 0,
      run := fun _ x y => streamConvert c.dfmt c.count false (fun _ => .rne) (fun k =>
        (if y.bits.getD k 0 != 0 then x.val k else scalarOf c, x.flags k)) })

/-- SVU_CVT: SVU_FORMAT for SR from a format other than FP32 (R111). -/
def execSvuCvt (i : Nat) (b : List Byte) (s : State) : Res :=
  streamOp 0x08 i b s (fun c => if c.rnd && c.sfmt != 0 then some fSvuFormat else badBoth c) (fun c =>
    { code1 := c.sfmt, n1 := c.count, code2 := 0, n2 := 0, lenD := fmtBytes c.dfmt c.count, draws := 0,
      run := fun _ x _ =>
        streamConvert c.dfmt c.count c.sat (cvtRnd c.rnd c.key.toNat c.base.toNat) (fun k => (x.val k, x.flags k)) })

/-- A curve over a stream (02 R46, 04 R100). -/
def curveStream (f : Nat → Num → W32 × Flags) (c : SvuCmd) : Stream :=
  elementwise c false (fun n a _ => let r := f n a; (num32 r.1, r.2))

/-- SVU_EXP2. -/
def execSvuExp2 (i : Nat) (b : List Byte) (s : State) : Res := streamOp 0x09 i b s badArith (curveStream exp2Op)

/-- SVU_LOG2. -/
def execSvuLog2 (i : Nat) (b : List Byte) (s : State) : Res := streamOp 0x0A i b s badArith (curveStream log2Op)

/-- SVU_RCP. -/
def execSvuRcp (i : Nat) (b : List Byte) (s : State) : Res := streamOp 0x0B i b s badArith (curveStream rcpOp)

/-- SVU_RSQRT. -/
def execSvuRsqrt (i : Nat) (b : List Byte) (s : State) : Res := streamOp 0x0C i b s badArith (curveStream rsqrtOp)

/-- A stream whose whole result is one entry. -/
def oneEntry (l : List Byte) (f : Flags) : List Chunk := [{ parts := [(0, l)], flags := f }]

/-- A reduction of the whole stream to one 64-bit entry at dst (R104, R112). -/
def reduction (f : SvuCmd → Nat → List Num → W64 × Flags) (c : SvuCmd) : Stream :=
  { code1 := c.sfmt, n1 := c.count, code2 := 0, n2 := 0, lenD := 8, draws := c.count + 1,
    run := fun n x _ => let r := f c n x.vals; oneEntry (natLe 8 r.1.toNat) (flagsOr r.2 (srcFlags x)) }

/-- SVU_SUM. -/
def execSvuSum (i : Nat) (b : List Byte) (s : State) : Res := streamOp 0x10 i b s badSrc (reduction (fun _ => sumRow))

/-- SVU_SUMSQ. -/
def execSvuSumsq (i : Nat) (b : List Byte) (s : State) : Res := streamOp 0x11 i b s badSrc (reduction (fun _ => sumsqRow))

/-- SVU_REDUCE_MAX. -/
def execSvuReduceMax (i : Nat) (b : List Byte) (s : State) : Res :=
  streamOp 0x12 i b s badSrc (reduction (fun _ _ l => extremeRow true l))

/-- SVU_REDUCE_MIN. -/
def execSvuReduceMin (i : Nat) (b : List Byte) (s : State) : Res :=
  streamOp 0x13 i b s badSrc (reduction (fun _ _ l => extremeRow false l))

/-- SVU_ARGMAX. -/
def execSvuArgmax (i : Nat) (b : List Byte) (s : State) : Res :=
  streamOp 0x14 i b s badSrc (reduction (fun _ _ l => argRow true 0 (indexed l)))

/-- SVU_ARGMIN. -/
def execSvuArgmin (i : Nat) (b : List Byte) (s : State) : Res :=
  streamOp 0x15 i b s badSrc (reduction (fun _ _ l => argRow false 0 (indexed l)))

/-- SVU_ROWSTAT: the scalar is the scale. -/
def execSvuRowstat (i : Nat) (b : List Byte) (s : State) : Res :=
  streamOp 0x16 i b s badSrc (reduction (fun c n l => rowstat n (scalarOf c) l))

/-- A uniform draw as FP32 (R114). -/
def uniform32 (key base k : Nat) : W32 := round32 (.fin false (uniformDraw key base k) (-24))

/-- SVU_RAND: FP32 draws. -/
def execSvuRand (i : Nat) (b : List Byte) (s : State) : Res :=
  streamOp 0x20 i b s badNever (fun c =>
    { code1 := 0, n1 := 0, code2 := 0, n2 := 0, lenD := 4 * c.count, draws := 0,
      run := fun _ _ _ => (List.range c.count).map (fun k =>
        { parts := [(4 * k, natLe 4 (uniform32 c.key.toNat c.base.toNat k).toNat)], flags := noFlags }) })

/-! ### Selection (R540) -/

/-- Whether the first of two (index, value) ranks before the second: descending, NaN above every number, −0 equal to +0, ties in
ascending index order. -/
def ranksBefore (x y : Nat × Num) : Bool :=
  match x.2, y.2 with
  | .nan, .nan => decide (x.1 < y.1)
  | .nan, _ => true
  | _, .nan => false
  | a, b =>
    match numCmp a b with
    | some .gt => true
    | some .lt => false
    | _ => decide (x.1 < y.1)

/-- An entry put into a ranked list. -/
def rankIns (x : Nat × Num) : List (Nat × Num) → List (Nat × Num)
  | [] => [x]
  | y :: r => if ranksBefore x y then x :: y :: r else y :: rankIns x r

/-- The entries of a stream in rank order. -/
def ranked (l : List Num) : List (Nat × Num) := (indexed l).foldr rankIns []

/-- The (FP32 value, U32 index) pairs of the first `k` ranked values. -/
def rankedPairs (k : SvuCmd → Nat) (c : SvuCmd) : Stream :=
  { code1 := c.sfmt, n1 := c.count, code2 := 0, n2 := 0, lenD := 8 * min (k c) c.count, draws := 0,
    run := fun _ x _ => (indexed ((ranked x.vals).take (k c))).map (fun y =>
      { parts := [(8 * y.1, natLe 4 (round32 y.2.2).toNat ++ natLe 4 y.2.1)], flags := srcFlags x }) }

/-- SVU_TOPK: SVU_COUNT for k of 0 or above 1,024 (R111). -/
def execSvuTopk (i : Nat) (b : List Byte) (s : State) : Res :=
  streamOp 0x21 i b s (fun c => if c.k == 0 || decide (1024 < c.k) then some fSvuCount else badSrc c) (rankedPairs SvuCmd.k)

/-- SVU_SORT. -/
def execSvuSort (i : Nat) (b : List Byte) (s : State) : Res := streamOp 0x24 i b s badSrc (rankedPairs SvuCmd.count)

/-- Running FP32 sums in list order, with their flags (R540). -/
def runningSums (l : List W32) : List W32 × Flags :=
  match l with
  | [] => ([], noFlags)
  | x :: r =>
    let y := r.foldl (fun (a : W32 × List W32 × Flags) v =>
      let z := numAdd (num32 a.1) (num32 v)
      let q := roundTo fp32 .rne false z
      (BitVec.ofNat 32 q.1, a.2.1 ++ [BitVec.ofNat 32 q.1], gather [a.2.2, q.2, opFlags [num32 a.1, num32 v] z])) (x, [x], noFlags)
    y.2

/-- A selection over (value, index) pairs at src1: `pick` answers the word at dst from the running sums, the rounded threshold
and the pairs (R540). -/
def selection (c : SvuCmd) (factor : Num) (pick : List W32 → Num → List (Nat × Nat) → Nat) : Stream :=
  { code1 := 0, n1 := 2 * c.count, code2 := 0, n2 := 0, lenD := 4, draws := 0,
    run := fun _ x _ =>
      let pairs := (List.range c.count).map (fun k => (x.bits.getD (2 * k) 0, x.bits.getD (2 * k + 1) 0))
      let sums := runningSums (pairs.map (fun y => BitVec.ofNat 32 y.1))
      let total := num32 (sums.1.getLastD 0)
      let q := roundTo fp32 .rne false (numMul factor total)
      oneEntry (natLe 4 (pick sums.1 (decodeNum fp32 q.1) pairs))
        (gather [sums.2, q.2, opFlags [factor, total] (numMul factor total), srcFlags (mkSrc 0 (pairs.map (fun y => y.1)))]) }

/-- SVU_TOPP: the length of the shortest prefix whose running sum reaches the threshold; count when none does. -/
def execSvuTopp (i : Nat) (b : List Byte) (s : State) : Res :=
  streamOp 0x22 i b s badNever (fun c => selection c (scalarOf c) (fun sums th _ =>
    match sums.findIdx? (fun x => condHolds 5 (num32 x) th) with
    | some k => k + 1
    | none => c.count))

/-- SVU_SAMPLE: the index of the first pair whose running sum exceeds the threshold; the last pair's when none does. -/
def execSvuSample (i : Nat) (b : List Byte) (s : State) : Res :=
  streamOp 0x23 i b s badNever (fun c =>
    selection c (num32 (uniform32 c.key.toNat c.base.toNat 0)) (fun sums th pairs =>
      match sums.findIdx? (fun x => condHolds 4 (num32 x) th) with
      | some k => (pairs.getD k (0, 0)).2
      | none => (pairs.getLastD (0, 0)).2))

end Sys2Proof.Machine
end

