-- ==== Sys2Proof/Machine/Train.lean ====
section
/-! DEFINITION. Adapter training: the shape of an adapter, its first values, the dataset, and the update of an optimizer step
(12_serving_sessions.md R356, R361, R362). -/

namespace Sys2Proof.Machine

open Sys2Proof

/-! ### The shape of an adapter (R356) -/

/-- The manifest roles of a module bit, in the order in which its payload goes. -/
def moduleRoles (bit : Nat) : List Nat :=
  match bit with
  | 0 => [0x10] | 1 => [0x11] | 2 => [0x12] | 3 => [0x13] | 4 => [0x20] | 5 => [0x21] | 6 => [0x22] | 7 => [0x14, 0x15] | _ => []

/-- The outputs O and inputs K of a weight of some elements: O and down projections give d_model outputs, the latent up-projection takes
a latent, every other weight takes d_model inputs (DEDUCED, log entry 93). -/
def weightShape (m : Model) (role elements : Nat) : Nat × Nat :=
  if role == 0x13 || role == 0x22 then (m.dmodel, elements / max 1 m.dmodel)
  else if role == 0x15 then (elements / max 1 m.kvdim, m.kvdim)
  else (elements / max 1 m.dmodel, m.dmodel)

/-- The weights that an adapter's modules name, in payload order, as outputs and inputs. -/
def adapterShapes (m : Model) (modules : Nat) : List (Nat × Nat) :=
  (List.range m.layers).flatMap (fun layer => (bitsOf 8 modules).flatMap (fun b => (moduleRoles b).flatMap (fun role =>
    (m.weights.filter (fun w => w.1 == role && w.2.1 == layer)).map (fun w => weightShape m role w.2.2))))

/-- The inputs K of each parameter of A, and none for a parameter of B, in payload order. -/
def paramInputs (rank : Nat) (l : List (Nat × Nat)) : List (Option Nat) :=
  l.flatMap (fun w => List.replicate (rank * w.2) (some w.2) ++ List.replicate (w.1 * rank) none)

/-! ### Arithmetic of the update (R362)

The spec gives the formulas and no rounding: each result is a free FP32 value near the formula's exact one (DEDUCED, log entry 93). -/

/-- A quotient to 80 or more significant bits. -/
def numDiv (a b : Num) : Num :=
  match a, b with
  | .fin s m e, .fin t n g =>
    if n == 0 then (if m == 0 then .nan else .inf (s != t)) else if m == 0 then Num.zero (s != t) else divRef (s != t) m e n g
  | .inf s, .fin t _ _ => .inf (s != t)
  | .fin s _ _, .inf t => Num.zero (s != t)
  | _, _ => .nan

/-- A square root to 80 or more significant bits. -/
def numSqrt (a : Num) : Num :=
  match a with
  | .fin s m e => if m == 0 then a else if s then .nan else numMul a (rsqrtRef m e)
  | .inf s => if s then .nan else a
  | .nan => .nan

/-- One. -/
def numOne : Num := .fin false 1 0

/-- An FP32 value within 2^-20 of the magnitudes that a formula adds. -/
def nearby (n : Nat) (ref mag : Num) : W32 :=
  if numSpecial ref || numIsZero ref then round32 ref else freeNear n ref (numScale (-20) mag)

/-- A power of a decay rate. -/
def powNum (b : Num) : Nat → Num
  | 0 => numOne
  | t + 1 => rnd32 (numMul b (powNum b t))

/-- A moving average: b × old + (1 − b) × new. -/
def movingAvg (n : Nat) (b old new : Num) : W32 :=
  let u := numMul b old
  let w := numMul (numAdd numOne (numNeg b)) new
  nearby n (numAdd u w) (numAdd (numAbs u) (numAbs w))

/-- One parameter after an optimizer step `t`: (x, m, v). -/
def adamStep (n t : Nat) (j : Job) (x m v g : W32) : W32 × W32 × W32 :=
  let m1 := movingAvg n (num32 j.beta1) (num32 m) (num32 g)
  let v1 := movingAvg (n + 1) (num32 j.beta2) (num32 v) (numMul (num32 g) (num32 g))
  let left (b : W32) : Num := numAdd numOne (numNeg (powNum (num32 b) t))
  let root := numAdd (numSqrt (numDiv (num32 v1) (left j.beta2))) (.fin false 1 (-30))
  let a := numMul (num32 j.lr) (numDiv (numDiv (num32 m1) (left j.beta1)) root)
  let b := numMul (num32 j.lr) (numMul (num32 j.decay) (num32 x))
  let ref := numAdd (num32 x) (numNeg (numAdd a b))
  (nearby (n + 2) ref (numAdd (numAbs (num32 x)) (numAdd (numAbs a) (numAbs b))), m1, v1)

/-! ### The master copy (R362, R363) -/

/-- The first values: A uniform in ±1/√K from the generator with the job's key and purpose 1, B zero. DEDUCED (log entry 93): the
counter of an element is its place in the payload, and its value is within 2^-20 of the exact one. -/
def freshParams (n : Nat) (key : W64) (l : List (Option Nat)) : Store W32 :=
  sSetMany 0 [] 0 ((indexed l).map (fun e =>
    match e.2 with
    | none => 0
    | some k =>
      let u := numAdd (.fin false (2 * uniformDraw key.toNat 0 e.1) (-24)) (numNeg numOne)
      let ref := numMul u (rsqrtRef k 0)
      nearby (n + e.1) ref (numAbs ref)))

/-- The values of a version's payload. -/
def basePayload (fmt count : Nat) (b : List Byte) : Store W32 :=
  sSetMany 0 [] 0 ((elems (fmtBits fmt) count b).map (fun x => round32 (decodeNum (fmtOf fmt) x)))

/-- The master copy in BF16, as a slot's payload. -/
def masterPayload (count : Nat) (x : Store W32) : List Byte :=
  (List.range count).flatMap (fun i => natLe 2 (roundTo (fmtOf 1) .rne false (num32 (sGet 0 x i))).1)

/-- Every parameter after an optimizer step, with the gradients that the backward pass gave; one it does not give is free. -/
def optimizerStep (s : State) (m : Model) (j : Job) (grads : List W32) : State × Job :=
  let count := (paramInputs j.rank (adapterShapes m j.modules)).length
  let one (a : Job) (i : Nat) : Job :=
    let g := grads.getD i (freeWord (s.free + 4 * i))
    let r := adamStep (s.free + 4 * i + 1) (j.done + 1) j (sGet 0 a.x i) (sGet 0 a.m i) (sGet 0 a.v i) g
    { a with x := sSet 0 a.x i r.1, m := sSet 0 a.m i r.2.1, v := sSet 0 a.v i r.2.2 }
  ({ s with free := s.free + 4 * count }, (List.range count).foldl one j)

/-! ### The loss (R361, R362) -/

/-- The cross-entropy of a token under the logits that predict it: ln Σ 2^((l − max) × log2 e) + max − the token's logit. DEDUCED (log
entry 93): the logarithm is the natural one, each exponential is that of EXP2, and the value is within 2^-20 of the formula. -/
def crossEntropy (n : Nat) (l : List W32) (tok : Nat) : W32 :=
  let xs := l.map num32
  let m := xs.foldl numMax (.inf true)
  let es := (indexed xs).map (fun e =>
    num32 (exp2Op (n + 1 + e.1) (rnd32 (numMul (.fin false 0x171547652B82FE (-52)) (numAdd e.2 (numNeg m))))).1)
  let lg : Num := match numSum es with
    | .fin _ k e => if k == 0 then .nan else numMul (.fin false 0x162E42FEFA39EF (-53)) (log2Ref k e)
    | x => x
  let gap := numAdd m (numNeg (xs.getD tok .nan))
  nearby n (numAdd lg gap) (numAdd (numAbs lg) (numAbs gap))

/-- The tokens of a training job in a step that count in the loss: how many, and the cross-entropies of those whose logits the
environment gives. -/
def trainLoss (f : Flight) (r : StepResult) (h : Nat) (s : State) : State × Nat × List W32 :=
  let marks := ((f.marks.find? (fun e => e.1 == h)).map (fun e => e.2)).getD []
  let toks := (f.segs.filter (fun g => g.handle == h)).flatMap (fun g => g.toks)
  let ls := ((r.logits.find? (fun e => e.1 == h)).map (fun e => e.2)).getD []
  let hits := (indexed (toks.zip marks)).filter (fun e => e.2.2)
  let known := hits.filterMap (fun e => match ls.getD e.1 [] with | [] => none | l => some (l, e.2.1))
  let r := known.foldl (fun a e => ({ a.1 with free := a.1.free + 1 + e.1.length }, a.2 ++ [crossEntropy a.1.free e.1 e.2])) (s, [])
  (r.1, hits.length, r.2)

/-- The mean cross-entropy over the counted tokens of an optimizer step; where a logit of one is not known it is the environment's, or
free. -/
def jobLoss (n : Nat) (j : Job) (given : Option W32) : W32 :=
  if j.counted != 0 && j.ce.length == j.counted then
    let l := j.ce.map num32
    nearby n (numDiv (numSum l) (.fin false j.counted 0)) (numDiv (numSum (l.map numAbs)) (.fin false j.counted 0))
  else given.getD (freeWord n)

/-! ### The dataset (R361) -/

/-- Training tokens read from the dataset, as stretches of one sequence: the position of the first, and each token with its mark. -/
abbrev Stretches := List (Nat × List (Nat × Bool))

/-- A token put at the end: position 0 opens a stretch. -/
def putTrain (l : Stretches) (pos : Nat) (e : Nat × Bool) : Stretches :=
  if pos == 0 || l.isEmpty then l ++ [(pos, [e])] else l.dropLast ++ (l.getLast?.map (fun z => (z.1, z.2 ++ [e]))).toList

/-- `n` tokens read in dataset order, wrapping at the end (R361); the flag says that a word read as poisoned. -/
def readData (p : Nat) : Nat → Nat → State → Job → Stretches → State × Job × Stretches × Bool
  | 0, _, s, j, l => (s, j, l, false)
  | fuel + 1, n, s, j, l =>
    if n == 0 then (s, j, l, false)
    else
      let j0 := if j.left == 0 && decide (j.seqs ≤ j.seq) then { j with next := j.data, seq := 0 } else j
      let r := unitRead (debitRead s p j0.next 4) j0.next 4
      let w := bytesAt r.2.1 0 4
      if r.2.2 then (r.1, j0, l, true)
      else if j0.left == 0 then readData p fuel n r.1 { j0 with next := j0.next + 4, left := w, pos := 0, seq := j0.seq + 1 } l
      else
        readData p fuel (n - 1) r.1 { j0 with next := j0.next + 4, left := j0.left - 1, pos := j0.pos + 1 }
          (putTrain l j0.pos (w % 2 ^ 31, bitAt w 31))

end Sys2Proof.Machine
end

