-- ==== Sys2Proof/Machine/Attend.lean ====
section
/-! DEFINITION. Batch rows, visibility, the split of a head, partial attention and its merge, importance, and what a training pass saves
(11_attention_and_kv_cache.md R277–R281, R294–R303, R311, R312, 01 R14, R17). -/

namespace Sys2Proof.Machine

open Sys2Proof

/-! ### Batch rows (R277, R278) -/

/-- A token tag as its 8 bytes (R277). -/
def tagBytes (t : Tag) : List Byte := natLe 4 t.pos ++ natLe 2 t.seg ++ natLe 2 t.par

/-- The level of every node of a tree, root first. -/
def levels (l : List DraftNode) : List Nat :=
  l.foldl (fun a d => a ++ [if a.isEmpty then 0 else a.getD d.parent 0 + 1]) []

/-- The ancestor word of every node of a tree (R280). -/
def ancestorWords (l : List DraftNode) : List W64 :=
  (l.foldl (fun a d => a ++ [2 ^ a.length + a.getD d.parent 0]) []).map (BitVec.ofNat 64)

/-- What a segment presents: its session, the batch row it goes to, the position of its first token, its token ids, and its nodes when
it is a tree. -/
structure Presented where
  handle : Nat
  row : Nat
  pos : Nat
  toks : List Nat
  nodes : List DraftNode

/-- The tags of segment number `n` (R278). -/
def segTags (n : Nat) (e : Presented) : List Tag :=
  if e.nodes.isEmpty then (List.range e.toks.length).map (fun i => { pos := e.pos + i, seg := n, par := 0xFFFF })
  else (e.nodes.zip (levels e.nodes)).map (fun d => { pos := e.pos + d.2, seg := n, par := d.1.parent })

/-- Batch row `k` after the rows before it, ended by padding tokens of a free number, position and parent, on three draws from `n`. -/
def buildRow (n : Nat) (l : List Presented) (a : List (List Tag) × List Seg) (k : Nat) : List (List Tag) × List Seg :=
  let base := a.1.flatten.length
  let put (b : List Tag × List Seg) (e : Presented) : List Tag × List Seg :=
    (b.1 ++ segTags b.2.length e, b.2 ++ [{ handle := e.handle, tree := !e.nodes.isEmpty, first := base + b.1.length, toks := e.toks }])
  let r := (l.filter (fun e => e.row == k)).foldl put ([], a.2)
  let pad : Tag := { pos := Config.freeNat (n + 3 * k + 1) % 0xFFFFFFFF, seg := 0xFFFF, par := Config.freeNat (n + 3 * k + 2) % 65536 }
  (a.1 ++ [r.1 ++ List.replicate (Config.freeNat (n + 3 * k) % (8193 - r.1.length)) pad], r.2)

/-- How many rows segments take. -/
def rowCount (l : List Presented) : Nat := (l.map (fun e => e.row + 1)).foldl max 0

/-- The batch rows of a step and their segments. -/
def buildRows (n : Nat) (l : List Presented) : List (List Tag) × List Seg := (List.range (rowCount l)).foldl (buildRow n l) ([], [])

/-! ### Visibility (R279) -/

/-- The tag of a token of the step, counted row after row. -/
def tagOf (f : Flight) (i : Nat) : Option Tag := f.rows.flatten[i]?

/-- The segment of a token; a padding token has none. -/
def segOf (f : Flight) (i : Nat) : Option Seg :=
  match tagOf f i with | some t => if t.seg == 0xFFFF then none else f.segs[t.seg]? | none => none

/-- The pages that the step lists for a session. -/
def listedPages (f : Flight) (h : Nat) : List Nat := ((f.lists.find? (fun e => e.1 == h)).map (fun e => e.2)).getD []

/-- Whether node `j` of a session's tree is node `i` or an ancestor of it. -/
def isAncestor (f : Flight) (h i j : Nat) : Bool :=
  match f.trees.find? (fun t => t.handle == h) with | some t => bitAt (t.words.getD i 0).toNat j | none => false

/-- Whether token `i` of the step may attend a key (R279). -/
def visible (x : Part) (f : Flight) (i : Nat) : KeyRef → Bool
  | .cached pos =>
    match segOf f i with
    | some sg => (listedPages f sg.handle).any (fun g =>
        decide ((pageOf x g).ppos ≤ pos) && decide (pos < (pageOf x g).ppos + (pageOf x g).fill))
    | none => false
  | .inRow j =>
    match segOf f i, tagOf f i, tagOf f j with
    | some sg, some a, some b =>
      a.seg == b.seg && (if sg.tree then isAncestor f sg.handle (i - sg.first) (j - sg.first) else decide (b.pos ≤ a.pos))
    | _, _, _ => false

/-! ### The path of a step (01 R14, R17, 12 R330) -/

/-- Whether a step takes the in-stack path: a decode of one to four tokens does where the part has engines; prefill alone and training
never do. For a few sessions whose trees hold more tokens, and for a small step that mixes prefill and decode, the stewards choose
freely. -/
def choosePath (s : State) (l : List Share) : State × Bool :=
  let tokens := (l.map (fun z => z.tokens)).sum
  let decodes := l.all (fun z => !z.isPrefill && !z.train)
  if !hasEngines s || l.any (fun z => z.train) || l.all (fun z => z.isPrefill) then (s, false)
  else if decodes && decide (tokens ≤ 4) then (s, true)
  else if decide (tokens ≤ 4) || (decodes && decide (l.length ≤ 4)) then (drew s, freeBool s)
  else (s, false)

/-- Who does each part of a layer (01 R14). -/
def planOf (inStack : Bool) : List (StepWork × WorkSite) :=
  [(.products, if inStack then .engines else .cores), (.attention, if inStack then .split else .cores), (.elementwise, .cores),
   (.sampling, .stewards)]

/-! ### Splitting a head (R294, R297, R298) -/

/-- Query heads of each KV head, from the elements of the Q projection (DEDUCED, log entry 94). -/
def headsPerKv (m : Model) : Nat :=
  match m.weights.find? (fun w => w.1 == 0x10) with
  | some w => max 1 (w.2.2 / max 1 (m.dmodel * m.kvdim * m.kvheads))
  | none => 1

/-- How many of `full` pages lie in stack parts: the share of 0x5100+p:13, or r_b ÷ (r_b + r_p) with g the multiply-accumulates per key
byte, to the nearest whole page. -/
def stackShare (s : State) (p : Nat) (m : Model) (tokens full : Nat) : Nat :=
  let o := objNat s (0x5100 + p) 0x13
  let g := headsPerKv m * max 1 tokens
  let r := if o ≤ 100 then (o, 100) else (960, 960 + min (384 * g) (960 * g - 960))
  (2 * full * r.1 + r.2) / (2 * r.2)

/-- Whether a page joins a launch: no engine may hold members of more than `cap` of its pages. -/
def launchTakes (s : State) (cap : Nat) (l : List Page) (g : Page) : Bool :=
  (List.range g.w).all (fun j =>
    let q := pageBank s g + j
    decide ((l.filter (fun e => decide (pageBank s e ≤ q) && decide (q < pageBank s e + e.w))).length < cap))

/-- Pages dealt to launches: each to the first that takes it (R297). -/
def intoLaunches (s : State) (cap : Nat) (l : List Page) : List (List Page) :=
  l.foldl (fun a g =>
    match a.findIdx? (fun e => launchTakes s cap e g) with
    | some i => a.set i ((a.getD i []) ++ [g])
    | none => a ++ [[g]]) []

/-- The stack part of a stack over some pages: an engine's X of 2,048 entries holds 2,048 / Q token slots in phase 2 (R297). -/
def stackPart (s : State) (x : Part) (m : Model) (l : List Nat) (n : Nat) : Option KvPart :=
  let here := l.filter (fun g => (pageOf x g).stack == n)
  if here.isEmpty then none
  else
    let cap := max 1 (32 / headsPerKv m)
    some { site := .stack n, pages := here, expanded := false,
           launches := (intoLaunches s cap (here.map (pageOf x))).map (fun e => bankLists s n e) }

/-- Pages dealt freely to tensor cores, on as many draws from `n` as there are pages. -/
def corePart (n : Nat) (cores : List Nat) (expanded : Bool) (l : List Nat) (t : Nat) : Option KvPart :=
  let mine := ((indexed l).filter (fun e => cores[Config.freeNat (n + e.1) % cores.length]? == some t)).map (fun e => e.2)
  if mine.isEmpty then none else some { site := .core t, pages := mine, expanded := expanded, launches := [] }

/-- How the keys of a KV head of a session are divided (R294): which full pages of the share form stack parts, and which cores take the
others, is a free choice. -/
def splitHead (p : Nat) (inStack : Bool) (m : Model) (y : Session) (z : Share) (s : State) (head : Nat) : State × Split :=
  let x := getPart s p
  let cores := bitsOf 64 (objNat s (0x3000 + p) 1)
  let full := y.pages.filter (fun g => (pageOf x g).fill == 64)
  let near := if inStack then full.filter (fun g => (pageOf x g).w != 0) else []
  let picked := (shuffle s.free near).take (stackShare s p m z.tokens full.length)
  let stacked := full.filter (fun g => picked.contains g)
  let rest := full.filter (fun g => !picked.contains g)
  let wide := m.kvclass == 1 && (z.isPrefill || z.train)
  let n := s.free + full.length
  let own : KvPart := { site := .inRow (cores.getD (Config.freeNat (n + full.length) % max 1 cores.length) 0),
                        pages := y.pages.filter (fun g => decide ((pageOf x g).fill < 64)), expanded := wide, launches := [] }
  ({ s with free := n + full.length + 1 },
   { handle := y.handle, head := head,
     parts := (List.range 12).filterMap (stackPart s x m stacked) ++ cores.filterMap (corePart n cores wide rest) ++ [own] })

/-- The division of every KV head of a share's session. -/
def splitShare (p : Nat) (inStack : Bool) (m : Model) (a : State × List Split) (z : Share) : State × List Split :=
  match sessionOf (getPart a.1 p) z.handle with
  | none => a
  | some y =>
    (List.range m.kvheads).foldl (fun b h => let r := splitHead p inStack m y z b.1 h; (r.1, b.2 ++ [r.2])) a

/-! ### Keys and values -/

/-- A key of a head with its value: what it is, the page and slot of a cached one, and their elements. -/
structure KeyData where
  ref : KeyRef
  page : Nat
  slot : Nat
  k : List Num
  v : List Num

/-- E4M3 elements. -/
def e4m3 (l : List Byte) : List Num := l.map (fun b => decodeNum (fmtOf 3) b.toNat)

/-- The elements of a token slot in rows read. -/
def slotColumn (l : List (List Byte × Bool)) (slot : Nat) : List Num :=
  e4m3 (l.flatMap (fun r => (List.range 32).map (fun i => r.1.getD (64 * i + slot) 0)))

/-- What holds the values of the latent class: the latent dimensions before the last 64, which are the rotary ones (R299). -/
def latentValue (m : Model) (k : List Num) : List Num := k.take (m.kvdim - 64)

/-- Rows of a page read where it lies. -/
def heldRows (s : State) (bank : Bool) (g : Page) (l : List Nat) : State × List (List Byte × Bool) :=
  if g.tier == 0 then readRows s bank g l else (s, l.map (fun n => g.stow.getD n ([], true)))

/-- The keys and values of a page's tokens in a layer and KV head, and whether a row read as poison: a stack part reads in place, every
other part through the ports (R294). -/
def readPageKeys (s : State) (bank : Bool) (m : Model) (layer head : Nat) (g : Nat) (pg : Page) : State × List KeyData × Bool :=
  let rows (value : Bool) : List Nat := (List.range (m.kvdim / 32)).map (fun i => headRow m layer head value + i)
  let a := heldRows s bank pg (rows false)
  let b := if m.kvclass == 1 then (a.1, []) else heldRows a.1 bank pg (rows true)
  let key (t : Nat) : KeyData :=
    let k := slotColumn a.2 t
    { ref := .cached (pg.ppos + t), page := g, slot := t, k := k, v := if m.kvclass == 1 then latentValue m k else slotColumn b.2 t }
  (b.1, (List.range pg.fill).map key, (a.2 ++ b.2).any (fun r => r.2))

/-- The key and value of an in-row token in a layer and KV head, from the bytes it got. -/
def rowKey (m : Model) (layer head : Nat) (e : KvBytes) : KeyData :=
  let lay := 32 * layerRows m * layer
  let k := e4m3 ((e.bytes.drop (lay + head * m.kvdim)).take m.kvdim)
  { ref := .inRow e.token, page := 0, slot := 0, k := k,
    v := if m.kvclass == 1 then latentValue m k
         else e4m3 ((e.bytes.drop (lay + (m.kvheads + head) * m.kvdim)).take m.kvdim) }

/-- A part's keys read: whether it is a stack part, its keys, and the pages of which a row read as poison. -/
def readPart (p : Nat) (m : Model) (layer head : Nat) (inRow : List KvBytes) (a : State × List (Bool × List KeyData) × List Nat)
    (part : KvPart) : State × List (Bool × List KeyData) × List Nat :=
  let bank := match part.site with | .stack _ => true | _ => false
  let own := match part.site with | .inRow _ => inRow.map (rowKey m layer head) | _ => []
  let r := part.pages.foldl (fun (b : State × List KeyData × List Nat) g =>
    let q := readPageKeys b.1 bank m layer head g (pageOf (getPart b.1 p) g)
    (q.1, b.2.1 ++ q.2.1, if q.2.2 then b.2.2 ++ [g] else b.2.2)) (a.1, [], [])
  (r.1, a.2.1 ++ [(bank, r.2.1 ++ own)], a.2.2 ++ r.2.2)

/-! ### Partials and their merge (R295, R296, 02 R44) -/

/-- A sum within `k` units of 2^-24 of its terms' magnitudes, as 02 R44 bounds a product of a matrix, with the absolute term of subnormal
sums. -/
def boundedSum (n k : Nat) (l : List Num) : W32 :=
  let ref := numSum l
  let mag := magSum l
  if numSpecial ref then round32 ref
  else freeNear n ref (numAdd (tol24 k mag) (if numIsZero mag then Num.zero false else .fin false k (-150)))

/-- The scale of scores: log2 e / √d (R295). -/
def scoreScale (m : Model) : Num :=
  if m.kvclass == 1 then num32 (Config.latentScale m.identity)
  else rnd32 (numMul (.fin false 0x171547652B82FE (-52)) (rsqrtRef m.kvdim 0))

/-- A score. -/
def scoreOf (n : Nat) (q k : List Num) : Num := num32 (boundedSum n (q.length / 32 + clog2 q.length + 1) (List.zipWith numMul q k))

/-- A partial (m, s, o) of one query head, with the probability over s of each of its keys. -/
structure PartOut where
  m : W32
  s : W32
  o : List W32
  probs : List (KeyData × Num)

/-- How many draws a partial takes. -/
def partDraws (keys dims : Nat) : Nat := 4 * keys + 2 * dims + 2

/-- The probability of a score: in a stack part p̂ in E4M3 with 8 added to its exponent, elsewhere in FP32 (R296, R298). -/
def probOf (n : Nat) (stack : Bool) (scale m x : Num) : Num :=
  let e := numAdd (rnd32 (numMul scale x)) (numNeg m)
  if stack then decodeNum (fmtOf 3) (roundTo (fmtOf 3) .rne true (num32 (exp2Op n (rnd32 (numAdd e (.fin false 8 0)))).1)).1
  else num32 (exp2Op n (rnd32 e)).1

/-- The partial of a query head over a part's visible keys (R295, R296). A part with none gives (−∞, +0) and no output. -/
def partOf (n : Nat) (stack : Bool) (scale : Num) (dims : Nat) (q : List Num) (l : List KeyData) : PartOut :=
  let xs := (indexed l).map (fun e => scoreOf (n + e.1) q e.2.k)
  let st := (rowstat (n + l.length) scale xs).1
  let m := num32 (primary st)
  if m == .inf true then { m := primary st, s := 0, o := [], probs := [] }
  else
    let a := n + 2 * l.length + 1
    let ps := (indexed xs).map (fun e => probOf (a + e.1) stack scale m e.2)
    let total := if stack then (sumValue (a + l.length) ps).1 else secondary st
    let s := if stack then round32 (numScale (-8) (num32 total)) else total
    let b := a + 2 * l.length
    let out (j : Nat) : W32 :=
      let u := num32 (boundedSum (b + j) (l.length / 32 + clog2 l.length + 2) (List.zipWith (fun p e => numMul p (e.v.getD j (Num.zero false))) ps l))
      nearby (b + dims + j) (numDiv u (num32 total)) (numAbs (numDiv u (num32 total)))
    { m := primary st, s := s, o := (List.range dims).map out, probs := (l.zip ps).map (fun e => (e.1, numDiv e.2 (num32 total))) }

/-- The merge of partials: the pair, the weight of each, and o = Σ w_i o_i over those with a weight (R295). -/
def mergeParts (n dims : Nat) (l : List PartOut) : W32 × W32 × List W32 × List W32 :=
  let es := l.map (fun e => entry e.m e.s)
  let mp := (mergePairs n es).1
  let ws := (indexed (mergeTerms es).2).map (fun e => mergeWeight (n + l.length + 1 + e.1) e.2 (secondary mp))
  let live := (ws.zip l).filter (fun e => !e.2.o.isEmpty)
  let out (j : Nat) : W32 :=
    boundedSum (n + 2 * l.length + 1 + j) (l.length + 1) (live.map (fun e => numMul (num32 e.1) (num32 (e.2.o.getD j 0))))
  (primary mp, secondary mp, ws, (List.range dims).map out)

/-! ### The attention of a step -/

/-- Attention mass of a cached key (R303): the session, the page, layer, KV head and slot, and its value. -/
structure Mass where
  handle : Nat
  page : Nat
  layer : Nat
  head : Nat
  slot : Nat
  value : Num

/-- What the attention of a step gives: outputs, attention masses, and what training passes save, by session. -/
structure Attended where
  s : State
  heads : List HeadOut
  masses : List Mass
  saved : List (Nat × SavedRow)

/-- The backward pass's probabilities of a query's keys: scores recomputed, p = 2^(scale × x − m) ÷ S from the saved pair (R311, R312). -/
def recomputed (n : Nat) (scale : Num) (m s : W32) (q : List Num) (l : List KeyData) : List W32 :=
  (indexed l).map (fun e =>
    let x := scoreOf (n + 3 * e.1) q e.2.k
    let p := num32 (exp2Op (n + 3 * e.1 + 1) (rnd32 (numAdd (rnd32 (numMul scale x)) (numNeg (num32 m))))).1
    nearby (n + 3 * e.1 + 2) (numDiv p (num32 s)) (numAbs (numDiv p (num32 s))))

/-- One query head of one token over the parts' keys. -/
def attendQuery (p : Nat) (f : Flight) (m : Model) (handle head : Nat) (train : Bool) (parts : List (Bool × List KeyData)) (a : Attended)
    (q : HeadQuery) : Attended :=
  let x := getPart a.s p
  let qs := e4m3 q.q
  let dims := if m.kvclass == 1 then m.kvdim - 64 else m.kvdim
  let seen := parts.map (fun e => (e.1, e.2.filter (fun k => visible x f q.token k.ref)))
  let outs := seen.foldl (fun (b : Nat × List PartOut) e =>
    (b.1 + partDraws e.2.length dims, b.2 ++ [partOf b.1 e.1 (scoreScale m) dims qs e.2])) (a.s.free, [])
  let r := mergeParts outs.1 dims outs.2
  let after := outs.1 + 2 * outs.2.length + dims + 1
  let keys := seen.flatMap (fun e => e.2)
  let cached (k : KeyData) : Bool := match k.ref with | .cached _ => true | .inRow _ => false
  let masses : List Mass := (r.2.2.1.zip outs.2).flatMap (fun e => (e.2.probs.filter (fun z => cached z.1)).map (fun z =>
    { handle := handle, page := z.1.page, layer := q.layer, head := head, slot := z.1.slot, value := numMul (num32 e.1) z.2 }))
  let row : SavedRow :=
    { token := q.token, layer := q.layer, head := q.head, m := r.1, s := r.2.1, probs := recomputed after (scoreScale m) r.1 r.2.1 qs keys }
  { s := { a.s with free := after + 3 * keys.length },
    heads := a.heads ++ [{ token := q.token, layer := q.layer, head := q.head, m := r.1, s := r.2.1, o := r.2.2.2 }],
    masses := a.masses ++ masses, saved := if train then a.saved ++ [(handle, row)] else a.saved }

/-- The queries of a session in a layer and KV head, of those that the environment gives. -/
def queriesOf (f : Flight) (m : Model) (r : StepResult) (handle layer head : Nat) : List HeadQuery :=
  r.queries.filter (fun q => q.layer == layer && q.head / headsPerKv m == head && q.q.length == m.kvdim &&
    (segOf f q.token).map (fun sg => sg.handle) == some handle)

/-- One KV head of a session in a layer: its keys are read once, by part, and every query head attends. A page that reads as poison
contains the sessions that list it (18 R486). -/
def attendSplit (p : Nat) (f : Flight) (m : Model) (r : StepResult) (kv : List KvBytes) (sp : Split) (a : Attended) (layer : Nat) : Attended :=
  let qs := queriesOf f m r sp.handle layer sp.head
  if qs.isEmpty then a
  else
    let own := kv.filter (fun e => !e.draft && (segOf f e.token).map (fun sg => sg.handle) == some sp.handle)
    let rd := sp.parts.foldl (readPart p m layer sp.head own) (a.s, [], [])
    let s1 := rd.2.2.foldl (fun x g => contain (poisonPage x p g) p (some sp.handle) 3 0) rd.1
    let train := f.step.shares.any (fun z => z.handle == sp.handle && z.train)
    qs.foldl (attendQuery p f m sp.handle sp.head train rd.2.1) { a with s := s1 }

/-- The attention of the step in flight over the queries that the environment gives. -/
def attendStep (p : Nat) (f : Flight) (m : Model) (r : StepResult) (kv : List KvBytes) (s : State) : Attended :=
  f.splits.foldl (fun a sp => ((r.queries.map (fun q => q.layer)).eraseDups).foldl (attendSplit p f m r kv sp) a)
    { s := s, heads := [], masses := [], saved := [] }

/-! ### Importance (R303) -/

/-- A mass added into the importance array by reduce-on-write: one rounding (05 R129). -/
def addMass (s : State) (m : Model) (g : Page) (layer head slot : Nat) (w : W32) : State :=
  let off := massPlace m layer head slot
  let r := unitRead s (rowAddr g (off / 2048) + off % 2048) 4
  writePage r.1 g off (natLe 4 (add32 (BitVec.ofNat 32 (leNat r.2.1)) w).toNat) r.2.2

/-- A session's mass on a token slot of a layer: the sum over the query heads of the KV head and over the session's tokens. Where the
environment did not give every query head, the mass is free. -/
def slotMass (n : Nat) (l : List Mass) (whole : Bool) (layer head slot : Nat) : W32 :=
  if whole then
    let ws := (l.filter (fun e => e.layer == layer && e.head == head && e.slot == slot)).map (fun e => e.value)
    boundedSum n (ws.length + 4) ws
  else freeWord n

/-- Whether the environment gave every query head of a layer and KV head for a session's tokens. -/
def wholeHeads (f : Flight) (m : Model) (heads : List HeadOut) (h layer head : Nat) : Bool :=
  f.segs.all (fun sg => sg.handle != h ||
    (List.range sg.toks.length).all (fun i => (List.range (headsPerKv m)).all (fun k =>
      heads.any (fun o => o.token == sg.first + i && o.layer == layer && o.head == head * headsPerKv m + k))))

/-- A page of a session's sampled step: its masses added to the page's importance array, the score D × score + total, in one rounding or
two, and the header with the session's step count (R285, R303, R304). -/
def samplePage (p : Nat) (f : Flight) (m : Model) (at' : Attended) (h count : Nat) (s : State) (g : Nat) : State :=
  let pg := pageOf (getPart s p) g
  let mine := at'.masses.filter (fun e => e.handle == h && e.page == g)
  let places := (List.range m.layers).flatMap (fun a => (List.range m.kvheads).flatMap (fun b => (List.range pg.fill).map (fun c => (a, b, c))))
  let ws := (indexed places).map (fun e =>
    (e.2, slotMass (s.free + e.1) mine (wholeHeads f m at'.heads h e.2.1 e.2.2.1) e.2.1 e.2.2.1 e.2.2.2))
  let s1 := ws.foldl (fun x e => addMass x m pg e.1.1 e.1.2.1 e.1.2.2 e.2) { s with free := s.free + places.length }
  let mass := boundedSum s1.free (clog2 (max 1 places.length)) (ws.map (fun e => num32 e.2))
  let prod := numMul (num32 f.step.decay) (num32 pg.score)
  let s2 := drew s1
  let new := if freeBool s2 then round32 (numAdd prod (num32 mass)) else add32 (round32 prod) mass
  let s3 := writePage (drew s2) pg (headerPlace m) (natLe 4 new.toNat ++ natLe 4 count) false
  updPart s3 p (fun x => updPage x g (fun z => { z with score := new }))

end Sys2Proof.Machine
end

