-- ==== Sys2Proof/Machine/Clock.lean ====
section
/-! DEFINITION. The cadence lock and its sources (10_cadence_and_power.md R252–R257). -/

namespace Sys2Proof.Machine

open Sys2Proof

/-- The state with the cadence lock changed; a change of lock state raises its interrupt (14 R406). -/
def setCad (s : State) (c : Cadence) : State :=
  let s1 := { s with cad := c }
  if c.lock == s.cad.lock then s1 else interrupt s1 0x6800 0x09

/-- The source object 0x2400:02. -/
def sourceSelected (s : State) : Nat := objNat s 0x2400 2

/-- PTP messages are received: the device serves and is not in stop 5 (R267). -/
def ptpHeard (s : State) : Bool := isReady s && decide (s.power.stop < 5)

/-- The counter that PTP time gives: floor((T − offset) / 1,000) (R253). -/
def ptpCount (s : State) (timeNs : Nat) : Int := ((timeNs : Int) - signedOf 64 (objNat s 0x2400 7)) / 1000

/-- The phase corrected at lock (R256): a forward step at the next tick when the counter is behind by more than the threshold,
otherwise a slew. -/
def correctPhase (s : State) (c : Cadence) (timeNs : Nat) : Cadence :=
  let behind := ptpCount s timeNs - (s.now : Int)
  if (objNat s 0x2400 8 : Int) < behind then { c with stepBy := behind.toNat, slew := 0 } else { c with stepBy := 0, slew := behind }

/-- The cadence in a lock state with no source in use, every count of one begun anew. -/
def dropSource (c : Cadence) (lock : Nat) : Cadence :=
  { c with lock := lock, source := 0, good := 0, bad := 0, groups := 0, edges := 0, groupPs := 0, ptpGood := 0, slew := 0, stepBy := 0 }

/-- The lock lost: HOLDOVER, counted (R255). -/
def loseLock (s : State) : State :=
  bump (setCad s (dropSource s.cad 3)) 0x2400 0xC 1

/-- Counts an offset toward the lock: consecutive ones within ±1 µs. -/
def goodOffset (n : Nat) (offsetNs : Int) : Nat := if offsetNs.natAbs ≤ 1000 then n + 1 else 0

/-- Whether a data set of a clock ranks before another: the lower value of the first that differs. PRESUMED (log entry 88): the
comparison of IEEE 1588-2019, which R254 names and does not state. -/
def ranksLower : List Nat → List Nat → Bool
  | _, [] => false
  | [], _ :: _ => true
  | x :: a, y :: b => decide (x < y) || (x == y && ranksLower a b)

/-- The best clock once one is announced: it, or the one before (R254). -/
def bestMaster (old : Option (Nat × List Nat)) (clock : Nat) (rank : List Nat) : Option (Nat × List Nat) :=
  match old with
  | none => some (clock, rank)
  | some m => if m.1 == clock || ranksLower rank m.2 then some (clock, rank) else some m

/-- A time from the best clock: the source qualifies, is acquired, locks, takes over from pulses, or is lost (R255). -/
def ptpSync (timeNs : Nat) (offsetNs : Int) (s : State) : State :=
  let c := { s.cad with phaseErr := offsetNs }
  if c.lock == 0 || c.lock == 3 then
    setCad s { c with lock := 1, source := 1, cameFrom := c.lock, good := goodOffset 0 offsetNs, bad := 0 }
  else if c.lock == 1 && c.source == 1 then
    let n := goodOffset c.good offsetNs
    if 16 ≤ n then setCad s (correctPhase s { c with lock := 2, good := 0, bad := 0 } timeNs) else setCad s { c with good := n }
  else if c.lock == 2 && c.source == 1 then
    let n := if 10000 < offsetNs.natAbs then c.bad + 1 else 0
    if 4 ≤ n then loseLock { s with cad := c } else setCad s { c with bad := n }
  else if c.lock == 2 && sourceSelected s == 0 then
    let n := goodOffset c.ptpGood offsetNs
    if 16 ≤ n then setCad s (correctPhase s { c with source := 1, ptpGood := 0, good := 0, bad := 0 } timeNs)
    else setCad s { c with ptpGood := n }
  else s

/-- PTP_MESSAGE (R254, R255): an announcement enters the choice of the best clock, and a time counts when it comes from that clock. -/
def execPtpMessage (clock : Nat) (m : PtpMsg) (s : State) : Res :=
  if !ptpHeard s || !(sourceSelected s == 0 || sourceSelected s == 1) then .next s
  else
    match m with
    | .announce rank => .next { s with cad := { s.cad with master := bestMaster s.cad.master clock rank } }
    | .sync timeNs offsetNs => if s.cad.master.map (fun x => x.1) == some clock then .next (ptpSync timeNs offsetNs s) else .next s

/-- N and D: how many pulses make a group, and how many ticks it makes (R253). -/
def pulsesN (s : State) : Nat := objNat s 0x2400 5
def ticksD (s : State) : Nat := objNat s 0x2400 6

/-- Whether a group of N pulses of a length in ps implies a tick within ±500 ppm of 1 µs (R254). -/
def rateOk (s : State) (groupPs : Nat) : Bool :=
  decide (((groupPs : Int) - 1000000 * ticksD s).natAbs ≤ 500 * ticksD s)

/-- Whether the input accepts a pulse a time after the last: 1 kHz to 10 MHz (R254). -/
def pulseOk (periodPs : Nat) : Bool := decide (100000 ≤ periodPs) && decide (periodPs ≤ 1000000000)

/-- A group of pulses counted: consecutive groups stay within 1 ppm of one another. -/
def countGroup (c : Cadence) (groupPs : Nat) : Cadence :=
  let lo := min c.lo groupPs
  let hi := max c.hi groupPs
  if c.groups != 0 && decide ((hi - lo) * 1000000 ≤ lo) then { c with groups := c.groups + 1, lo := lo, hi := hi }
  else { c with groups := 1, lo := groupPs, hi := groupPs }

/-- The counter follows pulses. -/
def onPulses (s : State) : Bool := s.cad.lock == 2 && s.cad.source == 2

/-- The counter at which the group of pulses under way ends. -/
def groupEnd (s : State) : Nat := s.cad.groupFrom + ticksD s

/-- A group of N pulses, complete, before it moves the counter (R254, R255): the source qualifies, is acquired, locks or is lost. -/
def groupDone (s : State) (groupPs : Nat) : State :=
  let c := { s.cad with edges := 0, groupPs := 0, rate := ((groupPs : Int) - 1000000 * ticksD s) * 1000 / ticksD s }
  if (c.lock == 0 || c.lock == 3) && rateOk s groupPs then
    setCad s (countGroup { c with lock := 1, source := 2, cameFrom := c.lock, groups := 0 } groupPs)
  else if c.lock == 1 && c.source == 2 then
    if !rateOk s groupPs then setCad s { c with lock := c.cameFrom, source := 0, groups := 0 }
    else
      let d := countGroup c groupPs
      setCad s (if 64 ≤ d.groups then { d with lock := 2, groups := 0, ptpGood := 0, groupFrom := s.now } else d)
  else if c.lock == 2 && c.source == 2 && !rateOk s groupPs then loseLock { s with cad := c }
  else setCad s c

/-- SOURCE_LOST (R255): an acquisition ends where it came from. -/
def execSourceLost (s : State) : Res :=
  if isReady s && s.cad.lock == 1 then
    .next (setCad s { s.cad with lock := s.cad.cameFrom, source := 0, good := 0, groups := 0,
                                 master := if s.cad.source == 1 then none else s.cad.master })
  else .next s

/-- Whether a reason ends the lock on the source in use (R255); an offset must be the fourth in a row. -/
def lossHolds (s : State) : LossReason → Bool
  | .announceTimeout => s.cad.source == 1
  | .offset ns => s.cad.source == 1 && decide (10000 < ns.natAbs) && decide (3 ≤ s.cad.bad)
  | .missingEdges n => s.cad.source == 2 && decide (4 ≤ n)
  | .rate groupPs => s.cad.source == 2 && !rateOk s groupPs

/-- LOCK_LOST (R255). An announce timeout forgets the best clock. -/
def execLockLost (why : LossReason) (s : State) : Res :=
  if isReady s && s.cad.lock == 2 && lossHolds s why then
    .next (loseLock (if why = .announceTimeout then { s with cad := { s.cad with master := none } } else s))
  else .next s

/-- A commit of 0x2400:02, :05, :06 or :07: FREE, the counter keeping its value (R255). -/
def restartCadence (s : State) : State := setCad s (dropSource s.cad 0)

/-- The HOLDOVER flag of the cadence hot register: set in FREE and HOLDOVER. -/
def holdoverFlag (s : State) : Bool := s.cad.lock == 0 || s.cad.lock == 3

end Sys2Proof.Machine
end

