-- ==== Sys2Proof/Machine/Serve.lean ====
section
/-! DEFINITION. Admission of host commands: sessions, adapters, negatives and training jobs (12_serving_sessions.md R314–R323,
R349, R350, R352–R360, 11 R306, R307, R309). -/

namespace Sys2Proof.Machine

open Sys2Proof

/-! ### Answers (R320, R321, R347) -/

def stAccepted : Nat := 0x00
def stDone : Nat := 0x01
def stCancelled : Nat := 0x02
def stAlreadyDone : Nat := 0x03
def stShipped : Nat := 0x04
def stLength : Nat := 0x05
def stCapacity : Nat := 0x06
def stBadCommand : Nat := 0x10
def stNoSession : Nat := 0x11
def stNoAdapter : Nat := 0x12
def stNoModel : Nat := 0x13
def stBadRequest : Nat := 0x14
def stNoUnit : Nat := 0x15
def stMismatch : Nat := 0x16
def stReceiveTimeout : Nat := 0x17
def stConflict : Nat := 0x21
def stContained : Nat := 0x30

/-- An entry put among those owed, after every one whose admission or event is not later (R344). -/
def oweIns (e : StatusEntry) (l : List StatusEntry) : List StatusEntry :=
  l.filter (fun x => decide (x.ord ≤ e.ord)) ++ e :: l.filter (fun x => decide (e.ord < x.ord))

/-- A status entry that falls due (R320); STATE_CONFLICT answers are counted (R364). -/
def owe (s : State) (p : Nat) (e : StatusEntry) : State :=
  let s1 := if e.status == stConflict then bump s (0x5200 + p) 0xE 1 else s
  updPart s1 p (fun x => { x with owed := oweIns e x.owed })

/-- An end entry not caused by a command: an event of its own. -/
def oweEnd (s : State) (p h status detail : Nat) : State :=
  let n := (getPart s p).logNo + 1
  owe (updPart s p (fun x => { x with logNo := n })) p
    { ord := n, status := status, opcode := 0, handle := h, tag := 0, detail := detail }

/-- A session ends: its end entry falls due and it is DRAINING. -/
def endSession (s : State) (p h status detail : Nat) : State :=
  oweEnd (updSession s p h (fun y => { y with state := .draining, ended := true, final := some status })) p h status detail

/-! ### Command packets (R316, R392) -/

/-- The body bytes that an opcode uses, as ranges; none for an unknown opcode. -/
def usedBytes (op : Nat) : Option (List (Nat × Nat)) :=
  match op with
  | 0x01 => some [(16, 20), (24, 32)]
  | 0x02 => some [(16, 44)]
  | 0x03 => some [(16, 20)]
  | 0x04 => some [(16, 20)]
  | 0x05 => some [(16, 20)]
  | 0x06 => some [(16, 20)]
  | 0x07 => some [(16, 20), (24, 32)]
  | 0x08 => some [(16, 20), (24, 32)]
  | 0x10 => some [(16, 32)]
  | 0x11 => some [(16, 20)]
  | 0x12 => some [(16, 21), (24, 32)]
  | 0x18 => some [(16, 20), (24, 32)]
  | 0x20 => some []
  | _ => none

/-- Some reserved field of a command packet is not 0 (R321). -/
def reservedSet (b : List Byte) : Bool :=
  let op := bytesAt b 0 1
  match usedBytes op with
  | none => true
  | some l =>
    bytesAt b 2 2 != 0 || bytesAt b 1 1 / 16 != 0 || (op == 0x12 && decide (1 < bytesAt b 20 1)) ||
    (List.range 48).any (fun k => !(l.any (fun r => decide (r.1 ≤ k + 16) && decide (k + 16 < r.2))) && bytesAt b (k + 16) 1 != 0)

/-- The handle field of the answer (R347): FENCE has none. -/
def answerHandle (b : List Byte) : Nat := if bytesAt b 0 1 == 0x20 then 0 else bytesAt b 16 4

/-- The answer of a command. -/
def answer (s : State) (p : Nat) (b : List Byte) (status detail : Nat) : State :=
  owe s p { ord := (getPart s p).logNo, status := status, opcode := bytesAt b 0 1, handle := answerHandle b, tag := bytesAt b 8 4,
            detail := detail }

/-- Commands admitted, for every steward core of the partition (17 R471). -/
def countAdmitted (s : State) (p : Nat) : State :=
  ((List.range 16).filter (fun i => ownerOfSteward s i == some p)).foldl
    (fun x i => updSteward x i (fun w => { w with admitted := w.admitted + 1 })) s

/-- Whether a partition admits commands (R379, R397, 18 R489): it has a ring, is not held, and it and the device are awake. -/
def admits (s : State) (p : Nat) : Bool :=
  isReady s && decide (p < 16) && hasRing s p && !(getPart s p).held && (getPart s p).stop == 0 && s.power.stop == 0

/-- The head command taken from the intake queue and entered in the partition log. -/
def takeHead (s : State) (p : Nat) (b : List Byte) : State :=
  let took (x : Part) : Part := { x with queue := x.queue.drop 1, lastIntake := bytesAt b 4 4, logNo := x.logNo + 1 }
  countAdmitted (updPart s p took) p

/-- The head of a partition's intake queue admitted, if it is the command that `sel` names (R319): CONTAINED while the partition
is contained, BAD_COMMAND for a broken packet, STATE_CONFLICT once stop 6 is asked for, else the command's own effect. Reads of
host memory wait for the link. -/
def takeCommand (s : State) (p : Nat) (sel : List Byte → Bool) (waits : List Byte → Bool) (body : State → List Byte → State) : Res :=
  match admits s p, (getPart s p).queue with
  | true, c :: _ =>
    let b := c.bytes
    if !sel b || (waits b && !c.bad) then .next s
    else
      let s1 := takeHead s p b
      match (getPart s p).contained with
      | some d => .next (if bytesAt b 0 1 == 0x20 then answer s1 p b stAccepted 0 else answer s1 p b stContained d)
      | none =>
        if c.bad || reservedSet b then .next (answer s1 p b stBadCommand 0)
        else if s.power.draining then .next (answer s1 p b stConflict 0)
        else .next (body s1 b)
  | _, _ => .next s

/-- The packet has an opcode. -/
def hasOp (op : Nat) (b : List Byte) : Bool := bytesAt b 0 1 == op

/-- A command that reads nothing in memory. -/
def readsNothing (_ : List Byte) : Bool := false

/-- An access fault counted on the steward that serves a partition (17 R471). -/
def accessFault (s : State) (p : Nat) : State := updSteward s (stewardOf s p) (fun x => { x with accessFaults := (x.accessFaults + 1) % 2 ^ 32 })

/-- A read that a command names, by the stewards (R3, R485): NO_UNIT in an absent unit's window, BAD_REQUEST where no memory is, which is an
access fault, or the data is poisoned. -/
def cmdRead (s : State) (p a n : Nat) : State × Except Nat (List Byte) :=
  if n == 0 then (s, .error stBadRequest)
  else if locAbsent s (locate a) || locAbsent s (locate (a + n - 1)) then (s, .error stNoUnit)
  else if !locBacked s (locate a) || !locBacked s (locate (a + n - 1)) || (locRange s a).1 != (locRange s (a + n - 1)).1
      || (match locate a with | .dreg _ => true | .bead _ _ => true | _ => false) || decide (2 ^ 52 ≤ a) then (accessFault s p, .error stBadRequest)
  else
    let r := unitRead (debitRead s p a n) a n
    (r.1, if r.2.2 then .error stBadRequest else .ok r.2.1)

/-! ### OPEN, ADOPT, APPEND (R314, R317, R322) -/

/-- A handle that may name a session. -/
def handleOk (h : Nat) : Bool := h != 0 && h != 0xFFFFFFFF

/-- Words of four bytes. -/
def words32 (n : Nat) (b : List Byte) : List Nat := (List.range n).map (fun k => bytesAt b (4 * k) 4)

/-- A token buffer read: BAD_REQUEST for a length outside its range or a token id at or beyond the vocabulary. -/
def readTokens (s : State) (p a n vocab : Nat) : State × Except Nat (List Nat) :=
  if n == 0 || decide (8388608 < n) then (s, .error stBadRequest)
  else
    let r := cmdRead s p a (4 * n)
    match r.2 with
    | .error e => (r.1, .error e)
    | .ok b =>
      let l := words32 n b
      (r.1, if l.all (fun t => decide (t < vocab)) then .ok l else .error stBadRequest)

/-- The READY slot of an adapter id (R359). -/
def readySlot (x : Part) (a : Nat) : Option Nat :=
  (x.adapters.find? (fun e => e.2.state == 2 && e.2.id == a)).map (fun e => e.1)

/-- A session with the fields of a request block (R317). -/
def sessionFrom (b : List Byte) (h order now : Nat) (slot : Option Nat) : Session :=
  let flags := bytesAt b 30 1
  { handle := h, state := .admitted, order := order, turn := 0, prompt := [], base := 0, taken := 0, done := 0,
    maxnew := bytesAt b 12 4, generated := 0, due := bytesAt b 16 8, budget := bytesAt b 24 4, slot := slot,
    register := bitAt flags 0, keep := bitAt flags 1, proofs := bitAt flags 2, ship := bitAt flags 3, nodes := bytesAt b 31 1,
    temp := BitVec.ofNat 32 (bytesAt b 32 4), topp := BitVec.ofNat 32 (bytesAt b 36 4), topk := bytesAt b 40 2,
    key := BitVec.ofNat 64 (bytesAt b 44 8), stops := (words32 4 (b.drop 52)).filter (fun t => t != 0xFFFFFFFF),
    peer := bytesAt b 68 2 % 4096, ppart := bytesAt b 70 1 % 16, phandle := bytesAt b 72 4, pages := [], ahead := [],
    draftPages := [], cached := 0, history := [],
    pendingTok := none, steps := 0, delivered := 0, cancel := none, cancels := [], held := [], final := none, lastStep := none,
    received := 0, total := none, admittedAt := now, adopted := false, ended := false, parking := false, job := none }

/-- A field of a request block is outside its range (R317). -/
def requestBad (b : List Byte) : Bool :=
  let t := num32 (BitVec.ofNat 32 (bytesAt b 32 4))
  let q := num32 (BitVec.ofNat 32 (bytesAt b 36 4))
  numSpecial t || (numSign t && !numIsZero t) || q == .nan || decide (1024 < bytesAt b 40 2) || bytesAt b 31 1 == 1 ||
  decide (64 < bytesAt b 31 1)

/-- Whether 0x5000:09 shows a Span link to a peer (15 R437). -/
def acceptsPages (s : State) (n : Nat) : Bool := portPresent s n && (getPort s n).state == 2 && (getPort s n).caps

/-- What ship and proof flags refuse at admission (R321, R352). -/
def flagStatus (s : State) (p : Nat) (b : List Byte) (adopt : Bool) : Option Nat :=
  let flags := bytesAt b 30 1
  let peer := bytesAt b 68 2 % 4096
  if bitAt flags 2 && (getPart s p).draft.isNone then some stNoModel
  else if bitAt flags 3 && !adopt && (routePorts s p peer).isEmpty then some stNoUnit
  else if bitAt flags 3 && !adopt && !((routePorts s p peer).any (acceptsPages s)) then some stConflict
  else none

/-- The checks of OPEN and ADOPT up to the adapter, in the model's order: the block and the slot, or the status that refuses. -/
def openChecks (s : State) (p : Nat) (b : List Byte) (adopt : Bool) : State × Except Nat (List Byte × Option Nat) :=
  let x := getPart s p
  let h := bytesAt b 16 4
  let a := bytesAt b 24 8
  if !handleOk h then (s, .error stBadRequest)
  else if (sessionOf x h).isSome || decide (4096 ≤ x.sessions.length) then (s, .error stConflict)
  else if x.model.isNone then (s, .error stNoModel)
  else if a % 64 != 0 then (s, .error stBadRequest)
  else
    let r := cmdRead s p a 128
    match r.2 with
    | .error e => (r.1, .error e)
    | .ok q =>
      if requestBad q then (r.1, .error stBadRequest)
      else
        match flagStatus r.1 p q adopt with
        | some e => (r.1, .error e)
        | none =>
          if bytesAt q 28 2 == 0xFFFF then (r.1, .ok (q, none))
          else
            match readySlot x (bytesAt q 28 2) with
            | none => (r.1, .error stNoAdapter)
            | some i => (r.1, .ok (q, some i))

/-! ### Adopted sessions' pages (R353, R355, 15 R436, R437) -/

/-- The version that a page packet names, for a session: its own, or, before any packet has landed, another READY or RETIRING
version of the same adapter; none is a MISMATCH (R353). -/
def packetSlot (x : Part) (y : Session) (a v : Nat) : Option (Option Nat) :=
  if a == 0xFFFF then (if y.slot.isNone then some none else none)
  else
    match x.adapters.find? (fun e => (e.2.state == 2 || e.2.state == 3) && e.2.id == a && e.2.version == v) with
    | none => none
    | some e =>
      if y.slot == some e.1 || (y.received == 0 && y.slot.isSome && (adapterOf x y).1 == a) then some (some e.1) else none

/-- A session's page number at an ordinal; 0 where none is placed yet. -/
def putOrdinal (l : List Nat) (n g : Nat) : List Nat := (l ++ List.replicate (n + 1 - l.length) 0).set n g

/-- The session moves on when every packet of the total has landed (R437). -/
def landed (y : Session) : Session :=
  if y.total == some y.received then
    { y with state := .decode, history := List.replicate y.cached (0, false) ++ [(y.pendingTok.getD 0, false)] }
  else y

/-- A page packet that lands in a RECEIVING session (R322, R353, R437), its page bytes at their page-row offset: a packet that finds no
page, or a page beyond the limit of R300, is not counted, and the session then meets its limit. -/
def landPage (s : State) (p h : Nat) (k : Packet) : State :=
  let x := getPart s p
  match sessionOf x h with
  | none => s
  | some y =>
    let b := k.payload
    if y.state != .receiving then s
    else if k.poison then contain s p (some h) 1 0
    else
      match (if x.model.map (fun m => m.identity) == some (bytesAt b 4 4) then packetSlot x y (bytesAt b 8 2) (bytesAt b 10 2) else none) with
      | none => endSession s p h stMismatch 0
      | some slot =>
        let n := bytesAt b 12 4
        let latent := match x.model with | some m => m.kvclass == 1 | none => false
        let have' := y.pages.getD n 0
        let r := if have' != 0 then (s, some have')
          else if latent && decide (131072 ≤ n) then (s, none) else adoptPage s p h y.pages (bytesAt b 16 4)
        match r.2 with
        | none => r.1
        | some g =>
          let fill := bytesAt b 20 1
          let last := bitAt fill 7
          let s0 := writePage r.1 (pageOf (getPart r.1 p) g) (4 * k.offset) (b.drop 32) false
          let s1 := updPart s0 p (fun z => updPage z g (fun v => { v with fill := fill % 128, ppos := bytesAt b 16 4 }))
          let next (z : Session) : Session :=
            let z1 := { z with pages := putOrdinal z.pages n g, slot := slot, received := z.received + 1 }
            landed (if last then { z1 with total := some (bytesAt b 21 3), pendingTok := some (bytesAt b 24 4), cached := bytesAt b 28 4 }
                    else z1)
          updSession s1 p h next

/-- Whether packets held were held too long (R355). -/
def heldOver (s : State) (e : HeldPages) : Bool := decide (e.since + objNat s 0x5000 8 ≤ s.now)

/-- The packets held for a handle, taken by an ADOPT of it within their time (R355). -/
def takeHeld (s : State) (p h : Nat) : State :=
  let mine (e : HeldPages) : Bool := e.handle == h && !heldOver s e
  let l := (getPart s p).heldPages.filter mine
  l.foldl (fun x e => landPage x p h e.pkt)
    (updPart s p (fun x => { x with heldPages := x.heldPages.filter (fun e => !mine e) }))

/-- A page packet that arrives: it lands in its session, or is held while no ADOPT has taken its handle (R355). -/
def arrivePage (s : State) (p : Nat) (k : Packet) : State :=
  let h := bytesAt k.payload 0 4
  if (sessionOf (getPart s p) h).isSome then landPage s p h k
  else
    updPart s p (fun x => { x with heldPages := x.heldPages ++ [{ handle := h, since := s.now, pkt := k }] })

/-- PAGE_PACKET_HOLD_EXPIRY (R355): packets held too long are freed and counted. -/
def execPagePacketHoldExpiry (p handle : Nat) (s : State) : Res :=
  let old (e : HeldPages) : Bool := e.handle == handle && heldOver s e
  if isReady s && decide (p < 16) then
    let gone := (getPart s p).heldPages.filter old
    .next (bump (updPart s p (fun x => { x with heldPages := x.heldPages.filter (fun e => !old e) })) (0x5200 + p) 0x10 gone.length)
  else .next s

/-- A session added to a partition. -/
def addSession (s : State) (p : Nat) (y : Session) : State :=
  updPart s p (fun x => { x with sessions := x.sessions ++ [y], orderNo := x.orderNo + 1 })

/-- OPEN: the prompt read, negatives looked up and printed, the session ADMITTED (R306, R307, R322). -/
def openBody (p : Nat) (s : State) (b : List Byte) : State :=
  let r := openChecks s p b false
  match r.2 with
  | .error e => answer r.1 p b e 0
  | .ok (q, slot) =>
    let vocab := match (getPart s p).model with | some m => m.vocab | none => 0
    let t := readTokens r.1 p (bytesAt q 0 8) (bytesAt q 8 4) vocab
    match t.2 with
    | .error e => answer t.1 p b e 0
    | .ok toks =>
      let y := sessionFrom q (bytesAt b 16 4) (getPart s p).orderNo s.now slot
      let a := adapterOf (getPart s p) y
      let l := lookup t.1 p a.1 a.2 toks
      let n := 64 * l.2.length
      let y1 := { y with prompt := toks, taken := n, done := n, cached := n, pages := l.2.map (fun z => z.page),
                         history := toks.map (fun z => (z, true)) }
      answer (addSession l.1 p y1) p b stAccepted 0

/-- ADOPT: the session RECEIVING; page packets already held for its handle are taken (R355). -/
def adoptBody (p : Nat) (s : State) (b : List Byte) : State :=
  let r := openChecks s p b true
  match r.2 with
  | .error e => answer r.1 p b e 0
  | .ok (q, slot) =>
    let y := sessionFrom q (bytesAt b 16 4) (getPart s p).orderNo s.now slot
    let y1 := { y with state := .receiving, adopted := true, ship := false }
    takeHeld (answer (addSession r.1 p y1) p b stAccepted 0) p y.handle

/-- A command about an existing session: NO_SESSION for a handle not in use (R323). -/
def onSession (p : Nat) (s : State) (b : List Byte) (f : State → Session → State) : State :=
  match sessionOf (getPart s p) (bytesAt b 16 4) with
  | none => answer s p b stNoSession 0
  | some y => f s y

/-- APPEND: the new tokens become the prompt of the turn of an IDLE session, behind the last delivered token, whose keys and values are
not in the pages yet, so that the turn's first segment starts where the pages end (11 R278; DEDUCED, log entry 95). -/
def appendBody (p : Nat) (s : State) (b : List Byte) : State :=
  onSession p s b (fun s y =>
    if y.state != .idle then answer s p b stConflict 0
    else
      let vocab := match (getPart s p).model with | some m => m.vocab | none => 0
      let r := readTokens s p (bytesAt b 24 8) (bytesAt b 20 4) vocab
      match r.2 with
      | .error e => answer r.1 p b e 0
      | .ok toks =>
        let next (z : Session) : Session :=
          let lead := z.pendingTok.toList
          { z with state := .prefill, turn := z.turn + 1, prompt := lead ++ toks, base := z.history.length - lead.length, taken := 0, done := 0,
                   generated := 0, due := bytesAt b 32 8, maxnew := bytesAt b 40 4, final := none, ended := false,
                   history := z.history ++ toks.map (fun t => (t, true)) }
        answer (updSession r.1 p y.handle next) p b stAccepted 0)

/-- A request block, token buffer or image in host memory waits for the link (14 R386). -/
def waitsOn (s : State) (off n : Nat) (b : List Byte) : Bool := accessHeld s (bytesAt b off 8) n

/-- Whether the prompt that a request block names waits for the link. -/
def promptWaits (s : State) (b : List Byte) : Bool :=
  let q := peek s .home (bytesAt b 24 8) 128
  waitsOn s 24 128 b || accessHeld s (bytesAt q 0 8) (4 * bytesAt q 8 4)

/-- OPEN. -/
def execCmdOpen (p : Nat) (s : State) : Res := takeCommand s p (hasOp 0x01) (promptWaits s) (openBody p)

/-- APPEND. -/
def execAppend (p : Nat) (s : State) : Res :=
  takeCommand s p (hasOp 0x02) (fun b => waitsOn s 24 (4 * bytesAt b 20 4) b) (appendBody p)

/-- ADOPT. -/
def execAdopt (p : Nat) (s : State) : Res := takeCommand s p (hasOp 0x07) (waitsOn s 24 128) (adoptBody p)

/-! ### CANCEL, CLOSE, PARK, RESUME, SETDUE (R322, R323, R349–R351) -/

/-- The number of the last step committed and not complete, if any: the deciding step (R350). -/
def decidingStep (x : Part) : Option Nat :=
  match x.committed.getLast?, x.flight with
  | some c, _ => some c.number
  | none, some f => some f.step.number
  | none, none => none

/-- Whether a session's state takes a CANCEL. -/
def cancellable (y : Session) : Bool := y.state == .admitted || y.state == .prefill || y.state == .decode || y.state == .training

/-- An adapter slot emptied (R357). -/
def emptySlot (s : State) (p i : Nat) : State := updPart s p (fun x => { x with adapters := sDel x.adapters i })

/-- The slot of a training job emptied, when the session is one. -/
def dropJob (s : State) (p : Nat) (y : Session) : State := match y.job with | some j => emptySlot s p j.slot | none => s

/-- CANCEL: held tokens until the deciding step, or decided at once when no step is committed. -/
def cancelBody (p : Nat) (s : State) (b : List Byte) : State :=
  onSession p s b (fun s y =>
    let tag := bytesAt b 8 4
    let dec := decidingStep (getPart s p)
    let ord := (getPart s p).logNo
    if cancellable y then
      match dec with
      | some n => updSession s p y.handle (fun z => { z with state := .draining, cancel := some (tag, n, ord) })
      | none =>
        let s1 := dropJob (updSession s p y.handle (fun z => { z with state := .draining, ended := true, final := some stCancelled })) p y
        answer s1 p b stCancelled y.delivered
    else if y.state == .draining && y.cancel.isSome then
      match dec with
      | some n => updSession s p y.handle (fun z => { z with cancels := z.cancels ++ [(tag, n, ord)] })
      | none => answer s p b stConflict 0
    else if y.state == .draining && y.final == some stDone then
      match dec with
      | some n =>
        let e : StatusEntry := { ord := ord, status := stAlreadyDone, opcode := 0x03, handle := y.handle, tag := tag, detail := 0 }
        updPart s p (fun x => { x with deferred := x.deferred ++ [(n, e)] })
      | none => answer s p b stAlreadyDone 0
    else answer s p b stConflict 0)

/-- CANCEL (R349). -/
def execCancel (p : Nat) (s : State) : Res := takeCommand s p (hasOp 0x03) readsNothing (cancelBody p)

/-- CLOSE: an IDLE or PARKED session drains; its turn already had its end entry. -/
def closeBody (p : Nat) (s : State) (b : List Byte) : State :=
  onSession p s b (fun s y =>
    if y.state == .idle || y.state == .parked then
      answer (updSession s p y.handle (fun z => { z with state := .draining, ended := true })) p b stAccepted 0
    else answer s p b stConflict 0)

/-- CLOSE. -/
def execClose (p : Nat) (s : State) : Res := takeCommand s p (hasOp 0x04) readsNothing (closeBody p)

/-- PARK: pages are spilled at the next boundary. -/
def parkBody (p : Nat) (s : State) (b : List Byte) : State :=
  onSession p s b (fun s y =>
    if y.state == .idle then
      answer (updSession s p y.handle (fun z => { z with state := .parked, parking := true })) p b stAccepted 0
    else answer s p b stConflict 0)

/-- PARK. -/
def execPark (p : Nat) (s : State) : Res := takeCommand s p (hasOp 0x05) readsNothing (parkBody p)

/-- RESUME: pages are returned before the next step that needs them. -/
def resumeBody (p : Nat) (s : State) (b : List Byte) : State :=
  onSession p s b (fun s y =>
    if y.state == .parked then
      answer (updSession s p y.handle (fun z => { z with state := .idle, parking := false })) p b stAccepted 0
    else answer s p b stConflict 0)

/-- RESUME. -/
def execResume (p : Nat) (s : State) : Res := takeCommand s p (hasOp 0x06) readsNothing (resumeBody p)

/-- SETDUE: the due time replaced for steps committed from now on. -/
def setdueBody (p : Nat) (s : State) (b : List Byte) : State :=
  onSession p s b (fun s y =>
    if cancellable y || y.state == .receiving then
      answer (updSession s p y.handle (fun z => { z with due := bytesAt b 24 8 })) p b stAccepted 0
    else answer s p b stConflict 0)

/-- SETDUE. -/
def execSetdue (p : Nat) (s : State) : Res := takeCommand s p (hasOp 0x08) readsNothing (setdueBody p)

/-! ### Adapters (R356–R359) -/

/-- The slots of an adapter id that are not EMPTY. -/
def slotsOf (x : Part) (a : Nat) : List (Nat × Slot) := x.adapters.filter (fun e => e.2.state != 0 && e.2.id == a)

/-- The EMPTY slots. -/
def emptySlots (x : Part) : List Nat := (List.range 64).filter (fun i => (sGet Slot.init x.adapters i).state == 0)

/-- An EMPTY slot taken; which one is a free choice. -/
def takeSlot (s : State) (p : Nat) (v : Slot) : State × Option Nat :=
  let r := pickOne s (emptySlots (getPart s p))
  match r.2 with
  | none => r
  | some i => (updPart r.1 p (fun x => { x with adapters := sIns x.adapters i v }), some i)

/-- ADAPTER_LOAD: a slot LOADING, answered when it leaves that state; refused under R358, and with NO_UNIT when the image lies in the
window of an absent unit (R3). -/
def loadBody (p : Nat) (s : State) (b : List Byte) : State :=
  let x := getPart s p
  let a := bytesAt b 16 2
  let v := bytesAt b 18 2
  let here := slotsOf x a
  if a == 0xFFFF || v == 0xFFFF then answer s p b stBadRequest 0
  else if x.model.isNone then answer s p b stNoModel 0
  else if locAbsent s (locate (bytesAt b 24 8)) || locAbsent s (locate (bytesAt b 24 8 + (max 64 (bytesAt b 20 4) - 1))) then
    answer s p b stNoUnit 0
  else if (emptySlots x).isEmpty || here.any (fun e => decide (v ≤ e.2.version) || e.2.state == 4) then answer s p b stConflict 0
  else
    (takeSlot s p { Slot.init with state := 1, id := a, version := v, tag := bytesAt b 8 4, ord := x.logNo,
                                   image := bytesAt b 24 8, bytes := bytesAt b 20 4 }).1

/-- ADAPTER_LOAD. -/
def execAdapterLoad (p : Nat) (s : State) : Res := takeCommand s p (hasOp 0x10) readsNothing (loadBody p)

/-- ADAPTER_RETIRE: READY to RETIRING. -/
def retireBody (p : Nat) (s : State) (b : List Byte) : State :=
  let x := getPart s p
  match (slotsOf x (bytesAt b 16 2)).find? (fun e => e.2.version == bytesAt b 18 2) with
  | none => answer s p b stNoAdapter 0
  | some e =>
    if e.2.state == 2 then
      answer (updPart s p (fun x => { x with adapters := sIns x.adapters e.1 { e.2 with state := 3 } })) p b stAccepted 0
    else answer s p b stConflict 0

/-- ADAPTER_RETIRE. -/
def execAdapterRetire (p : Nat) (s : State) : Res := takeCommand s p (hasOp 0x11) readsNothing (retireBody p)

/-- The answer of a load (R320): handle field id and version. -/
def loadAnswer (s : State) (p : Nat) (v : Slot) (status detail : Nat) : State :=
  owe s p { ord := v.ord, status := status, opcode := 0x10, handle := v.id + 65536 * v.version, tag := v.tag, detail := detail }

/-- A slot becomes READY: every older READY version of its id becomes RETIRING, or it is RETIRING itself when a greater version is
READY (R357). -/
def slotReadyNow (x : Part) (i : Nat) (v : Slot) : Part :=
  let later := x.adapters.any (fun e => e.2.state == 2 && e.2.id == v.id && decide (v.version < e.2.version))
  let retire (e : Nat × Slot) : Nat × Slot :=
    if e.2.state == 2 && e.2.id == v.id && decide (e.2.version < v.version) then (e.1, { e.2 with state := 3 }) else e
  if later then { x with adapters := sIns x.adapters i { v with state := 3 } }
  else { x with adapters := sIns (x.adapters.map retire) i { v with state := 2 } }

/-- Whether an image's header breaks R356. -/
def imageBad (h : List Byte) (bytes : Nat) : Bool :=
  bytesAt h 0 4 != 0x31504441 || bytesAt h 4 2 != 1 || bytesAt h 6 2 == 0 || decide (256 < bytesAt h 6 2) ||
  !(bytesAt h 10 1 == 1 || bytesAt h 10 1 == 3) || 64 + bytesAt h 20 4 != bytes

/-- ADAPTER_LOAD_COMPLETE (R357): at a step boundary the image is found good or bad and the load is answered. -/
def execAdapterLoadComplete (p slot : Nat) (s : State) : Res :=
  let x := getPart s p
  let v := sGet Slot.init x.adapters slot
  if isReady s && decide (p < 16) && x.flight.isNone && v.state == 1 && !accessHeld s v.image (max 64 v.bytes) then
    let r := cmdRead s p v.image (max 64 v.bytes)
    match r.2 with
    | .error e => .next (loadAnswer (emptySlot r.1 p slot) p v (if e == stNoUnit then stNoUnit else stBadRequest) 0)
    | .ok b =>
      if imageBad b v.bytes then .next (loadAnswer (emptySlot r.1 p slot) p v stBadRequest 0)
      else if some (bytesAt b 16 4) != x.model.map (fun m => m.identity) then
        .next (loadAnswer (emptySlot r.1 p slot) p v stNoModel 0)
      else
        let s1 := updPart r.1 p (fun x => slotReadyNow x slot
          { v with rank := bytesAt b 6 2, modules := bytesAt b 8 2, fmt := bytesAt b 10 1, alpha := BitVec.ofNat 32 (bytesAt b 12 4),
                   payload := b.drop 64 })
        .next (loadAnswer s1 p v stDone v.version)
  else .next s

/-! ### Negatives pinned (11 R309) -/

/-- A node's ancestors and itself. -/
def ancestry (x : Part) : Nat → Negative → List Negative
  | 0, n => [n]
  | fuel + 1, n =>
    match x.negatives.find? (fun m => sameTree m n && m.hash == n.parent && n.parent != 0) with
    | none => [n]
    | some m => n :: ancestry x fuel m

/-- The node that a pin command names, or the status that refuses it. -/
def pinTarget (x : Part) (b : List Byte) : Except Nat Negative :=
  let a := bytesAt b 16 2
  let v := if a == 0xFFFF then 0 else bytesAt b 18 2
  if x.model.isNone then .error stNoModel
  else if !versionHeld x a v then .error stNoAdapter
  else
    match x.negatives.find? (fun n => inTree x a v n && n.hash == bytesAt b 24 8) with
    | none => .error stConflict
    | some n => .ok n

/-- NEG_PIN with bit 0 set. -/
def pinBody (p : Nat) (s : State) (b : List Byte) : State :=
  let x := getPart s p
  match pinTarget x b with
  | .error e => answer s p b e 0
  | .ok n =>
    let l := (ancestry x x.negatives.length n).map (fun m => m.page)
    let pinned (m : Negative) : Bool := m.pinned || l.contains m.page
    if decide (negCapacity s p < (x.negatives.filter pinned).length) then answer s p b stConflict 0
    else answer (updPart s p (fun y => { y with negatives := y.negatives.map (fun m => { m with pinned := pinned m }) })) p b stAccepted 0

/-- NEG_PIN with bit 0 clear. -/
def unpinBody (p : Nat) (s : State) (b : List Byte) : State :=
  let x := getPart s p
  match pinTarget x b with
  | .error e => answer s p b e 0
  | .ok n =>
    answer (updPart s p (fun y => { y with negatives := y.negatives.map (fun m =>
      if m.page == n.page then { m with pinned := false } else m) })) p b stAccepted 0

/-- NEG_PIN: the pin form of the negative-pin command. -/
def execNegPin (p : Nat) (s : State) : Res :=
  takeCommand s p (fun b => hasOp 0x12 b && bytesAt b 20 1 % 2 == 1) readsNothing (pinBody p)

/-- NEG_UNPIN: its unpin form. -/
def execNegUnpin (p : Nat) (s : State) : Res :=
  takeCommand s p (fun b => hasOp 0x12 b && bytesAt b 20 1 % 2 == 0) readsNothing (unpinBody p)

/-! ### TRAIN, FENCE, unknown opcodes (R320, R321, R360, R363) -/

/-- A field of a training block is outside its range (R360). -/
def trainBad (q : List Byte) : Bool :=
  bytesAt q 12 4 == 0 || bytesAt q 16 2 == 0xFFFF ||
  (bytesAt q 18 2 == 0xFFFF && (bytesAt q 20 2 == 0 || decide (256 < bytesAt q 20 2))) ||
  bytesAt q 44 4 == 0 || decide (1048576 < bytesAt q 44 4) || bytesAt q 8 4 == 0

/-- The greatest version of an id present in any slot; 0 when none is (R363). -/
def maxVersion (x : Part) (a : Nat) : Nat := ((slotsOf x a).map (fun e => e.2.version)).foldl max 0

/-- TRAIN: a slot reserved with version max + 1, and a job in state TRAINING with its master copy and its moments (R360–R363). -/
def trainBody (p : Nat) (s : State) (b : List Byte) : State :=
  let x := getPart s p
  let h := bytesAt b 16 4
  let a := bytesAt b 24 8
  if !handleOk h || a % 64 != 0 then answer s p b stBadRequest 0
  else if (sessionOf x h).isSome || decide (4096 ≤ x.sessions.length) then answer s p b stConflict 0
  else if x.model.isNone then answer s p b stNoModel 0
  else
    let r := cmdRead s p a 128
    match r.2 with
    | .error e => answer r.1 p b e 0
    | .ok q =>
      let id := bytesAt q 16 2
      let base := bytesAt q 18 2
      let here := slotsOf x id
      if trainBad q then answer r.1 p b stBadRequest 0
      else if locAbsent s (locate (bytesAt q 0 8)) then answer r.1 p b stNoUnit 0
      else if base != 0xFFFF && !(here.any (fun e => e.2.version == base)) then answer r.1 p b stNoAdapter 0
      else if (emptySlots x).isEmpty || here.any (fun e => e.2.state == 1 || e.2.state == 4) || maxVersion x id == 0xFFFE then
        answer r.1 p b stConflict 0
      else
        let v := maxVersion x id + 1
        let from' := ((here.find? (fun e => e.2.version == base)).map (fun e => e.2)).getD Slot.init
        let rank := if base == 0xFFFF then bytesAt q 20 2 else from'.rank
        let modules := if base == 0xFFFF then bytesAt q 22 2 else from'.modules
        let t := takeSlot r.1 p { Slot.init with state := 4, id := id, version := v, rank := rank }
        match t.2 with
        | none => answer t.1 p b stConflict 0
        | some i =>
          let word (off : Nat) : W32 := BitVec.ofNat 32 (bytesAt q off 4)
          let key := BitVec.ofNat 64 (bytesAt q 60 8)
          let ins := match x.model with | some m => paramInputs rank (adapterShapes m modules) | none => []
          let start := if base == 0xFFFF then freshParams t.1.free key ins else basePayload from'.fmt ins.length from'.payload
          let j : Job := { lr := word 24, beta1 := word 28, beta2 := word 32, decay := word 36, alpha := word 40, modules := modules,
                           next := bytesAt q 0 8, left := 0, pos := 0, seq := 0, x := start, m := [], v := [], saved := [], counted := 0, ce := [],
                           slot := i, adapter := id, version := v, base := base, rank := rank, steps := bytesAt q 12 4, done := 0,
                           batch := bytesAt q 44 4, tokensDone := 0, report := bytesAt q 48 4, data := bytesAt q 0 8,
                           seqs := bytesAt q 8 4, key := key }
          let y := sessionFrom [] h x.orderNo s.now none
          answer (addSession { t.1 with free := t.1.free + ins.length } p { y with state := .training, due := bytesAt q 52 8, job := some j }) p b stAccepted 0

/-- TRAIN. -/
def execTrain (p : Nat) (s : State) : Res := takeCommand s p (hasOp 0x18) (waitsOn s 24 128) (trainBody p)

/-- FENCE: its entry falls due after every answer owed to earlier commands (R320). -/
def execFence (p : Nat) (s : State) : Res :=
  takeCommand s p (hasOp 0x20) readsNothing (fun s b => answer s p b stAccepted 0)

/-- UNKNOWN_OPCODE: BAD_COMMAND. -/
def execUnknownOpcode (p : Nat) (s : State) : Res :=
  takeCommand s p (fun b => (usedBytes (bytesAt b 0 1)).isNone) readsNothing (fun s b => answer s p b stBadCommand 0)

/-! ### Print returns and receive timeouts -/

/-- PRINT_COMPLETE (R307, R322): the pages printed are back in the stacks and an ADMITTED session starts its prefill. -/
def execPrintComplete (p handle : Nat) (s : State) : Res :=
  match isReady s && decide (p < 16), sessionOf (getPart s p) handle with
  | true, some y =>
    if y.state == .admitted then
      let r := returnPages s p handle y.pages
      if r.2 then .next (updSession r.1 p handle (fun z => { z with state := .prefill }))
      else .next (endSession r.1 p handle stCapacity 0)
    else .next s
  | _, _ => .next s

/-- RECEIVE_TIMEOUT (R322): an adopted session's pages are incomplete 0x5000:08 ct after its admission. -/
def execReceiveTimeout (p handle : Nat) (s : State) : Res :=
  match isReady s && decide (p < 16), sessionOf (getPart s p) handle with
  | true, some y =>
    if y.state == .receiving && decide (y.admittedAt + objNat s 0x5000 8 ≤ s.now) then
      .next (endSession s p handle stReceiveTimeout 0)
    else .next s
  | _, _ => .next s

end Sys2Proof.Machine
end

