-- ==== Sys2Proof/Machine/Span.lean ====
section
/-! DEFINITION. Span: port states, frames, sending from a tensor core, and arriving packets (15_span_links.md R413–R438). -/

namespace Sys2Proof.Machine

open Sys2Proof

/-! ### Streams (R422, R423) -/

/-- The 16 bytes of a stream table entry; tag 4,095 has none. -/
def streamEntry (s : State) (p tag : Nat) : List Byte :=
  if tag < 4095 then ((objBytes s (0x6100 + p) 1).drop (16 * tag)).take 16 else []

/-- A stream entry is valid. -/
def entryValid (e : List Byte) : Bool := bitAt (bytesAt e 14 1) 7

/-- The peer device of an entry. -/
def entryPeer (e : List Byte) : Nat := bytesAt e 12 2 % 4096

/-- The peer partition of an entry. -/
def entryPart (e : List Byte) : Nat := bytesAt e 12 2 / 4096

/-- The inbound window of an entry: base address and bytes. -/
def entryWindow (e : List Byte) : Nat × Nat := (bytesAt e 0 8 % 2 ^ 52, bytesAt e 8 4 * 4096)

/-- Chunks of a packet (R418). -/
def chunksOf (k : Packet) : Nat := ceilDiv (packetBytes k) 256

/-- The place of a class in the credit lists: classes 0, 1 and 3. -/
def clsSlot (cls : Nat) : Nat := if cls == 3 then 2 else cls

/-- A list of credits with one class changed. -/
def addCredit (l : List Nat) (cls n : Nat) : List Nat := l.set (clsSlot cls) (l.getD (clsSlot cls) 0 + n)

/-! ### XSEND (R428, R429) -/

def fSpanStream : Nat := 0x030D
def fSpanRoute : Nat := 0x030E
def fSpanLost : Nat := 0x030F

/-- Destination runs start at, and have lengths of, multiples of 4 bytes (R428). -/
def xsendAlign (x : Xfer) : Op Unit :=
  let r := if x.padw then x.dst.ranges 0 (x.dst.e 0) else x.dst.ranges (x.span 0).1 (x.span 0).2
  let bad : Option Nat :=
    if (x.dst.base + (r.headD (0, 0)).1) % 4 != 0 then some 64
    else if ((r.map (fun y => y.2 - y.1)).sum) % 4 != 0 then some 72
    else ([1, 2, 3, 4].find? (fun k => decide (1 < x.dst.e k) && x.dst.st k % 4 != 0)).map (fun k => 64 + 28 + 4 * k)
  match bad with
  | some f => opFault fDescAlign (some f)
  | none => pure ()

/-- The descriptor of an XSEND read and every check made: R134 on the source side, then alignment, reduction, stream and route. -/
def startXsend (t : Nat) (e : QEntry) : Op (Xfer × Nat × List Byte) := do
  opSet (readWord wPartition)
  let s ← get
  let p := kernelPart s t
  let a := descAddr e
  opCheck (!locAbsent s (locate a)) fUnitAbsent (some a)
  opCheck (descPlace s p a) fDescAddr (some a)
  opCheck (!windowClosed s (some t) a) fWindowClosed none
  let r := unitRead s a 128 (.core t)
  set r.1
  opCheck (!r.2.2) fPoisonRead none
  let y := parseXfer t false e r.2.1
  let x := { y with dst := { y.dst with base := y.dst.base % 2 ^ 34 } }
  fieldChecks x (bytesAt r.2.1 4 2)
  xsendAlign x
  opCheck (x.reduce == 0) fDescReduce (some x.dst.base.toNat)
  checkEach (x.touched.filter (fun z => !z.1)) (fun z => rangeFault s t z.1 z.2.1 z.2.2.1 z.2.2.2)
  let tag := wf' e.word 83 72
  let q := streamEntry s p tag
  opCheck (entryValid q) fSpanStream (some tag)
  opCheck (!(upPorts s p (entryPeer q)).isEmpty) fSpanRoute (some (entryPeer q))
  return (x, tag, q)

/-- The bytes of a run's pieces with their poison, by address. -/
def runBytes (l : List Piece) : List (Nat × List (Byte × Bool)) :=
  let m := l.foldl (fun m p => (indexed p.bytes).foldl (fun m b => sIns m (p.addr + b.1) b.2) m) ([] : Store Byte)
  let bad (a : Nat) : Bool := l.any (fun p => p.poison && decide (p.addr ≤ a) && decide (a < p.addr + p.bytes.length))
  (stretches m).map (fun x => (x.1, (indexed x.2).map (fun b => (b.2, bad (x.1 + b.1)))))

/-- Destination-contiguous runs joined, in walk order (R428). -/
def joinRuns : List (Nat × List (Byte × Bool)) → List (Nat × List (Byte × Bool))
  | [] => []
  | (a, b) :: r =>
    match joinRuns r with
    | (c, d) :: q => if c == a + b.length then (a, b ++ d) :: q else (a, b) :: (c, d) :: q
    | [] => [(a, b)]

/-- The payloads of an XSEND: word offset, bytes, poison; one empty packet when the walk writes nothing. -/
def xsendParts (l : List (Nat × List (Byte × Bool))) : List (Nat × List Byte × Bool) :=
  let r := (joinRuns l).flatMap (fun x =>
    (List.range (ceilDiv x.2.length 4096)).map (fun i =>
      let b := (x.2.drop (4096 * i)).take 4096
      ((x.1 + 4096 * i) / 4, b.map (fun y => y.1), b.any (fun y => y.2))))
  if r.isEmpty then [(0, [], false)] else r

/-- XSEND: its packets formed and queued; it completes at the ACK of the last. DESIGN CHOICE (log entry 86): until then it stays at the head
of its queue, and no later instruction of SQ starts, though 03 R61 would let one. -/
def execXsend (t : Nat) (s : State) : Res :=
  runHead s t 4 0xAC (fun s e =>
    if e.send.isSome || accessHeld s (descAddr e) 128 then .wait
    else
      match (startXsend t e).run s with
      | .error f s1 => .fault s1 f.1 f.2
      | .ok (x, tag, q) s1 =>
        let p := kernelPart s1 t
        let runs := (List.range x.runs).foldl (fun a r =>
          let s2 := touchRun a.1 x r
          (s2, a.2 ++ runBytes (runPieces (readsIn s2) x r))) (s1, [])
        let parts := xsendParts runs.2
        let nsig := wf' e.word 88 88 == 1
        let send (y : State) (z : Nat × Nat × List Byte × Bool) : State :=
          let last := decide (z.1 + 1 = parts.length)
          let k : Packet := { dstDev := entryPeer q, dstPart := entryPart q, kind := 1, poison := z.2.2.2, tag := tag,
                              cls := wf' e.word 71 71, ackreq := last, seq := 0, offset := z.2.1,
                              signal := if last && !nsig then x.signal else 0, payload := z.2.2.1 }
          formPkt y p k last
        let s3 := (indexed parts).foldl send runs.1
        let w : SendWait := { peer := entryPeer q, part := p, tag := tag, seq := nextSeq s3 p tag - 1, lost := false }
        .stay (updCore s3 t (fun c =>
          setQueue c 4 ((queueOf c 4).modifyHead (fun e => { e with started := true, send := some w })))))

/-- A sent XSEND of a partition that an ACK completes, or a loss ends. -/
def sendsOf (s : State) (t : Nat) : Option (QEntry × SendWait) :=
  match queueOf (getCore s t) 4 with
  | e :: _ => e.send.map (fun w => (e, w))
  | [] => none

/-! ### Packets sent (R415–R418, R426) -/

/-- How far a packet lies beyond the last ACK of its stream direction, counting itself. -/
def beyondAck (s : State) (x : TxPacket) : Nat :=
  let key := streamKey x.pkt.tag x.pkt.dstDev x.pkt.dstPart
  (x.pkt.seq + 1 + 65536 - sGet 0 (getPart s x.part).lastAck key % 65536) % 65536

/-- Whether a packet may start on a port: credits, unacknowledged frames, and its stream's window (R417, R418, R426). -/
def maySend (s : State) (n : Nat) (x : TxPacket) : Bool :=
  let q := getPort s n
  q.state == 2 && decide (chunksOf x.pkt ≤ q.credits.getD (clsSlot x.pkt.cls) 0) && decide (q.unacked.length < 64) &&
  (x.pkt.kind == 8 || decide (beyondAck s x ≤ 4095))

/-- SPAN_PACKET_SEND (R418): the first packet queued at a port goes out, in a frame of its own; its partition's Span regulator may
hold it (13 R376). -/
def execSpanPacketSend (n : Nat) (s : State) : Res :=
  match isReady s && portPresent s n, (getPort s n).queue with
  | true, x :: r =>
    if !maySend s n x then .next s
    else if !x.pkt.payload.isEmpty && !regOpen s x.part .span then
      if x.waited then .next s
      else .next (bump (updPort s n (fun q => { q with queue := { x with waited := true } :: r })) (0x3400 + x.part) 0xB 1)
    else
      let s1 := bump (debit (stirDevice s) x.part .span x.pkt.payload.length) (0x6010 + n) 0xA (packetBytes x.pkt)
      let go (q : Port) : Port :=
        { q with queue := r, txFrame := (q.txFrame + 1) % 65536, unacked := q.unacked ++ [(q.txFrame, [x])],
                 credits := q.credits.set (clsSlot x.pkt.cls) (q.credits.getD (clsSlot x.pkt.cls) 0 - chunksOf x.pkt) }
      .next (emit (updPort s1 n go) (.packet n (packetHeader x.pkt ++ x.pkt.payload)))
  | _, _ => .next s

/-- Unacknowledged frames sent again in their order (R417). -/
def replay (s : State) (n : Nat) : State :=
  let l := (getPort s n).unacked
  l.foldl (fun x f => f.2.foldl (fun y k => emit y (.packet n (packetHeader k.pkt ++ k.pkt.payload))) x) (bump s (0x6010 + n) 8 l.length)

/-- A port's state changed. -/
def setPortState (s : State) (n st : Nat) : State := updPort s n (fun q => { q with state := st })

/-- UP to RETRAIN, counted (R419). -/
def retrain (s : State) (n : Nat) : State :=
  if (getPort s n).state == 2 then bump (setPortState s n 3) (0x6010 + n) 9 1 else s

/-- The packets of a port that has left UP go ahead of every later packet, on another UP port or held (R434). -/
def portLoss (s : State) (n : Nat) : State :=
  let q := getPort s n
  let l := q.unacked.flatMap (fun f => f.2) ++ q.queue
  let s1 := updPort s n (fun q => { q with unacked := [], queue := [] })
  let front (y : State) (x : TxPacket) : State :=
    let r := choosePort y x.pkt.cls ((upPorts y x.part x.pkt.dstDev).filter (fun m => m != n))
    match r.2 with
    | none => { y with spanHeld := { x with since := s.now } :: y.spanHeld }
    | some m => updPort r.1 m (fun z => { z with queue := x :: z.queue })
  l.reverse.foldl front s1

/-- A port goes OFF or DOWN: a port loss (R419, R435). -/
def portDown (s : State) (n st : Nat) : State := portLoss (setPortState s n st) n

/-! ### Frames received (R416, R417) -/

/-- Frames up to an acknowledged number leave the sender's buffer. -/
def ackFrames (l : List (Nat × List TxPacket)) (ack : Nat) : List (Nat × List TxPacket) :=
  match l.findIdx? (fun f => f.1 == ack) with
  | some i => l.drop (i + 1)
  | none => l

/-- Route entries that include a port and name another device than its peer (R432). -/
def exclusions (s : State) (n peer : Nat) : Nat :=
  ((List.range 4096).filter (fun d => d != peer && bitAt (routeEntry s d) 15 && bitAt (routeEntry s d) n)).length

/-- A port's peer as its control blocks show it; exclusions are counted when it changes. -/
def setPeer (s : State) (n peer : Nat) (caps : Bool) : State :=
  let s1 := if (getPort s n).peer == peer then s else bump s (0x6010 + n) 0xC (exclusions s n peer)
  updPort s1 n (fun q => { q with peer := peer, caps := caps })

/-- A packet of a kind or class that is reserved (R421, R424). -/
def reservedPkt (k : Packet) : Bool := k.cls == 2 || !([0, 1, 2, 4, 8].contains k.kind)

/-- Packets of an accepted frame wait at the port; reserved ones are discarded and counted, their chunks freed. -/
def acceptPkts (s : State) (n : Nat) (l : List Packet) : State :=
  (if l.isEmpty then s else stirDevice s) |> l.foldl (fun x k =>
    let y := bump x (0x6010 + n) 0xB (packetBytes k)
    if reservedPkt k then bump (updPort y n (fun q => { q with freed := addCredit q.freed k.cls (chunksOf k) })) 0x6000 5 1
    else updPort y n (fun q => { q with rx := q.rx ++ [k] }))

/-- Bytes 27:2 of a control block (R416): the last frame received in order, NAK and retrain request, the chunks freed, this device's number,
and that it takes page packets. The number and the CRC are those of the frame that carries it (log entry 53). -/
def controlBytes (device : Nat) (q : Port) (rt : Bool) : List Byte :=
  natLe 2 ((q.rxFrame + 65535) % 65536) ++ natLe 2 ((if q.nak then 1 else 0) + (if rt then 2 else 0)) ++
  [0, 1, 2].flatMap (fun i => natLe 2 (q.freed.getD i 0)) ++ natLe 2 (device % 4096) ++ natLe 14 1

/-- The port's answer: a control block with its ACK, NAK and freed credits. -/
def sendControl (s : State) (n : Nat) (rt : Bool) : State :=
  emit (updPort s n (fun q => { q with freed := [0, 0, 0] })) (.control n (controlBytes (objNat s 0x6000 1) (getPort s n) rt))

/-- SPAN_FRAME (R417): accepted whole and in order, or NAKed; eight failures of one frame retrain the port. -/
def execSpanFrame (n : Nat) (f : Frame) (s : State) : Res :=
  let q := getPort s n
  if !(isReady s && portPresent s n && q.state == 2) then .next s
  else
    let s1 := bump s (0x6010 + n) 5 f.corrected
    if !f.fecOk || !f.crcOk then
      let s2 := if !f.fecOk then bump s1 (0x6010 + n) 6 1 else bump s1 (0x6010 + n) 7 1
      let s3 := updPort s2 n (fun q => { q with nak := true, fails := q.fails + 1 })
      let bad := decide (8 ≤ q.fails + 1)
      let s4 := sendControl s3 n bad
      .next (if bad then updPort (retrain s4 n) n (fun q => { q with fails := 0 }) else s4)
    else if f.number != q.rxFrame then .next s1
    else
      let got (q : Port) : Port :=
        { q with rxFrame := (q.rxFrame + 1) % 65536, nak := false, fails := 0, unacked := ackFrames q.unacked f.ack,
                 credits := [q.credits.getD 0 0 + f.credits.getD 0 0, q.credits.getD 1 0 + f.credits.getD 1 0,
                             q.credits.getD 2 0 + f.credits.getD 2 0] }
      let s2 := setPeer (updPort s1 n got) n f.device f.caps
      let s3 := if f.nak then replay s2 n else s2
      let s4 := sendControl (acceptPkts s3 n f.packets) n false
      .next (if f.retrain then retrain s4 n else s4)

/-! ### Port states (R419) -/

/-- The credits of an empty receiver (R418). -/
def fullCredits : List Nat := [512, 512, 32]

/-- TRAINING_COMPLETE: a trained port is UP; from RETRAIN its unacknowledged frames are replayed, from TRAINING its period starts
anew. Packets held for the device go out. -/
def execTrainingComplete (n width peer : Nat) (caps : Bool) (s : State) : Res :=
  let q := getPort s n
  if !(isReady s && portPresent s n && (q.state == 1 || q.state == 3) && (width == 8 || width == 4 || width == 2)
      && objNat s 0x6000 1 != 0x0FFF) then .next s
  else
    let fresh (q : Port) : Port :=
      if q.state == 1 then { q with txFrame := 0, rxFrame := 0, credits := fullCredits, freed := [0, 0, 0], nak := false, fails := 0 } else q
    let s1 := setPeer (updPort s n (fun q => { fresh q with state := 2, width := width })) n peer caps
    .next (releaseHeld (if q.state == 3 then replay s1 n else s1))

/-- TRAINING_TIMEOUT: DOWN; a port loss from RETRAIN. -/
def execTrainingTimeout (n : Nat) (s : State) : Res :=
  let q := getPort s n
  if isReady s && portPresent s n && (q.state == 1 || q.state == 3) then .next (portDown s n 4) else .next s

/-- DOWN_RETRY: DOWN to TRAINING. -/
def execDownRetry (n : Nat) (s : State) : Res :=
  if isReady s && portPresent s n && (getPort s n).state == 4 then .next (setPortState s n 1) else .next s

/-- BLOCK_LOCK_LOSS: UP to RETRAIN. -/
def execBlockLockLoss (n : Nat) (s : State) : Res :=
  if isReady s && portPresent s n then .next (retrain s n) else .next s

/-- PORT_LOSS (R434): a port that has left UP gives up its unacknowledged packets. -/
def execPortLoss (n : Nat) (s : State) : Res :=
  if isReady s && portPresent s n && (getPort s n).state != 2 then .next (portLoss s n) else .next s

/-! ### Arriving packets (R425, R426, R430, R431) -/

/-- The first waiting packet of a port taken. -/
def dropRx (s : State) (n : Nat) : State := updPort s n (fun q => { q with rx := q.rx.drop 1, waited := false })

/-- The chunks of a packet freed at its port, when it has been performed or is discarded (R418). -/
def freeRx (s : State) (n : Nat) (k : Packet) : State :=
  updPort s n (fun q => { q with freed := addCredit q.freed k.cls (chunksOf k) })

/-- The first waiting packet of a port taken, and its chunks freed. -/
def takeRx (s : State) (n : Nat) (k : Packet) : State := freeRx (dropRx s n) n k

/-- The signal code of an Arrival from what its write came to. -/
def sigCode (poison : Bool) : Nat := if poison then 2 else 1

/-- An inbound WRITE performed (R430, R431, 13 R369, 08 R202, R208, R213, 09 R233, R234). -/
def performWrite (s : State) (p : Nat) (e : List Byte) (k : Packet) : State × Nat :=
  let w := entryWindow e
  let a := w.1 + 4 * k.offset
  let n := k.payload.length
  if !bitAt (bytesAt e 14 1) 0 || decide (w.2 < 4 * k.offset + n) || w.2 == 0 then (bump s (0x6100 + p) 2 1, 0)
  else if n == 0 then (s, sigCode k.poison)
  else if locBacked s (locate a) && fenced s p a n then (bump s (0x3000 + p) 0x10 1, 0)
  else
    let r := unitWrite (debitAddr s p a n) (inboundPath s p) a k.payload k.poison
    (r.1, sigCode r.2)

/-- The response of an inbound READ: WRITE packets on the same tag, the return signal on the last (R430, R431). -/
def respond (s : State) (p : Nat) (e : List Byte) (k : Packet) (a n : Nat) (bad : Bool) : State :=
  let back := bytesAt k.payload 4 4
  let count := max 1 (ceilDiv n 4096)
  (List.range count).foldl (fun y i =>
    let len := min 4096 (n - 4096 * i)
    let r := if bad then (y, List.replicate len 0xFF#8, true) else unitRead (debitRead y p (a + 4096 * i) len) (a + 4096 * i) len
    let last := decide (i + 1 = count)
    formPkt r.1 p { dstDev := entryPeer e, dstPart := entryPart e, kind := 1, poison := r.2.2, tag := k.tag, cls := k.cls,
                    ackreq := last, seq := 0, offset := back + 1024 * i,
                    signal := if last then BitVec.ofNat 32 (bytesAt k.payload 8 4) else 0, payload := r.2.1 } last) s

/-- An inbound READ performed. -/
def performRead (s : State) (p : Nat) (e : List Byte) (k : Packet) : State × Nat :=
  let w := entryWindow e
  let a := w.1 + 4 * k.offset
  let n := bytesAt k.payload 12 4
  if !bitAt (bytesAt e 14 1) 1 || decide (w.2 < 4 * k.offset + n) || decide (16777216 < n) || n % 4 != 0 || k.payload.length != 20 then
    (bump s (0x6100 + p) 2 1, 0)
  else
    let bad := n != 0 && locBacked s (locate a) && fenced s p a n
    (respond s p e k a n bad, 1)

/-- What the packet at its turn or on arrival does. -/
def performPkt (s : State) (p : Nat) (k : Packet) : State × Nat :=
  let e := streamEntry s p k.tag
  if k.kind == 1 then performWrite s p e k
  else if k.kind == 2 then performRead s p e k
  else (arrivePage s p k, sigCode k.poison)

/-- The ACK of a packet, to the stream's peer (R426): on the page stream to the shipping device, and to the partition that the
adopting session names, or one of free choice while no ADOPT names it. -/
def ackPkt (s : State) (n p : Nat) (k : Packet) : State :=
  let e := streamEntry s p k.tag
  let adopter := sessionOf (getPart s p) (bytesAt k.payload 0 4)
  let part := if k.tag == 4095 then (match adopter with | some y => y.ppart | none => freeNat s % 16) else entryPart e
  let dev := if k.tag == 4095 then (getPort s n).peer else entryPeer e
  sendPkt (drew s) { pkt := { dstDev := dev, dstPart := part, kind := 8, poison := false, tag := k.tag, cls := 3, ackreq := false,
                              seq := k.seq, offset := 0, signal := 0, payload := [] }, part := p, since := s.now, waited := false }

/-- The key of a stream direction at its receiver. -/
def rxKey (s : State) (n : Nat) (k : Packet) : Nat := if k.tag == 4095 then 4096 + (getPort s n).peer else k.tag

/-- The next packets of a stream direction in sequence: each is performed if it waited, and its chunks freed, its signal applied, its
ACK sent (R418, R425–R427). -/
def inSequence (n p key : Nat) : Nat → State → State
  | 0, s => s
  | fuel + 1, s =>
    let x := getPart s p
    let e := sGet 0 x.rxNext key
    match (sGet [] x.arrived key).find? (fun a => a.pkt.seq == e) with
    | none => s
    | some a =>
      let r := match a.performed with
        | some c => (s, c)
        | none =>
          let z := performPkt s p a.pkt
          (freeRx z.1 a.port a.pkt, z.2)
      let s1 := if r.2 == 0 then r.1 else applySignal r.1 p a.pkt.signal (r.2 == 2)
      let s2 := if a.pkt.ackreq then ackPkt s1 n p a.pkt else s1
      inSequence n p key fuel (updPart s2 p (fun x =>
        { x with rxNext := sSet 0 x.rxNext key ((e + 1) % 65536),
                 arrived := sSet [] x.arrived key ((sGet [] x.arrived key).filter (fun b => b.pkt.seq != e)) }))

/-- A packet of a stream is taken from its port: a duplicate is discarded and counted; SPREAD is performed at once, ORDERED in its turn,
until when it keeps its chunks. -/
def arrive (s : State) (n p : Nat) (k : Packet) : State :=
  let key := rxKey s n k
  let x := getPart s p
  let e := sGet 0 x.rxNext key
  let behind := (e + 65536 - k.seq) % 65536
  let here := sGet [] x.arrived key
  if (behind != 0 && decide (behind ≤ 32768)) || here.any (fun a => a.pkt.seq == k.seq) then bump (takeRx s n k) 0x6000 4 1
  else
    let r := if k.cls == 1 then (let z := performPkt (takeRx s n k) p k; (z.1, some z.2)) else (dropRx s n, none)
    let s1 := updPart r.1 p (fun x => { x with arrived := sSet [] x.arrived key (sGet [] x.arrived key ++ [{ port := n, pkt := k, performed := r.2 }]) })
    inSequence n p key (here.length + 1) s1

/-- A packet of a row's kind is the first at a port. -/
def atPort (s : State) (n kind : Nat) (k : Packet) : Bool :=
  isReady s && portPresent s n && (getPort s n).rx.head? == some k && k.kind == kind

/-- The packet of the row's kind that is first at a port; another device's is discarded and counted. -/
def onPacket (n kind : Nat) (k : Packet) (s : State) (f : State → State) : Res :=
  if atPort s n kind k then
    if k.dstDev != objNat s 0x6000 1 then .next (bump (takeRx s n k) 0x6000 3 1) else .next (f s)
  else .next s

/-- Whether what a packet accesses waits: its window meets host memory while the link is down, or a stack whose port is shut. -/
def pktHeld (s : State) (e : List Byte) (k : Packet) : Bool :=
  accessHeld s ((entryWindow e).1 + 4 * k.offset) (if k.kind == 2 then bytesAt k.payload 12 4 else k.payload.length)

/-- Whether the regulator that what a packet accesses comes under lets it start (13 R375, R376). -/
def pktOpen (s : State) (e : List Byte) (k : Packet) : Bool :=
  let a := (entryWindow e).1 + 4 * k.offset
  match if k.kind == 2 then readReg a else regOf a with
  | some r => regOpen s k.dstPart r
  | none => true

/-- A packet of a tagged stream: discarded and counted when its tag has no valid entry or names another peer (R430). It stays at the
port, where it holds its chunks, while its access waits; a wait for a regulator is counted once. -/
def onStream (n kind : Nat) (k : Packet) (s : State) : Res :=
  let entry := streamEntry s k.dstPart k.tag
  if entryValid entry && pktHeld s entry k then .next s
  else if entryValid entry && !pktOpen s entry k && atPort s n kind k then
    if (getPort s n).waited then .next s
    else .next (bump (updPort s n (fun q => { q with waited := true })) (0x3400 + k.dstPart) 0x0B 1)
  else onPacket n kind k s (fun s1 =>
    let e := streamEntry s1 k.dstPart k.tag
    if entryValid e && entryPeer e == (getPort s1 n).peer then arrive s1 n k.dstPart k
    else bump (takeRx s1 n k) (0x6100 + k.dstPart) 2 1)

/-- SPAN_WRITE. -/
def execSpanWrite (n : Nat) (k : Packet) (s : State) : Res := onStream n 1 k s

/-- SPAN_READ. -/
def execSpanRead (n : Nat) (k : Packet) (s : State) : Res := onStream n 2 k s

/-- SPAN_PAGE (R436, R437): on the page stream; on any other tag discarded and counted. -/
def execSpanPage (n : Nat) (k : Packet) (s : State) : Res :=
  onPacket n 4 k s (fun s1 => if k.tag == 4095 then arrive s1 n k.dstPart k else bump (takeRx s1 n k) (0x6100 + k.dstPart) 2 1)

/-- SPAN_IDLE: an idle block fills its place. -/
def execSpanIdle (n : Nat) (s : State) : Res :=
  match (getPort s n).rx with
  | k :: _ => onPacket n 0 k s (fun s1 => takeRx s1 n k)
  | [] => .next s

/-! ### ACKs and losses (R426, R428, R435, R437) -/

/-- The sender's stream directions that an ACK may close: the tag's own, or those of the page stream to a device. -/
def ackKeys (s : State) (n : Nat) (k : Packet) : List Nat :=
  if k.tag != 4095 then [k.tag]
  else (List.range 16).map (fun q => streamKey 4095 (getPort s n).peer q)

/-- How many packets of a direction are acknowledged once an ACK of a sequence has come; none when it is not outstanding. -/
def ackedTo (s : State) (p key seq : Nat) : Option Nat :=
  let a := sGet 0 (getPart s p).lastAck key
  let u := a + (seq + 65536 - a % 65536) % 65536 + 1
  if u ≤ nextSeq s p key then some u else none

/-- XSENDs whose last packet is acknowledged complete (R428). -/
def completeSends (s : State) (p tag upto : Nat) : State :=
  (List.range 64).foldl (fun x t =>
    match sendsOf x t with
    | some (_, w) =>
      if w.part == p && w.tag == tag && decide (w.seq < upto) && !w.lost then updCore x t (fun c => completeOne (popQueue x.now c 4) 4) else x
    | none => x) s

/-- Shipment references that an ACK covers are dropped; a session whose pages are all sent ends SHIPPED (12 R322). -/
def completeShips (s : State) (p dev part upto : Nat) : State :=
  let hit (r : ShipRef) : Bool := r.peer == dev && r.ppart == part && decide (r.seq < upto)
  let gone := (getPart s p).ships.filter hit
  let s1 := updPart s p (fun x => gone.foldl (fun z r => updPage z r.page (fun g => { g with ship := g.ship - 1 }))
    { x with ships := x.ships.filter (fun r => !hit r) })
  let shipped := ((getPart s1 p).sessions.filter (fun y => y.state == .shipping && gone.any (fun r => r.handle == y.handle) &&
    !((getPart s1 p).ships.any (fun r => r.handle == y.handle)))).map (fun y => y.handle)
  shipped.foldl (fun x h => endSession x p h stShipped 0) s1

/-- SPAN_ACK (R426, R428, R437). -/
def execSpanAck (n : Nat) (k : Packet) (s : State) : Res :=
  onPacket n 8 k s (fun s0 =>
    let s1 := takeRx s0 n k
    let p := k.dstPart
    match (ackKeys s1 n k).find? (fun key => (ackedTo s1 p key k.seq).isSome) with
    | none => s1
    | some key =>
      let upto := (ackedTo s1 p key k.seq).getD 0
      let s2 := updPart s1 p (fun x => { x with lastAck := sSet 0 x.lastAck key upto })
      if k.tag == 4095 then completeShips s2 p (getPort s1 n).peer (key % 16) upto else completeSends s2 p k.tag upto)

/-- A running XSEND whose packets were discarded faults; the detail is peer device and sequence (R429, R435). -/
def loseSends (s : State) (l : List TxPacket) : State :=
  (List.range 64).foldl (fun x t =>
    match sendsOf x t with
    | some (e, w) =>
      if l.any (fun y => y.part == w.part && y.pkt.tag == w.tag && y.pkt.kind == 1 && y.pkt.dstDev == w.peer) then
        faultCore (updCore x t (fun c => popQueue x.now c 4)) t 4 fSpanLost e.index e.iter (some (detail2 w.peer (w.seq % 65536)))
      else x
    | none => x) s

/-- What a lost packet contains (18 R486): the session of a shipment, otherwise the partition. -/
def lostScope (s : State) (x : TxPacket) : Option Nat :=
  if x.pkt.kind == 4 then
    ((getPart s x.part).sessions.find? (fun y => y.state == .shipping && y.phandle == bytesAt x.pkt.payload 0 4 && y.peer == x.pkt.dstDev)).map
      (fun y => y.handle)
  else none

/-- SPAN_HOLD_EXPIRY (R435): packets held too long for a device are discarded, and each partition that loses some is reported. -/
def execSpanHoldExpiry (device : Nat) (s : State) : Res :=
  let hit (x : TxPacket) : Bool :=
    x.pkt.dstDev == device && decide (x.since + objNat s 0x6000 2 ≤ s.now) && (upPorts s x.part device).isEmpty
  let gone := s.spanHeld.filter hit
  if isReady s && !gone.isEmpty then
    let s1 := loseSends { s with spanHeld := s.spanHeld.filter (fun x => !hit x) } gone
    let scopes := (gone.map (fun x => (x.part, lostScope s x))).eraseDups
    .next (scopes.foldl (fun y e => contain y e.1 e.2 5 0) s1)
  else .next s

end Sys2Proof.Machine
end

