-- ==== Sys2Proof/Machine/Sync.lean ====
section
/-! DEFINITION. The exchange queue, watch messages, lending and reckoning (09_synchronisation.md R236–R251). -/

namespace Sys2Proof.Machine

open Sys2Proof

def fWatchTimeout : Nat := 0x0501
def fBeadRange : Nat := 0x0502
def fBeadPoison : Nat := 0x0503
def fDrift : Nat := 0x0504

/-- The die and number of the bead that an exchange instruction names (R236). -/
def xqBead (e : QEntry) : Nat × Nat :=
  let n := wf' e.word 114 103
  (wf' e.word 115 115, if wf' e.word 102 102 == 1 then (n + capL e (wf' e.word 101 99)) % 4096 else n)

/-- The operand of an exchange instruction (R236). -/
def xqOperand (e : QEntry) : W32 :=
  BitVec.ofNat 32 (if wf' e.word 96 96 == 1 then capL e (wf' e.word 95 93) else wf' e.word 31 0)

/-- A bead in a fault's detail (R539). -/
def beadDetail (d n : Nat) : Nat := n % 4096 + 4096 * (d % 2)

/-- The partition of a core's kernel. -/
def xqPart (s : State) (t : Nat) : Nat := match (getCore s t).kernel with | some k => k.pkt.partition | none => 0

/-- The range check of R234. -/
def beadCheck (t : Nat) (e : QEntry) : Op (Nat × Nat) := do
  let b := xqBead e
  let s ← get
  opCheck (beadOwned s (xqPart s t) b.1 b.2) fBeadRange (some (beadDetail b.1 b.2))
  return b

/-- BADD (R237). -/
def baddOp (t : Nat) (e : QEntry) : Op Unit := do
  let b ← beadCheck t e
  opSet (fun s => beadAdd s b.1 b.2 (xqOperand e) false)

/-- BADD. -/
def execBadd (t : Nat) (s : State) : Res := runOp s t 5 0xC0 (fun _ _ => true) (baddOp t)

/-- BSET (R237). -/
def bsetOp (t : Nat) (e : QEntry) : Op Unit := do
  let b ← beadCheck t e
  opSet (fun s => beadSet s b.1 b.2 (xqOperand e))

/-- BSET. -/
def execBset (t : Nat) (s : State) : Res := runOp s t 5 0xC1 (fun _ _ => true) (bsetOp t)

/-- BRD (R237): the bead's value and poison bit in a 64-byte scratchpad word. -/
def brdOp (t : Nat) (e : QEntry) : Op Unit := do
  let b ← beadCheck t e
  spadCheck (spadOff e (wf' e.word 92 88)) 64
  opSet (fun s =>
    let s1 := touchBead s b.1 b.2
    let v := getBead s1 b.1 b.2
    spadPutBytes s1 t (spadOff e (wf' e.word 92 88)) (natLe 4 v.value.toNat ++ [if v.poison then 1 else 0] ++ List.replicate 59 0))

/-- BRD. -/
def execBrd (t : Nat) (s : State) : Res := runOp s t 5 0xC9 (fun _ _ => true) (brdOp t)

/-- A watch evaluated when it is registered (R239): its message is sent, or it is left pending. -/
def register (s : State) (w : Watch) : State :=
  let s1 := touchBead s w.die w.bead
  if watchHolds w.cond (getBead s1 w.die w.bead).value w.value then sendWatch s1 w 0 else { s1 with watches := s1.watches ++ [w] }

/-- The head entry of a core's queue marked as started. -/
def markStarted (s : State) (t q : Nat) : State :=
  updCore s t (fun c => setQueue c q ((queueOf c q).modifyHead (fun e => { e with started := true })))

/-- The watch of a BWAIT. -/
def watchOf (e : QEntry) (t now : Nat) : Watch :=
  { die := (xqBead e).1, bead := (xqBead e).2, cond := wf' e.word 98 97, value := xqOperand e, target := .xq t,
    timeout := wf' e.word 63 32, reg := now }

/-- BWAIT (R239, R242): registers its watch at the head of XQ, then waits for the message. -/
def execBwait (t : Nat) (s : State) : Res :=
  runHead s t 5 0xC8 (fun s e =>
    if e.started then .wait
    else
      match (beadCheck t e).run s with
      | .error f s1 => .fault s1 f.1 f.2
      | .ok _ s1 => .stay (register (markStarted s1 t 5) (watchOf e t s.now)))

/-- What a message does to the BWAIT it is for (R242). -/
def bwaitOutcome (e : QEntry) (m : Msg) (s : State) : Body :=
  let b := beadDetail m.die m.bead
  if m.status == 1 then .fault s fWatchTimeout (some (detail2 b m.value.toNat))
  else if m.status == 2 then .fault s fBeadRange (some b)
  else if m.poison && wf' e.word 87 87 == 0 then .fault s fBeadPoison (some (detail2 b m.value.toNat))
  else .done s

/-- The 16 bytes of a watch message (R241). -/
def msgBytes (m : Msg) : List Byte :=
  natLe 2 (beadDetail m.die m.bead) ++ natLe 1 m.status ++
  natLe 1 ((if m.poison then 1 else 0) + (if m.reclaimed then 2 else 0)) ++ natLe 4 m.value.toNat ++ natLe 8 m.stamp

/-- A watch message delivered. -/
def deliverMsg (s : State) (m : Msg) : State := emit s (.watch m.target (msgBytes m))

/-- WATCH_MESSAGE (R241, R242): the oldest message to a target that is not held by a lend arrives. -/
def execWatchMessage (target : Target) (s : State) : Res :=
  match s.msgs.find? (fun m => m.target == target) with
  | none => .next s
  | some m =>
    if m.held then .next s
    else
      let s1 := { s with msgs := s.msgs.erase m }
      match target with
      | .steward _ => .next (deliverMsg s1 m)
      | .xq t =>
        runHead s1 t 5 0xC8 (fun s e => if e.started then bwaitOutcome e m (deliverMsg s m) else .wait)

/-- WATCH_TIMEOUT (R240): the first watch on a die whose time has passed is removed and its message sent. -/
def execWatchTimeout (die : Nat) (s : State) : Res :=
  match s.watches.find? (fun w => w.die == die && w.timeout != 0 && decide (w.reg + w.timeout ≤ s.now)) with
  | some w =>
    if inOrder s 3 false then .next (atPlace (sendWatch { s with watches := s.watches.erase w } w 1) 3) else .next s
  | none => .next s

/-! ### Lending (R244, 10 R274) -/

/-- Whether a core's XQ holds a pending BWAIT. -/
def waiting (c : Core) : Bool :=
  match queueOf c 5 with
  | e :: _ => !e.marker && e.started && wOp e.word == 0xC8
  | [] => false

/-- Whether a queue runs nothing: it is empty or held by a barrier marker. -/
def queueIdle (c : Core) (q : Nat) : Bool :=
  match queueOf c q with
  | e :: _ => e.marker && !waitsMet c e.waits
  | [] => true

/-- LEND (R244): a core whose BWAIT has waited past the threshold, with no other queue running, lends its budget while another
core of its partition neither lends nor waits. -/
def execLend (t : Nat) (s : State) : Res :=
  let c := getCore s t
  let limit := objNat s 0x2040 1
  match isReady s && corePresent s t && waiting c && !c.lent && limit != 0, ownerOfCore s t, queueOf c 5 with
  | true, some p, e :: _ =>
    let long := match e.since with | some x => decide (x + limit < s.now) | none => false
    let other := (List.range 64).any (fun u => u != t && ownerOfCore s u == some p && !(getCore s u).lent && !waiting (getCore s u))
    if long && other && [0, 1, 2, 3, 4].all (queueIdle c) && s.watches.any (fun w => w.target == .xq t) then
      .next (bump (updCore s t (fun c => { c with lent := true, lends := c.lends + 1 })) (0x3000 + p) 0x12 1)
    else .next s
  | _, _, _ => .next s

/-- LEND_RECLAIM (R244): the held message of a lent core is released with flags bit 1 once the budget is back. -/
def execLendReclaim (t : Nat) (s : State) : Res :=
  if (getCore s t).lent && s.msgs.any (fun m => m.target == .xq t && m.held) then
    let free (m : Msg) : Msg := if m.target == .xq t then { m with held := false, reclaimed := true } else m
    .next (updCore { s with msgs := s.msgs.map free } t (fun c => { c with lent := false }))
  else .next s

/-! ### Reckoning (R245–R248) -/

/-- A reckoning pair: producer and consumer as (die, bead), and the limit on D (R248). -/
structure Pair where
  index : Nat
  producer : Nat × Nat
  consumer : Nat × Nat
  limit : Nat

/-- A bead word of a pair entry. -/
def pairBead (x : Nat) : Nat × Nat := (fld x 12 12, fld x 11 0)

/-- The reckoning group of a partition. -/
def pairsOf (s : State) (p : Nat) : List Pair :=
  let b := objBytes s (0x3000 + p) 0xF
  (List.range (b.length / 8)).map (fun i =>
    { index := i, producer := pairBead (bytesAt b (8 * i) 2), consumer := pairBead (bytesAt b (8 * i + 2) 2),
      limit := bytesAt b (8 * i + 4) 4 })

/-- A bead and every watch on it lowered by an amount in one update (R246). -/
def lowerBead (s : State) (d n : Nat) (v : W32) : State :=
  let b := getBead s d n
  let s1 := setBead s d n ⟨b.value - v, b.poison⟩
  { s1 with watches := s1.watches.map (fun w => if w.die == d && w.bead == n then { w with value := w.value - v } else w) }

/-- DRIFT of a pair reported with its beads and their values (R247). -/
def reportDrift (s : State) (p : Nat) (x : Pair) (vp vc : W32) : State :=
  emit (report s (stewardOf s p) fDrift (detail2 x.index (vp - vc).toNat)) (.drift (stewardOf s p) x.index x.producer x.consumer vp vc)

/-- One pair reckoned: D checked, then both beads lowered by C, or DRIFT reported (R245, R247). DESIGN CHOICE (log entry 89): a pair of
which a bead lies outside the partition's range since a later commit is left as it is, as R234 keeps every access to the range. -/
def reckonPair (s : State) (p : Nat) (x : Pair) : State :=
  let s0 := touchBead (touchBead s x.producer.1 x.producer.2) x.consumer.1 x.consumer.2
  let v := (getBead s0 x.producer.1 x.producer.2).value
  let c := (getBead s0 x.consumer.1 x.consumer.2).value
  let d := v - c
  if !beadOwned s p x.producer.1 x.producer.2 || !beadOwned s p x.consumer.1 x.consumer.2 then s
  else if d.toInt < 0 || (x.limit != 0 && decide (x.limit < d.toNat)) then
    contain (reportDrift (bump s0 (0x3000 + p) 0x11 1) p x v c) p none 4 fDrift
  else lowerBead (lowerBead s0 x.producer.1 x.producer.2 c) x.consumer.1 x.consumer.2 c

end Sys2Proof.Machine
end

