-- ==== Sys2Proof/Machine/Values.lean ====
section
/-! DEFINITION. What a written value must be: the ranges and the conflicts of every object that can be written (16 R440, R447 checks 8
and 9; 10 R271, R272, 09 R235, R248, 06 R147–R149, 13 R366, R372, R377, 14 R405, R410, R412, 15 R422, R432, R433, 17 R465–R474). -/

namespace Sys2Proof.Machine

open Sys2Proof

/-! ### Values in force or to come -/

/-- The state with the values of a store in force, without any effect of theirs. -/
def withValues (s : State) (l : Store (List Byte)) : State := { s with objs := l.foldl (fun m e => sIns m e.1 e.2) s.objs }

/-- The view of "in force or staged": what each object will hold once the running commit and the shadow copy have taken effect
(DEDUCED from the worked example of 13 R382, log entry 20). -/
def ahead (s : State) : State := withValues (withValues s s.commit.values) s.staged

/-- The abort codes of 16 R452 for a value. -/
def abAbsent : Nat := 0x06090030
def abRange : Nat := 0x06090031
def abConflict : Nat := 0x08000022
def abLength : Nat := 0x06070010

/-! ### Ranges (check 8) -/

/-- A number within bounds, or the range abort. -/
def within (lo hi x : Nat) : Nat := if lo ≤ x && x ≤ hi then 0 else abRange

/-- A mask without bits of absent units, or their abort (17 R463). -/
def onlyPresent (ok : Nat → Bool) (width x : Nat) : Nat := if (bitsOf width x).all ok then 0 else abAbsent

/-- The entries of a structured value. -/
def entriesOf (n : Nat) (v : List Byte) : List (List Byte) := (List.range (v.length / n)).map (fun i => (v.drop (n * i)).take n)

/-- The ownership objects of a partition (13 R366, R463, 09 R235, R248). -/
def partRange (s : State) (sub : Nat) (v : List Byte) : Nat :=
  let x := leNat v
  if sub == 1 then onlyPresent (corePresent s) 64 x
  else if sub == 2 then onlyPresent (stewardPresent s) 16 x
  else if sub == 3 then
    if v.length != 24 then abRange
    else if (List.range 12).all (fun n => stackPresent s n || bytesAt v (2 * n) 2 == 0) then 0 else abAbsent
  else if sub == 6 then within 0 1 x
  else if sub == 0xA then onlyPresent (portPresent s) 16 x
  else if sub == 0xD || sub == 0xE then within 0 4096 (if x / 65536 == 0 then 0 else x % 65536 + x / 65536)
  else if sub == 0xF then
    let l := entriesOf 8 v
    let bad (e : List Byte) : Bool :=
      (pairBead (bytesAt e 0 2)).1 != (pairBead (bytesAt e 2 2)).1 || pairBead (bytesAt e 0 2) == pairBead (bytesAt e 2 2)
    if 64 < l.length || l.any bad then abRange else 0
  else 0

/-- A strip operation (06 R149). -/
def stripRange (s : State) (x : Nat) : Nat :=
  let op := fld x 31 30
  if op == 2 && s.hw.variant == .wdn4812P then abAbsent
  else if op == 3 || (op != 0 && fld x 15 0 == 0) then abRange
  else 0

/-- The objects of pages and negatives (11 R313). -/
def kvRange (sub : Nat) (x : Nat) : Nat :=
  if sub == 6 then within 1 4096 x
  else if sub == 8 then
    let n := num32 (BitVec.ofNat 32 x)
    if numSpecial n || (numSign n && !numIsZero n) || !numLe n (.fin false 1 0) then abRange else 0
  else if sub == 9 then within 0 1 x
  else if sub == 0x13 then (if x ≤ 100 || x == 255 then 0 else abRange)
  else 0

/-- The objects of steps and proofs (12 R364). -/
def stepRange (sub : Nat) (x : Nat) : Nat :=
  if sub == 3 then within 1 8192 x
  else if sub == 4 then within 0 8192 x
  else if sub == 5 then within 1 1024 x
  else if sub == 6 then within 1 64 x
  else if sub == 7 then within 1 63 x
  else if sub == 8 then within 1 8 x
  else 0

/-- Whether a number is a power of two from 1 MiB to 1 GiB (14 R401). -/
def ringSizeOk (x : Nat) : Bool := (List.range 11).any (fun k => x == 2 ^ (20 + k))

/-- The ring objects (14 R401, R402, R412). -/
def ringRange (sub : Nat) (x : Nat) : Nat :=
  if sub == 1 then
    if x % 4096 != 0 then abRange
    else if x == 0 then 0
    else match (if x < 2 ^ 52 then locate x else .reserved) with | .host _ => 0 | _ => abRange
  else if sub == 2 then (if ringSizeOk x then 0 else abRange)
  else if sub == 3 then (if x % 256 == 0 then 0 else abRange)
  else if sub == 4 then within 0 63 x
  else if sub == 5 then within 1 65535 x
  else 0

/-- The host-link objects (14 R410, R412). -/
def linkRange (sub : Nat) (v : List Byte) : Nat :=
  if 8 ≤ sub && sub ≤ 0xB then within 0 63 (leNat v)
  else if sub == 0x11 then
    let l := entriesOf 8 v
    if 16 < l.length || decide (256 < (l.map (fun e => bytesAt e 4 2)).sum) then abRange else 0
  else 0

/-- The Span tables (15 R422, R432). -/
def tableRange (s : State) (index : Nat) (v : List Byte) : Nat :=
  if index == 0x6040 then
    if v.length != 8192 then abRange
    else if (entriesOf 2 v).all (fun e => (bitsOf 9 (leNat e)).all (portPresent s)) then 0 else abAbsent
  else if v.length != 65520 || (entriesOf 16 v).any (fun e => bytesAt e 0 8 % 4 != 0 || decide (4194304 < bytesAt e 8 4)) then abRange
  else 0

/-- The security objects (17 R472). -/
def securityRange (sub : Nat) (v : List Byte) : Nat :=
  if sub == 0x20 then (if v.length == 0 || decide (32 ≤ v.length) then 0 else abLength)
  else if sub == 0x21 then (if (entriesOf 8 v).all (fun e => decide (bytesAt e 4 1 ≤ 32)) then 0 else abRange)
  else 0

/-- Check 8 of R447: 0, or the abort of a value outside its object's range. -/
def valueRange (s : State) (index sub : Nat) (v : List Byte) : Nat :=
  let x := leNat v
  let most := match dictFind index sub with | some r => r.max | none => 0
  if decide (most < v.length) then abRange
  else if index == 0x2000 then
    if sub == 1 then within (capRange s.hw.variant).1 (capRange s.hw.variant).2 x
    else if sub == 4 then within 0 5 x
    else if sub == 5 then within 6 6 x
    else if sub == 6 then within 1 255 x
    else 0
  else if index == 0x2400 then
    if sub == 2 then within 0 3 x else if sub == 5 || sub == 6 then within 1 65535 x else 0
  else if 0x3000 ≤ index && index < 0x3010 then partRange s sub v
  else if 0x3400 ≤ index && index < 0x3410 then (if sub % 2 == 1 && x == 0 then abRange else 0)
  else if index == 0x4040 then stripRange s x
  else if index == 0x4800 then (if sub == 1 then within 1 0xFFFFFFFF x else if sub == 2 then within 1000 0xFFFFFFFF x else 0)
  else if (0x4810 ≤ index && index < 0x481C && sub == 8) || (0x4820 ≤ index && index < 0x4822 && sub == 5) then within 1 1 x
  else if index == 0x5000 then (if sub == 7 then within 1 16 x else 0)
  else if 0x5100 ≤ index && index < 0x5110 then kvRange sub x
  else if 0x5200 ≤ index && index < 0x5210 then stepRange sub x
  else if index == 0x6000 then (if sub == 1 then within 0 4095 x else 0)
  else if 0x6010 ≤ index && index < 0x6019 then (if sub == 1 then within 0 2 x else 0)
  else if index == 0x6040 || (0x6100 ≤ index && index < 0x6110) then tableRange s index v
  else if index == 0x6800 then linkRange sub v
  else if 0x6810 ≤ index && index < 0x6820 then ringRange sub x
  else if index == 0x7000 then (if x == 0 then 0 else within 64 1000000000 x)
  else if index == 0x7800 then securityRange sub v
  else if index == 0x7C00 then
    if sub == 0x11 then within 1 33554432 x else if sub == 0x12 then within 0 3 x else 0
  else if index == 0x7F00 then (if sub == 1 then within 1 0xFFFFFFFF x else within 0 1 x)
  else 0

/-! ### Conflicts (check 9, and the check of a commit tick) -/

/-- Whether two ranges given by first and end overlap. -/
def rangesMeet (a b : Nat × Nat) : Bool := decide (a.1 < b.2) && decide (b.1 < a.2) && decide (a.1 < a.2) && decide (b.1 < b.2)

/-- Partitions other than one. -/
def others (p : Nat) : List Nat := (List.range 16).filter (fun q => q != p)

/-- A mask of one partition that meets that of another. -/
def maskMeets (n : State) (p sub : Nat) : Bool :=
  (others p).any (fun q => objNat n (0x3000 + p) sub &&& objNat n (0x3000 + q) sub != 0)

/-- Memory named by a loaded manifest that the ownership to come would fence (13 R366). -/
def losesModel (s n : State) (p : Nat) : Bool :=
  let x := getPart s p
  let named (m : Option Model) : List (Nat × Nat) := match m with | some y => y.named | none => []
  (named x.model ++ named x.draft).any (fun r => !fenced s p r.1 r.2 && fenced n p r.1 r.2)

/-- The bead range of a partition as first and end. -/
def beadSpan (n : State) (p die : Nat) : Nat × Nat := ((beadRange n p die).1, (beadRange n p die).1 + (beadRange n p die).2)

/-- Conflicts of a partition's ownership and models (13 R366, R372, 09 R235, R248). -/
def partConflict (s n : State) (p sub : Nat) : Bool :=
  if sub == 1 || sub == 2 then
    maskMeets n p sub || (objNat n (0x3000 + p) 1 != 0 && objNat n (0x3000 + p) 2 == 0) || losesModel s n p
  else if sub == 3 then
    (others p).any (fun q => (List.range 12).any (fun k => regionsOwned n p k &&& regionsOwned n q k != 0)) || losesModel s n p
  else if sub == 4 then
    let g := gddrShare n p
    decide (gddrMiB s * 0x100000 < g.2 && g.1 < g.2) || (others p).any (fun q => rangesMeet g (gddrShare n q)) || losesModel s n p
  else if sub == 7 || sub == 8 then !(getPart s p).sessions.isEmpty
  else if sub == 0xD || sub == 0xE then (others p).any (fun q => rangesMeet (beadSpan n p (sub - 0xD)) (beadSpan n q (sub - 0xD)))
  else if sub == 0xF then
    (pairsOf n p).any (fun x => !beadOwned s p x.producer.1 x.producer.2 || !beadOwned s p x.consumer.1 x.consumer.2)
  else false

/-- The stack ranges that the host link exposes, as stack, first offset and end offset (14 R412). -/
def hdmRanges (s : State) : List (Nat × Nat × Nat) :=
  (entriesOf 8 (objBytes s 0x6800 0x11)).map (fun e =>
    (bytesAt e 0 1, bytesAt e 2 2 * 0x10000000, (bytesAt e 2 2 + bytesAt e 4 2) * 0x10000000))

/-- Bytes of GDDR exposed, as first and end tier offset. -/
def hdmGddr (s : State) : Nat × Nat :=
  let v := objNat s 0x6800 0x10
  ((v % 65536) * 0x40000000, (v % 65536 + v / 65536) * 0x40000000)

/-- A region meets an exposed range. -/
def regionExposed (s : State) (n r : Nat) : Bool :=
  let z := regionSize (getStack s n)
  (hdmRanges s).any (fun h => h.1 == n && rangesMeet h.2 (r * z, (r + 1) * z))

/-- A strip operation conflicts (06 R149). -/
def stripConflict (s : State) (n x : Nat) : Bool :=
  let k := getStack s n
  let op := fld x 31 30
  op != 0 && (bitsOf 16 x).any (fun r =>
    isProtected k r == (op == 1) || bitAt k.trans r || (op == 2 && regionExposed s n r))

/-- Exposed stack ranges that are not wholly in protected regions of one stack, or overlap (14 R410). -/
def hdmConflict (s n : State) : Bool :=
  let l := hdmRanges n
  l.any (fun h =>
    let k := getStack s h.1
    !stackPresent s h.1 || decide (backed k < h.2.2) ||
    (List.range 16).any (fun r => rangesMeet h.2 (r * regionSize k, (r + 1) * regionSize k) && !isProtected k r)) ||
  (List.range l.length).any (fun i => (List.range i).any (fun j =>
    (l.getD i (0, 0, 0)).1 == (l.getD j (0, 0, 0)).1 && rangesMeet (l.getD i (0, 0, 0)).2 (l.getD j (0, 0, 0)).2))

/-- A stream window that does not lie wholly in memory that the partition owns (15 R422). -/
def windowForeign (s : State) (p : Nat) (e : List Byte) : Bool :=
  let w := entryWindow e
  w.2 != 0 && (fenced s p w.1 w.2 || !locBacked s (locate w.1) || !locBacked s (locate (w.1 + w.2 - 1)) ||
    (match locate w.1, locate (w.1 + w.2 - 1) with | .host _, _ => true | _, .host _ => true | _, _ => false))

/-- A regulator's credit above its depth (13 R377). -/
def creditConflict (n : State) (p sub : Nat) : Bool :=
  let c := if sub % 2 == 1 then sub else sub - 1
  decide (objNat n (0x3400 + p) (c + 1) < objNat n (0x3400 + p) c)

/-- A commit runs (16 R454). -/
def commitRuns (s : State) : Bool := 1 ≤ s.commit.state && s.commit.state ≤ 4

/-- An update operation that a commit refuses (17 R474, 19 R513). -/
def updateConflict (s : State) (x : Nat) : Bool :=
  if x == 1 then s.fw.update == 1 || s.fw.update == 2
  else if x == 2 then s.fw.update != 3
  else if x == 3 then !(s.fw.update == 3 && s.fw.pendingSlot.isSome)
  else false

/-- Check 9 of R447: an object's value to come, in `n`, against the state and the other values to come. -/
def valueConflict (s n : State) (index sub : Nat) : Bool :=
  let x := objNat n index sub
  if (index == 0x2000 && sub == 1) || index == 0x2020 then
    decide (objNat n 0x2000 1 < ((List.range 16).map (fun p => objNat n 0x2020 (p + 1))).sum)
  else if 0x3000 ≤ index && index < 0x3010 then partConflict s n (index - 0x3000) sub
  else if 0x3400 ≤ index && index < 0x3410 then creditConflict n (index - 0x3400) sub
  else if 0x4000 ≤ index && index < 0x400C then x != (getStack s (index - 0x4000)).prot
  else if index == 0x4040 then stripConflict s (sub - 1) x
  else if 0x5100 ≤ index && index < 0x5110 && sub == 0x12 then
    (match (getPart s (index - 0x5100)).model with | some m => !stripeOk m x | none => false)
  else if index == 0x6000 && sub == 1 then (List.range 9).any (fun k => (getPort s k).state == 2)
  else if 0x6100 ≤ index && index < 0x6110 then
    (entriesOf 16 (objBytes n index sub)).any (windowForeign s (index - 0x6100))
  else if index == 0x6800 && sub == 0x10 then decide (gddrMiB s * 0x100000 < (hdmGddr n).2)
  else if index == 0x6800 && sub == 0x11 then hdmConflict s n
  else if 0x6810 ≤ index && index < 0x6820 && sub ≤ 3 then
    !(getPart s (index - 0x6810)).sessions.isEmpty || (getPart s (index - 0x6810)).flight.isSome
  else if index == 0x7F00 && sub == 1 then commitRuns s
  else false

/-! ### Reserved bits (00_scope.md R9) -/

/-- Entries of a structured value with a function applied to each. -/
def mapEntries (n : Nat) (f : List Byte → List Byte) (v : List Byte) : List Byte := (entriesOf n v).flatMap f

/-- A bead word without its reserved bits. -/
def cleanBead (x : Nat) : List Byte := natLe 2 (x % 8192)

/-- A value as the device keeps it: reserved fields, which it ignores, read back as 0. -/
def cleanValue (index sub : Nat) (v : List Byte) : List Byte :=
  if index == 0x4040 then natLe 4 (fld (leNat v) 31 29 * 2 ^ 29 + fld (leNat v) 15 0)
  else if 0x3000 ≤ index && index < 0x3010 && sub == 0xF then
    mapEntries 8 (fun e => cleanBead (bytesAt e 0 2) ++ cleanBead (bytesAt e 2 2) ++ e.drop 4) v
  else if index == 0x6040 then mapEntries 2 (fun e => natLe 2 (leNat e % 512 + leNat e / 32768 * 32768)) v
  else if 0x6100 ≤ index && index < 0x6110 then
    mapEntries 16 (fun e => e.take 14 ++ natLe 1 (bytesAt e 14 1 / 128 * 128 + bytesAt e 14 1 % 4) ++ [0]) v
  else if index == 0x6800 && sub == 0x11 then
    mapEntries 8 (fun e => e.take 1 ++ [0] ++ (e.drop 2).take 4 ++ [0, 0]) v
  else if index == 0x7800 && sub == 0x21 then mapEntries 8 (fun e => e.take 5 ++ [0, 0, 0]) v
  else v

end Sys2Proof.Machine
end

