-- ==== Sys2Proof/Machine/Commit.lean ====
section
/-! DEFINITION. Staged values taking effect, phased commits, strip operations and rollback (16 R453–R457, 13 R378–R382, 06 R147–R152,
08 R212, 09 R235). -/

namespace Sys2Proof.Machine

open Sys2Proof

/-! ### Values taking effect (16 R455) -/

/-- The object of a store key. -/
def keyIndex (k : Nat) : Nat := k / 256

/-- Its sub-index. -/
def keySub (k : Nat) : Nat := k % 256

/-- The state with the commit changed. -/
def updCommit (s : State) (f : Commit → Commit) : State := { s with commit := f s.commit }

/-- The partition that an object belongs to. -/
def objPart (index sub : Nat) : Option Nat :=
  if [0x300, 0x340, 0x510, 0x520, 0x580, 0x610, 0x681].contains (index / 16) then some (index % 16)
  else if index == 0x2020 then some (sub - 1)
  else none

/-- The partitions that a staged change holds (13 R378). -/
def holdsFor (s : State) (k : Nat) (v : List Byte) : List Nat :=
  let x := leNat v
  if keyIndex k / 16 == 0x300 && [1, 2, 3, 4, 6, 7, 8, 0xA, 0xD, 0xE].contains (keySub k) then [keyIndex k % 16]
  else if keyIndex k == 0x4040 && fld x 31 30 != 0 then
    (List.range 16).filter (fun p => (bitsOf 16 x).any (fun r => ownerOfRegion s (keySub k - 1) r == some p))
  else []

/-- Whether a value is part of a phased change. -/
def isPhased (s : State) (k : Nat) (v : List Byte) : Bool := !(holdsFor s k v).isEmpty

/-- A port's mode in force (15 R419): off is a port loss, another mode starts training from OFF. -/
def portMode (s : State) (n : Nat) : State :=
  let st := (getPort s n).state
  if objNat s (0x6010 + n) 1 == 0 then (if st == 0 then s else portDown s n 0)
  else if st == 0 && decide (s.power.stop ≤ 3) then setPortState s n 1
  else s

/-- The stream directions of changed entries restart at 0 (15 R423). -/
def restartStreams (s : State) (p : Nat) (old : List Byte) : State :=
  let new := objBytes s (0x6100 + p) 1
  let changed := (List.range 4095).filter (fun t => bytesAt old (16 * t) 16 != bytesAt new (16 * t) 16)
  updPart s p (fun x => changed.foldl (fun y t =>
    { y with txSeq := sDel y.txSeq t, lastAck := sDel y.lastAck t, rxNext := sDel y.rxNext t, arrived := sDel y.arrived t }) x)

/-- One value of the commit in force, its predecessor kept for a rollback. A strip operation's object returns to 0 (06 R148). -/
def takeValue (s : State) (e : Nat × List Byte) : State :=
  let i := keyIndex e.1
  let sub := keySub e.1
  let s1 := updCommit s (fun c => { c with values := sDel c.values e.1, before := sIns c.before e.1 (objBytes s i sub) })
  if i == 0x4040 then s1
  else
    let s2 := setObj s1 i sub e.2
    if i == 0x7C00 && sub == 0x12 then { s2 with fw := { s2.fw with op := leNat e.2 } } else s2

/-- What follows from objects that have changed: the cadence starts over (10 R255), rings are set anew (14 R405), ports change mode
(15 R419), streams restart (15 R423). `old` holds the values before. -/
def followValues (s : State) (keys : List Nat) (old : Store (List Byte)) : State :=
  let has (i sub : Nat) : Bool := keys.contains (objKey i sub)
  let s1 := if has 0x2400 2 || has 0x2400 5 || has 0x2400 6 || has 0x2400 7 then restartCadence s else s
  let s2 := (List.range 16).foldl (fun x p =>
    if has (0x6810 + p) 1 || has (0x6810 + p) 2 || has (0x6810 + p) 3 then resetRing x p else x) s1
  let s3 := (List.range 9).foldl (fun x n => if has (0x6010 + n) 1 then portMode x n else x) s2
  (List.range 16).foldl (fun x p =>
    if has (0x6100 + p) 1 then restartStreams x p (sGet [] old (objKey (0x6100 + p) 1)) else x) s3

/-- Several values in force together. -/
def takeValues (s : State) (l : Store (List Byte)) : State :=
  if l.isEmpty then s
  else
    let s1 := l.foldl takeValue s
    followValues s1 (l.map (fun e => e.1)) s1.commit.before

/-- Whether a value that is not phased takes effect now (16 R455): the exposure of memory at the commit tick (14 R410), a regulator
only at a refill, a partition's value at its boundary, a device-wide value once every partition has reached one. -/
def valueDue (s : State) (e : Nat × List Byte) : Bool :=
  let i := keyIndex e.1
  if isPhased s e.1 e.2 || i / 16 == 0x340 then false
  else if i == 0x4040 then fld (leNat e.2) 31 30 == 0
  else if i == 0x6800 && (keySub e.1 == 0x10 || keySub e.1 == 0x11) then true
  else match objPart i (keySub e.1) with
    | some p => !s.commit.waits.contains p
    | none => s.commit.waits.isEmpty

/-- The commit is DONE once nothing of it is outstanding (16 R456). -/
def finishCommit (s : State) : State :=
  let c := s.commit
  let open' := !c.values.isEmpty || (List.range 12).any (fun n => (getStack s n).stripOp.isSome)
  if c.ticked && !open' && (c.state == 1 || (c.state == 3 && c.phase == 0)) then
    updCommit s (fun c => { c with state := 5, before := [], saved := [], stripped := [], held := [], waits := [] })
  else s

/-- Every value that is due now in force. -/
def applyDue (s : State) : State :=
  if s.commit.ticked && (s.commit.state == 1 || s.commit.state == 2 || s.commit.state == 3) then
    finishCommit (takeValues s (s.commit.values.filter (valueDue s)))
  else s

/-- A partition reaches a step boundary: its values are in force, and device-wide ones when it was the last (16 R455). -/
def commitBoundary (s : State) (p : Nat) : State :=
  applyDue (updCommit s (fun c => { c with waits := c.waits.filter (fun q => q != p) }))

/-- What a tick's place for a partition's staged commit does (10 R259): its values take effect when it is at a step boundary that lay
before the tick. -/
def partCommit (s : State) (p : Nat) : State :=
  if (getPart s p).flight.isNone && decide ((getPart s p).boundary ≤ s.now) then commitBoundary s p else s

/-- The staged commits of partition `p` and of those before it (10 R259). -/
def commitsUpTo (s : State) (p : Nat) : State := (List.range (p + 1)).foldl partCommit s

/-- RECKONING (09 R245): at the first step boundary at or after a multiple of the period, the pairs in list order, on the values that
the staged commit leaves. -/
def execReckoning (p : Nat) (s : State) : Res :=
  let period := objNat s 0x3010 4
  let due := period != 0 && decide ((getPart s p).reckoned / period < s.now / period)
  if isReady s && decide (p < 16) && due && (getPart s p).flight.isNone && inOrder s (partPlace p 1) true then
    let s0 := commitsUpTo s p
    .next (atPlace (updPart ((pairsOf s0 p).foldl (fun x y => reckonPair x p y) s0) p (fun x => { x with reckoned := s.now }))
      (partPlace p 1))
  else .next s

/-- The regulator values of the commit, at a refill (13 R377). -/
def applyRegulators (s : State) : State :=
  if s.commit.ticked && (s.commit.state == 1 || s.commit.state == 2 || s.commit.state == 3) then
    finishCommit (takeValues s (s.commit.values.filter (fun e => keyIndex e.1 / 16 == 0x340)))
  else s

/-! ### The commit tick (16 R454, R456) -/

/-- The reason word of 0x7F00:05. -/
def reasonWord (code k : Nat) : Nat := code * 2 ^ 24 + k

/-- COMMIT_TICK: staged values move into the commit and are checked; those due at once are in force. -/
def execCommitTick (s : State) : Res :=
  let c := s.commit
  if isReady s && (c.state == 1 || c.state == 2) && !c.ticked && decide (c.tick < s.now) && inOrder s 5 false then
    let c1 := { c with ticked := true, tick := s.now, values := s.staged, before := [], held := [], waits := [], saved := [],
                       stripped := [], phase := 0 }
    let s0 := atPlace { s with staged := [], commit := c1 } 5
    let n := withValues s0 c1.values
    let bad (k : Nat) (v : List Byte) : Bool := valueConflict s0 n (keyIndex k) (keySub k) || (k == 0x7C0012 && updateConflict s0 (leNat v))
    match c1.values.find? (fun e => bad e.1 e.2) with
    | some e => .next (updCommit s0 (fun c => { c with state := 6, reason := reasonWord 6 e.1, values := [] }))
    | none =>
      let held := (List.range 16).filter (fun p => c1.values.any (fun e => (holdsFor s0 e.1 e.2).contains p))
      let hold (x : State) (p : Nat) : State :=
        updPart x p (fun y => { y with held := true, holdReached := y.flight.isNone && y.committed.isEmpty })
      let s1 := held.foldl hold s0
      let waits := (List.range 16).filter (fun p => (getPart s0 p).flight.isSome || decide (s.now < (getPart s0 p).boundary))
      .next (applyDue (updCommit s1 (fun c => { c with state := if held.isEmpty then 1 else 2, held := held, waits := waits })))
  else .next s

/-- PARTITION_HOLD (13 R379): no step in flight, none committed. -/
def execPartitionHold (p : Nat) (s : State) : Res :=
  let x := getPart s p
  if isReady s && decide (p < 16) && x.held && x.flight.isNone && x.committed.isEmpty then
    .next (updPart s p (fun x => { x with holdReached := true }))
  else .next s

/-- PHASED_COMMIT_APPLY (13 R380): every held partition holds. -/
def execPhasedCommitApply (s : State) : Res :=
  let c := s.commit
  if isReady s && c.state == 2 && c.ticked && c.held.all (fun p => (getPart s p).holdReached) then
    let saved := c.held.map (fun p => let x := getPart s p; (p, x.model, x.draft, x.pool))
    .next (updCommit s (fun c => { c with state := 3, phase := 1, saved := saved }))
  else .next s

/-! ### The rewriting of strips (06 R150, R152) -/

/-- Cache lines of a range written back and dropped. -/
def flushRange (s : State) (lo hi : Nat) : State :=
  (s.cache.filter (fun e => decide (lo ≤ e.1 * 128) && decide (e.1 * 128 < hi))).foldl (fun x e => dropLine x e.1 true) s

/-- The address range of a region. -/
def regionRange (s : State) (n r : Nat) : Nat × Nat :=
  let z := regionSize (getStack s n)
  (stackWindow n + r * z, stackWindow n + (r + 1) * z)

/-- Cache lines homed in the regions of a mask written back and dropped. -/
def flushRegions (s : State) (n mask : Nat) : State :=
  (bitsOf 16 mask).foldl (fun x r => flushRange x (regionRange x n r).1 (regionRange x n r).2) s

/-- Every byte of a range 0, with no error or poison left. -/
def clearRange (s : State) (lo hi : Nat) : State :=
  { s with mem := sDropRange s.mem lo hi, poison := sDropRange s.poison lo hi, errs := sDropRange s.errs lo hi }

/-- Whether a place lies in a channel declared failing at run time (06 R160). -/
def failingAt (s : State) (a : Nat) : Bool :=
  match locate a with | .stack n off => bitAt (getStack s n).failing (chanOf (getStack s n) off) | _ => false

/-- A granule with an error read by the base die in its old mapping (06 R152). An unseal corrects it through the system ECC, and a seal
takes what the DRAM die delivers: a corrected error is counted, and one that on-die correction cannot fix is sealed as data, undetected,
with free bytes. -/
def readOld (isSeal : Bool) (s : State) (e : Nat × ErrKind) : State :=
  match isSeal, e.2 with
  | true, .uncorrectable _ =>
    { s with free := s.free + 32, mem := sSetMany 0 s.mem e.1 ((List.range 32).map (fun i => BitVec.ofNat 8 (Config.freeNat (s.free + i)))) }
  | _, _ => detect s e.1

/-- A range rewritten under KEEP for a new attribute: errors that the rewriting met are gone, and poison is at the granule of the new
attribute: a sealed burst is poisoned by any of its columns, and the columns of an unsealed burst are all poisoned. What lay in a failing
channel reads as poison, and stays so at its new place (06 R160). -/
def rewriteRange (s : State) (lo hi : Nat) (isSeal : Bool) : State :=
  let met := s.errs.filter (fun e => decide (lo ≤ e.1) && decide (e.1 < hi))
  let dead := if (List.range 12).all (fun n => (getStack s n).failing == 0) then []
    else (pieces (if isSeal then 32 else 128) lo (hi - lo)).filter (failingAt s)
  let s1 := met.foldl (readOld isSeal) s
  let marks := ((s.poison.filter (fun e => decide (lo ≤ e.1) && decide (e.1 < hi) && e.2)).map (fun e => e.1) ++ dead).map (fun a => a / 128 * 128)
  let new := if isSeal then marks else marks.flatMap (fun a => [a, a + 32, a + 64, a + 96])
  { s1 with poison := new.foldl (fun m a => sSet false m a true) (sDropRange s1.poison lo hi), errs := sDropRange s1.errs lo hi }

/-- A region rewritten with its new attribute. -/
def rewriteRegion (n : Nat) (isSeal clear : Bool) (s : State) (r : Nat) : State :=
  let b := regionRange s n r
  if clear then clearRange s b.1 b.2 else rewriteRange s b.1 b.2 isSeal

/-- The regions of a mask rewritten, and their attribute changed. -/
def changeStrips (s : State) (n : Nat) (isSeal clear : Bool) (mask : Nat) : State :=
  updStack ((bitsOf 16 mask).foldl (rewriteRegion n isSeal clear) s) n (fun k => { k with prot := k.prot ^^^ mask })

/-! ### Failure and rollback (13 R381) -/

/-- The commit fails for a reason of R381: its phases are to be undone. -/
def startRollback (s : State) (code k : Nat) : State :=
  updCommit s (fun c => { c with state := 4, reason := reasonWord code k })

/-- HOLD_LIMIT: a partition has not held in time. -/
def execHoldLimit (p : Nat) (s : State) : Res :=
  let c := s.commit
  if isReady s && c.state == 2 && c.ticked && c.held.contains p && !(getPart s p).holdReached
      && decide (c.tick + objNat s 0x3010 1 ≤ s.now) then .next (startRollback s 1 0)
  else .next s

/-- The strip operation in progress in a stack given up, its regions out of transition with their attribute. -/
def stopStrip (s : State) (n : Nat) : State :=
  match (getStack s n).stripOp with
  | some _ => updStack s n (fun k => { k with stripOp := none, trans := 0 })
  | none => s

/-- The regions that a strip operation of the commit changed, changed back under KEEP: those that it unsealed are sealed again
(06 R152), and those that it sealed are unsealed. -/
def unstrip (s : State) (e : Nat × Nat) : State :=
  let sealed := (bitsOf 16 e.2).foldl (fun m r => if isProtected (getStack s e.1) r then setBit m r else m) 0
  changeStrips (changeStrips s e.1 true false (e.2 ^^^ sealed)) e.1 false false sealed

/-- A commit rolled back: values, models, pools and attributes are as before it, the held partitions resume, and it is FAILED. -/
def rollBack (s : State) : State :=
  let c := s.commit
  let s1 := (List.range 12).foldl stopStrip (c.stripped.foldl unstrip s)
  let s2 := c.saved.foldl (fun x e => updPart x e.1 (fun y => { y with model := e.2.1, draft := e.2.2.1, pool := e.2.2.2 })) s1
  let now' := c.before.map (fun e => (e.1, objBytes s (keyIndex e.1) (keySub e.1)))
  let s3 := c.before.foldl (fun x e => setObj x (keyIndex e.1) (keySub e.1) e.2) s2
  let s4 := followValues s3 (c.before.map (fun e => e.1)) now'
  let s5 := c.held.foldl (fun x p => updPart x p (fun y => { y with held := false, holdReached := false })) s4
  updCommit s5 (fun c => { c with state := 6, phase := 0, values := [], before := [], saved := [], stripped := [], held := [], waits := [] })

/-- ROLLBACK_COMPLETE: what the phases of a failed commit applied is undone. -/
def execRollbackComplete (s : State) : Res := if isReady s && s.commit.state == 4 then .next (rollBack s) else .next s

/-! ### Strip operations (06 R148–R152) -/

/-- The rows that a stack's engines hold open in the regions of a mask closed (07 R175). -/
def closeRows (k : Stack) (mask : Nat) : Stack :=
  let gone (e : Engine) : Bool := match e.row with | some r => bitAt mask (r / 4096) | none => false
  { k with engines := (k.engines.filter (fun e => gone e.2)).foldl (fun m e =>
      sSet Engine.init m e.1 { e.2 with row := none }) k.engines }

/-- The regions of a strip operation that may begin now (R150): those that no partition owns at the tick after the commit, the others
at their phase. -/
def stripsDue (s : State) (n mask : Nat) : Nat :=
  let atPhase := s.commit.state == 3 && s.commit.phase == 3
  let atTick := commitRuns s && s.commit.state != 4 && decide (s.commit.tick < s.now)
  (bitsOf 16 mask).foldl (fun m r => if (if (ownerOfRegion s n r).isSome then atPhase else atTick) then setBit m r else m) 0

/-- A strip operation begins (R150), on the regions that are due: the rest of its regions, if any, follow as one more operation. -/
def beginStrip (n op : Nat) (s : State) : Res :=
  let k := objKey 0x4040 (n + 1)
  match isReady s && stackPresent s n && (getStack s n).stripOp.isNone && s.commit.ticked, s.commit.values.find? (fun e => e.1 == k) with
  | true, some e =>
    let x := leNat e.2
    let due := stripsDue s n (fld x 15 0)
    if fld x 31 30 == op && due != 0 then
      let s1 := flushRegions s n due
      let o : StripOp := { isSeal := op == 1, clear := bitAt x 29, regions := due, done := 0 }
      let rest := x - due
      .next (updCommit (updStack s1 n (fun y => { closeRows y due with trans := due, stripOp := some o }))
        (fun c => { c with values := if fld rest 15 0 == 0 then sDel c.values k else sIns c.values k (natLe 4 rest) }))
    else .next s
  | _, _ => .next s

/-- SEAL. -/
def execSeal (n : Nat) (s : State) : Res := beginStrip n 1 s

/-- UNSEAL. -/
def execUnseal (n : Nat) (s : State) : Res := beginStrip n 2 s

/-- The first latent error of a stack's regions that system ECC cannot correct. -/
def latentBurst (s : State) (inside : Nat → Bool) : Option Nat :=
  (s.errs.find? (fun e => inside e.1 && (match e.2 with | .uncorrectable _ => true | _ => false))).map (fun e => e.1)

/-- An uncorrectable burst met by an unseal: counted and logged as any read of it (18 R479), and still there afterwards. A burst that
no error of State names has failed just now; its syndrome is free. -/
def meetBurst (s : State) (g : Nat) : State :=
  match s.errs.find? (fun e => e.1 == g) with
  | some (_, .uncorrectable _) => detect s g
  | _ => detect { drew s with errs := sIns s.errs g (.uncorrectable (freeNat s % 2 ^ 32)) } g

/-- STRIP_OPERATION_COMPLETE (R150, R152): the attribute map is updated; an unseal under KEEP that met an uncorrectable burst fails
its commit and names the burst: the one that its operand says has failed, or one that has a latent error. -/
def execStripOperationComplete (n : Nat) (badBurst : Option Nat) (s : State) : Res :=
  match isReady s && stackPresent s n, (getStack s n).stripOp with
  | true, some o =>
    let inside (a : Nat) : Bool := (bitsOf 16 o.regions).any (fun r => decide ((regionRange s n r).1 ≤ a) && decide (a < (regionRange s n r).2))
    match (if o.isSeal || o.clear then none else badBurst.or (latentBurst s inside)) with
    | some a =>
      let g := a / 128 * 128
      if inside a then .next (startRollback (setCounter (stopStrip (meetBurst s g) n) (0x4000 + n) 0xE g) 3 (objKey 0x4040 (n + 1)))
      else .next s
    | none =>
      let s2 := updStack (changeStrips s n o.isSeal o.clear o.regions) n (fun k => { k with trans := 0, stripOp := none })
      .next (finishCommit (updCommit (bump s2 (0x4000 + n) 0xF 1) (fun c => { c with stripped := c.stripped ++ [(n, o.regions)] })))
  | _, _ => .next s

/-! ### The manifest (13 R370–R372) -/

/-- The fields of a model from a manifest header. -/
def modelOf (h : List Byte) : Model :=
  { identity := bytesAt h 8 4, kind := bytesAt h 12 1, kvclass := bytesAt h 13 1, layers := bytesAt h 14 2, dmodel := bytesAt h 16 4,
    vocab := bytesAt h 20 4, kvheads := bytesAt h 28 2, kvdim := bytesAt h 30 2, header := h.take 64, named := [], weights := [] }

/-- A header breaks R370. -/
def headerBad (h : List Byte) : Bool :=
  let m := modelOf h
  bytesAt h 0 4 != 0x314C444D || bytesAt h 4 2 != 1 || bytesAt h 6 2 == 0 || decide (2 < m.kind) ||
  !(m.kvclass == 1 || m.kvclass == 2) || (m.kind == 0 && bytesAt h 24 2 != 0) || (m.kvclass == 1 && m.kvheads != 1) ||
  bytesAt h 32 8 % 64 != 0

/-- The roles of R371. -/
def roleOk (x : Nat) : Bool :=
  decide (1 ≤ x && x ≤ 3) || decide (0x10 ≤ x && x ≤ 0x16) || decide (0x20 ≤ x && x ≤ 0x24) || decide (0x1000 ≤ x && x ≤ 0x1004) ||
  decide (0x1100 ≤ x && x ≤ 0x1102)

/-- The roles that each layer of a model needs, and those the whole model needs (DEDUCED, log entry 21). -/
def layerRoles (m : Model) : List Nat :=
  (if m.kvclass == 1 then [0x10, 0x13, 0x14, 0x15, 0x16] else [0x10, 0x11, 0x12, 0x13, 0x16]) ++ [0x20, 0x21, 0x22, 0x24] ++
  (if m.kind == 1 then [0x23] else [])

/-- The roles of the whole model; bank-engine programs where the part has engines. -/
def modelRoles (s : State) : List Nat := [1, 2, 3, 0x1000, 0x1001, 0x1002, 0x1003] ++ (if hasEngines s then [0x1100, 0x1101, 0x1102] else [])

/-- Every role that a plan could need is present. -/
def rolesComplete (s : State) (m : Model) (l : List (List Byte)) : Bool :=
  (modelRoles s).all (fun r => l.any (fun e => bytesAt e 4 2 == r)) &&
  (List.range m.layers).all (fun k => (layerRoles m).all (fun r => l.any (fun e => bytesAt e 4 2 == r && bytesAt e 6 2 == k)))

/-- Whether the regions of a range all have an attribute; ranges outside the stacks have none. -/
def regionsAre (s : State) (prot : Bool) (a n : Nat) : Bool :=
  match locate a with
  | .stack k off =>
    let st := getStack s k
    (List.range 16).all (fun r => isProtected st r == prot || decide (off + n ≤ r * regionSize st) || decide ((r + 1) * regionSize st ≤ off))
  | _ => false

/-- A range lies in backed memory that the ownership to come gives the partition, or in host memory. -/
def memPlace (s n : State) (p a len : Nat) : Bool :=
  len != 0 && decide (a + len ≤ 2 ^ 52) && (locRange s a).1 == (locRange s (a + len - 1)).1 && locBacked s (locate a) &&
  locBacked s (locate (a + len - 1)) && !fenced n p a len

/-- An entry breaks R371 or R372. -/
def entryBad (s n : State) (p : Nat) (m : Model) (experts : Nat) (e : List Byte) : Bool :=
  let kind := bytesAt e 0 1
  let layout := bytesAt e 2 1
  let a := bytesAt e 16 8
  let len := bytesAt e 24 8
  let layer := bytesAt e 6 2
  let ex := bytesAt e 8 2
  decide (3 < kind) || decide (15 < bytesAt e 1 1) || decide (2 < layout) || !roleOk (bytesAt e 4 2) || (layer != 0xFFFF && decide (m.layers ≤ layer)) ||
  (decide (experts ≤ ex) && decide (ex < 0xFFFE)) || (layout != 1 && (bytesAt e 10 2 != 0 || bytesAt e 12 2 != 0)) ||
  !memPlace s n p a len ||
  (layout == 1 && !regionsAre s (s.hw.variant == .wdn4812P) a len) ||
  (decide (2 ≤ kind) && !imagePlace n p a len)

/-- Elements of a range in a format; MX blocks of 32 carry a byte of scale. -/
def elementsIn (fmt bytes : Nat) : Nat :=
  if isMx fmt then bytes / (4 * fmtBits fmt + 1) * 32 else bytes * 8 / fmtBits fmt

/-- The weights that a manifest names: role, layer and elements of each. -/
def weightsOf (l : List (List Byte)) : List (Nat × Nat × Nat) :=
  (l.filter (fun e => bytesAt e 0 1 == 0)).map (fun e => (bytesAt e 4 2, bytesAt e 6 2, elementsIn (bytesAt e 1 1) (bytesAt e 24 8)))

/-- A manifest read and checked for a partition under the ownership to come; `vocab` is what a draft must share. None is MANIFEST.
A plan whose needs the spec does not state decides freely when a role is missing. -/
def loadManifest (s n : State) (p a : Nat) (vocab : Option Nat) : State × Option Model :=
  if a % 64 != 0 || !memPlace s n p a 64 then (s, none)
  else
    let h := unitRead s a 64
    let m := modelOf h.2.1
    let len := 32 * bytesAt h.2.1 6 2
    if h.2.2 || headerBad h.2.1 || (vocab.isSome && vocab != some m.vocab) || !memPlace h.1 n p (bytesAt h.2.1 32 8) len then (h.1, none)
    else
      let t := unitRead h.1 (bytesAt h.2.1 32 8) len
      let l := entriesOf 32 t.2.1
      if t.2.2 || l.any (entryBad t.1 n p m (bytesAt h.2.1 24 2)) then (t.1, none)
      else
        let ok := { m with named := l.map (fun e => (bytesAt e 16 8, bytesAt e 24 8)), weights := weightsOf l }
        if rolesComplete t.1 m l then (t.1, some ok) else (drew t.1, if freeBool t.1 then some ok else none)

/-! ### The phases (13 R380) -/

/-- Bytes of the regions of a stack in which a partition's pages lie (11 R287). -/
def pageRoom (s n : State) (p k : Nat) : Nat :=
  ((bitsOf 16 (regionsOwned n p k)).filter (fun r => isProtected (getStack s k) r == (s.hw.variant == .wdn4812P))).length * regionSize (getStack s k)

/-- A pool: the pages that the stewards give it in each stack, at most what its regions hold. -/
def poolFor (s n : State) (p : Nat) (m : Model) (l : List (Nat × Nat)) : Store Nat :=
  (List.range 12).foldl (fun x k =>
    let want := ((l.find? (fun e => e.1 == 16 * p + k)).map (fun e => e.2)).getD 0
    sSet 0 x k (min want (pageRoom s n p k / pageBytes m))) []

/-- The regions of a stack whose attribute the commit changes. -/
def changing (s : State) (k : Nat) : Nat :=
  match s.commit.values.find? (fun e => e.1 == objKey 0x4040 (k + 1)) with
  | some e => if fld (leNat e.2) 31 30 == 0 then 0 else fld (leNat e.2) 15 0
  | none => 0

/-- The regions of a stack that stay a partition's through the commit, with their attribute. -/
def kept (s n : State) (p k : Nat) : Nat :=
  (bitsOf 16 (changing s k)).foldl (fun m r => clearBit m r) (regionsOwned s p k &&& regionsOwned n p k)

/-- A page moved to its partition's remaining memory: the stack with most room that has a place for it, or any that has. -/
def movePage (n : State) (p : Nat) (s : State) (g : Nat) : State × Bool :=
  let pg := pageOf (getPart s p) g
  match (if pg.draft then (getPart s p).draft else (getPart s p).model) with
  | none => (s, false)
  | some m =>
    let r := pickOne s (mostFree (getPart s p) ((List.range 12).filter (fun j => kept s n p j != 0)))
    let dest := (r.2.toList ++ List.range 12).foldl (fun a k => match a.2 with
      | some _ => a
      | none => choosePlace a.1 p k m (kept s n p) pg) (r.1, none)
    match dest.2 with
    | some at' => (landRows dest.1 p g at', true)
    | none => (dest.1, false)

/-- One page in regions that leave a partition, or that change their attribute, moves or spills (phase 1); a pinned node's page never
spills (11 R309). Whether every page found room. -/
def moveOut (n : State) (p : Nat) (a : State × Bool) (g : Nat) : State × Bool :=
  let pg := pageOf (getPart a.1 p) g
  if !a.2 || pg.tier != 0 || (pageSpans pg).all (spanOk a.1 (kept a.1 n p)) then a
  else
    let r := movePage n p a.1 g
    if r.2 then r else if pinnedPage (getPart a.1 p) g then (r.1, false) else spillPage r.1 p g

/-- What a GDDR range that leaves a partition held goes to its remaining range, or down to host memory: pages that the range to come
has no room for, and adapters of a partition that keeps no range (phase 1). -/
def shrinkGddr (n : State) (p : Nat) (s : State) : State :=
  let size := (gddrShare n p).2 - (gddrShare n p).1
  let held (x : Part) : Nat := 2048 * ((x.pages.filter (fun e => e.2.tier == 1)).map (fun e => e.2.rows)).sum
  let down (x : Part) (e : Nat × Page) : Part :=
    if e.2.tier == 1 && decide (size < held x) then updPage x e.1 (fun z => { z with tier := 2 }) else x
  let x := getPart s p
  updPart s p (fun _ =>
    let y := x.pages.foldl down x
    if size == 0 then { y with adapters := y.adapters.map (fun e => (e.1, if e.2.tier == 1 then { e.2 with tier := 2 } else e.2)) } else y)

/-- Phase 1 for a partition. -/
def leavePlaces (n : State) (a : State × Bool) (p : Nat) : State × Bool :=
  let r := ((getPart a.1 p).pages.map (fun e => e.1)).foldl (moveOut n p) a
  (shrinkGddr n p r.1, r.2)

/-- Cache lines homed in the regions and the GDDR range that leave a partition written back and dropped (phase 2). -/
def flushLeaving (n : State) (s : State) (p : Nat) : State :=
  let s1 := (List.range 12).foldl (fun x k => flushRegions x k ((bitsOf 16 (regionsOwned x p k)).foldl
    (fun m r => if bitAt (regionsOwned n p k) r then m else setBit m r) 0)) s
  let old := gddrShare s p
  let new := gddrShare n p
  if old == new then s1
  else
    (List.range 1024).foldl (fun x i =>
      let a := i * 0x40000000
      if old.1 ≤ a && a < old.2 && !(new.1 ≤ a && a < new.2) then flushRange x (0x20000000000 + a) (0x20000000000 + a + 0x40000000) else x) s1

/-- Every cache line homed in a partition's strips and GDDR share written back and dropped (08 R212). -/
def flushPartition (s : State) (p : Nat) : State :=
  let s1 := (List.range 12).foldl (fun x k => flushRegions x k (regionsOwned x p k)) s
  flushRange s1 (0x20000000000 + (gddrShare s p).1) (0x20000000000 + (gddrShare s p).2)

/-- The values of the commit for some sub-indices of the partitions. -/
def phaseValues (s : State) (subs : List Nat) : Store (List Byte) :=
  s.commit.values.filter (fun e => keyIndex e.1 / 16 == 0x300 && subs.contains (keySub e.1))

/-- Phase 5 for one value: an unload, or a load and its checks. -/
def loadValue (n : State) (pool : List (Nat × Nat)) (a : State × Option Nat) (e : Nat × List Byte) : State × Option Nat :=
  match a.2 with
  | some _ => a
  | none =>
    let p := keyIndex e.1 % 16
    let draft := keySub e.1 == 8
    let addr := leNat e.2
    let put (s : State) (m : Option Model) : State :=
      updPart s p (fun x => if draft then { x with draft := m }
        else { x with model := m, pool := (match m with | some y => poolFor s n p y pool | none => []) })
    if addr == 0 then (put a.1 none, none)
    else
      let vocab := if draft then some (match (getPart a.1 p).model with | some m => m.vocab | none => 0) else none
      let r := loadManifest a.1 n p addr vocab
      match r.2 with
      | none => (r.1, some e.1)
      | some m => (put r.1 (some m), none)

/-- Beads that a commit adds to a range are 0 with poison clear; watches on those it removes are cancelled (09 R235). -/
def changeBeads (old : State) (s : State) (p : Nat) : State :=
  [0, 1].foldl (fun x d =>
    let inOld (b : Nat) : Bool := beadOwned old p d b
    let inNew (b : Nat) : Bool := beadOwned x p d b
    let x1 := (List.range 4096).foldl (fun y b => if inNew b && !inOld b then setBead y d b ⟨0, false⟩ else y) x
    let gone (w : Watch) : Bool := w.die == d && inOld w.bead && !inNew w.bead
    (x1.watches.filter gone).foldl (fun y w => sendWatch y w 2) { x1 with watches := x1.watches.filter (fun w => !gone w) }) s

/-- Free contents of a store of `n` keys. -/
def freeStore {β : Type} [DecidableEq β] (d : β) (n : Nat) (f : Nat → β) : Store β :=
  ((List.range n).map (fun i => (i, f i))).filter (fun e => decide (e.2 ≠ d))

/-- The registers that a core loses in stop 2 and deeper: its accumulators read as unspecified (10 R265). -/
def loseAcc (s : State) (t : Nat) : State :=
  let x := freeNat s
  updCore (drew s) t (fun c => { c with acc := freeStore 0 262144 (fun i => BitVec.ofNat 32 (x >>> (32 * i))) })

/-- Those that it loses in stop 3: every register reads as unspecified (10 R265). -/
def loseCore (s : State) (t : Nat) : State :=
  let s1 := loseAcc s t
  let x := freeNat s1
  let part (k : Nat) : Nat := x >>> (2 ^ 20 * k)
  updCore (drew s1) t (fun c =>
    { c with v := freeStore 0 16384 (fun i => BitVec.ofNat 8 (part 0 >>> (8 * i))), m := freeStore false 65536 (fun i => bitAt (part 1) i),
             t := freeStore 0 2048 (fun i => BitVec.ofNat 64 (part 2 >>> (64 * i))),
             tile := freeStore 0 1024 (fun i => BitVec.ofNat 32 (part 3 >>> (32 * i))),
             a := freeStore 0 32 (fun i => BitVec.ofNat 64 (part 4 >>> (64 * i))),
             l := freeStore 0 8 (fun i => BitVec.ofNat 32 (part 5 >>> (32 * i))) })

/-- Cores that join a partition start from stop 3 (phase 6). -/
def joinCores (n : State) (s : State) (p : Nat) : State :=
  ((List.range 64).filter (fun t => bitAt (objNat n (0x3000 + p) 1) t && !bitAt (objNat s (0x3000 + p) 1) t)).foldl loseCore s

/-- Measurement 6 (19 R511, R512): the manifest headers of the resident models. -/
def modelDigest (s : State) : List Byte :=
  sha384 ((List.range 16).flatMap (fun p => match (getPart s p).model with | some m => m.header | none => List.replicate 64 0))

/-- Whether the commit rewrote strips of regions that a partition owns. -/
def restriped (s : State) (p : Nat) : Bool :=
  s.commit.stripped.any (fun e => regionsOwned s p e.1 &&& e.2 != 0)

/-- The partition table written, pools drawn from the regions as they now are, held partitions resumed (phase 7). -/
def lastPhase (e : PhaseEnv) (s : State) : State :=
  let tabled := phaseValues s [1, 2, 3, 4, 0xA]
  let s1 := takeValues s tabled
  let repool (x : State) (p : Nat) : State :=
    match (getPart x p).model with
    | some m =>
      if tabled.any (fun v => v.1 == objKey (0x3000 + p) 3) || restriped x p then updPart x p (fun y => { y with pool := poolFor x x p m e.pool }) else x
    | none => x
  let s2 := s1.commit.held.foldl repool s1
  let s3 := s2.commit.held.foldl (fun x p => updPart x p (fun y => { y with held := false, holdReached := false })) s2
  let s4 := { s3 with fw := { s3.fw with measures := s3.fw.measures.set 5 (modelDigest s3) } }
  finishCommit (updCommit s4 (fun c => { c with phase := 0, held := [] }))

/-- The action of the phase in progress, done, and the phase after it. -/
def runPhase (e : PhaseEnv) (s : State) : State :=
  let c := s.commit
  let n := withValues s c.values
  let next (x : State) : State := updCommit x (fun c => { c with phase := c.phase + 1 })
  match c.phase with
  | 1 =>
    let r := c.held.foldl (leavePlaces n) (s, e.room)
    if r.2 then next r.1 else startRollback r.1 2 0
  | 2 => next (c.held.foldl (flushLeaving n) s)
  | 3 =>
    let owned := c.values.any (fun v => keyIndex v.1 == 0x4040 && isPhased s v.1 v.2)
    if owned || (List.range 12).any (fun k => (getStack s k).stripOp.isSome) then s else next s
  | 4 =>
    let l := phaseValues s [6]
    next (takeValues (l.foldl (fun x v => flushPartition x (keyIndex v.1 % 16)) s) l)
  | 5 =>
    let l := phaseValues s [7, 8]
    let r := l.foldl (loadValue n e.pool) (s, none)
    match r.2 with
    | some k => startRollback r.1 4 k
    | none => next (takeValues r.1 l)
  | 6 =>
    let s1 := takeValues s (phaseValues s [0xD, 0xE])
    next (c.held.foldl (joinCores n) (c.held.foldl (changeBeads s) s1))
  | 7 => lastPhase e s
  | _ => s

/-- PHASE_COMPLETE (R380). -/
def execPhaseComplete (e : PhaseEnv) (s : State) : Res :=
  if isReady s && s.commit.state == 3 then .next (runPhase e s) else .next s

/-- SHADOW_CLEAR's effect (16 R453): the shadow copy is empty. -/
def clearShadow (s : State) : State := { s with staged := [] }

end Sys2Proof.Machine
end

