-- ==== Sys2Proof/Machine/Steps.lean ====
section
/-! DEFINITION. Steps of a partition: composing, sampling, proofs, records, cancellation and containment (12_serving_sessions.md
R322–R351, R363, 11 R284, R303, 18 R486–R492). -/

namespace Sys2Proof.Machine

open Sys2Proof

/-! ### Drawing a token (R332, R333) -/

/-- log2 e as R332 writes it. -/
def log2e : Num := num32 0x3FB8AA3B#32

/-- How many draws a token can take. -/
def tokenDraws (vocab : Nat) : Nat := 2 * vocab + 4

/-- The place in running sums of the first that passes a rounded threshold, if any. -/
def passes (cond : Nat) (factor : Num) (ws : List W32) : Option Nat :=
  let sums := (runningSums ws).1
  let th := rnd32 (numMul factor (num32 (sums.getLastD 0)))
  sums.findIdx? (fun x => condHolds cond (num32 x) th)

/-- The token at position `pos` of a session from the FP32 logits of the node before it; `n` names the first draw. Logits that the
environment does not give leave the token free. -/
def drawToken (n : Nat) (y : Session) (vocab : Nat) (logits : List W32) (pos : Nat) : Nat :=
  let l := logits.map num32
  let t := num32 y.temp
  if vocab == 0 || logits.length != vocab then Config.freeNat n % max 1 vocab
  else if numIsZero t then (secondary (argRow true 0 (indexed l)).1).toNat
  else
    let r := num32 (rcpOp n t).1
    let v := l.map (fun x => rnd32 (numMul x r))
    let q := num32 y.topp
    let byP := !numIsZero q && numLt q (.fin false 1 0)
    let kept := if y.topk != 0 then (ranked v).take y.topk else if byP then ranked v else indexed v
    let m := num32 (primary (rowstat (n + 1) log2e (kept.map (fun x => x.2))).1)
    let ws := (indexed kept).map (fun x =>
      (exp2Op (n + vocab + 2 + x.1) (rnd32 (numAdd (numMul log2e x.2.2) (numNeg m)))).1)
    let cut := if byP then (match passes 5 q ws with | some k => k + 1 | none => ws.length) else ws.length
    let draw := num32 (uniform32 y.key.toNat pos 0)
    match passes 4 draw (ws.take cut) with
    | some k => (kept.getD k (0, .nan)).1
    | none => ((kept.take cut).getLastD (0, .nan)).1

/-! ### Proof trees (R335–R339) -/

/-- Whether a root and drafted nodes make a tree that R335 and R336 grow: `most` nodes, and every level but the last one full. -/
def treeOk (c : CStep) (vocab most : Nat) (l : List DraftNode) : Bool :=
  let lv := levels l
  let kids (i : Nat) : List DraftNode := (l.drop 1).filter (fun d => d.parent == i)
  let wide (d : Nat) : Nat := (lv.filter (fun k => k == d)).length
  l.length == most && (List.range (lv.getLastD 0 - 1)).all (fun d => wide (d + 1) == c.branching * wide d) &&
  (indexed l).all (fun e => e.1 == 0 || (decide (e.2.parent < e.1) && decide (e.2.token < vocab))) &&
  (List.range (lv.length - 1)).all (fun i => decide (lv.getD i 0 ≤ lv.getD (i + 1) 0)) &&
  lv.all (fun d => decide (d ≤ c.depth)) &&
  (List.range l.length).all (fun i => decide ((kids i).length ≤ c.branching) && decide (((kids i).map (fun d => d.token)).Nodup))

/-- A number put in ascending order. -/
def natIns (n : Nat) : List Nat → List Nat
  | [] => [n]
  | m :: r => if n ≤ m then n :: m :: r else m :: natIns n r

/-- Different tokens drawn freely. -/
def freeTokens (n vocab : Nat) : Nat → List Nat
  | 0 => []
  | k + 1 =>
    let l := freeTokens n vocab k
    l ++ [(l.foldr natIns []).foldl (fun t x => if x ≤ t then t + 1 else t) (Config.freeNat (n + k) % max 1 (vocab - k))]

/-- Draws that a free tree takes: the children of 64 nodes, and the order of each level's candidates. -/
def treeDraws : Nat := 40000

/-- A tree grown level by level to `most` nodes (R336), its tokens and the order of a level's candidates free, as the draft model's
probabilities are when the environment does not give them: `last` are the nodes of the level before. -/
def growTree (n : Nat) (c : CStep) (vocab most : Nat) : Nat → List Nat → List DraftNode → List DraftNode
  | 0, _, l => l
  | fuel + 1, last, l =>
    let kids (i : Nat) : List DraftNode := (freeTokens (n + 8 * i) vocab (min c.branching vocab)).map (fun t => { token := t, parent := i })
    let level := (shuffle (n + 512 * (fuel + 1)) (last.flatMap kids)).take (most - l.length)
    if level.isEmpty then l else growTree n c vocab most fuel ((List.range level.length).map (fun i => l.length + i)) (l ++ level)

/-- The tree of a session in the step that starts: its pending token, and the drafted nodes when they make a tree. -/
def bindTree (n : Nat) (x : Part) (c : CStep) (drafts : List Draft) (h : Share) : Option Tree :=
  match sessionOf x h.handle, h.isPrefill || h.train with
  | some y, false =>
    let root : DraftNode := { token := y.pendingTok.getD 0, parent := 0xFFFF }
    let drafted := match drafts.find? (fun d => d.handle == h.handle) with | some d => d.nodes | none => []
    let vocab := match x.model with | some m => m.vocab | none => 0
    let nodes := if treeOk c vocab h.tokens (root :: drafted) then root :: drafted else growTree n c vocab h.tokens c.depth [0] [root]
    some { handle := h.handle, nodes := nodes, words := ancestorWords nodes }
  | _, _ => none

/-- Why a token is final (R334): 0 a stop id, 1 maxnew reached. -/
def finalBy (y : Session) (tok gen : Nat) : Option Nat :=
  if y.stops.contains tok then some 0 else if y.maxnew != 0 && gen == y.maxnew then some 1 else none

/-- The path that the target confirms from a node on (R338): tokens with whether each is an accepted node, and why the last is
final. `gen` counts the tokens of the turn before this one. -/
def walkTree (n : Nat) (y : Session) (vocab : Nat) (logits : List (List W32)) (nodes : List DraftNode) :
    Nat → Nat → Nat → Nat → List (Nat × Bool) × Option Nat
  | 0, _, _, _ => ([], none)
  | fuel + 1, node, pos, gen =>
    let t := drawToken (n + node * tokenDraws vocab) y vocab (logits.getD node []) (pos + 1)
    let fin := finalBy y t (gen + 1)
    match fin, (indexed nodes).find? (fun e => e.1 != 0 && e.2.parent == node && e.2.token == t) with
    | none, some c => let r := walkTree n y vocab logits nodes fuel c.1 (pos + 1) (gen + 1); ((t, true) :: r.1, r.2)
    | _, _ => ([(t, false)], fin)

/-! ### Composing a step (R325–R331) -/

/-- Whether one candidate comes before another (R328). -/
def dueBefore (a b : Session) : Bool :=
  if (a.due == 0) != (b.due == 0) then b.due == 0
  else if a.due != b.due then decide (a.due < b.due) else decide (a.order < b.order)

/-- A candidate put in order. -/
def dueIns (y : Session) : List Session → List Session
  | [] => [y]
  | z :: r => if dueBefore y z then y :: z :: r else z :: dueIns y r

/-- Candidates in order of due time. -/
def byDue (l : List Session) : List Session := l.foldr dueIns []

/-- The serving candidates: sessions in DECODE, and those in PREFILL with prompt tokens left. -/
def servable (y : Session) : Bool := y.state == .decode || (y.state == .prefill && decide (y.taken < y.prompt.length))

/-- Positions that a decode share can add: its root and one path below it. -/
def reachOf (c : CStep) (tokens : Nat) : Nat := min tokens (c.depth + 1)

/-- Positions that the steps committed and not complete can still add to a decode session. -/
def pendingReach (x : Part) (h : Nat) : Nat :=
  (x.committed.map (fun c => ((c.shares.filter (fun z => z.handle == h && !z.isPrefill && !z.train)).map (fun z => reachOf c z.tokens)).sum)).sum

/-- Nodes of the largest tree of a depth and a branching. -/
def treeSize (depth branching : Nat) : Nat := ((List.range (depth + 1)).map (fun i => branching ^ i)).sum

/-- What the walk over the candidates carries: the state, budget left, prefill tokens given, decode sessions taken, shares. -/
structure Compose where
  s : State
  left : Nat
  prefill : Nat
  decodes : Nat
  shares : List Share

/-- The tokens that a candidate takes (R329); 0 leaves it for a later step. -/
def takes (p : Nat) (c : CStep) (mixed : Bool) (a : Compose) (y : Session) : Nat :=
  let x := getPart a.s p
  if y.state == .decode then
    if decide (objNat a.s (0x5200 + p) 5 ≤ a.decodes) then 0
    else if y.proofs && x.draft.isSome then
      min (min (if y.nodes == 0 then c.nodeLimit else y.nodes) (treeSize c.depth c.branching)) a.left
    else min 1 a.left
  else
    let room := if mixed then min a.left (objNat a.s (0x5200 + p) 4 - a.prefill) else a.left
    min (y.prompt.length - y.taken) room

/-- What the pages of a candidate come to: all back in the stacks with its adapter, and enough for positions below `target`, in the
draft model's pages too when it uses proofs (R292, R300, R340). -/
def sharePages (p : Nat) (y : Session) (target : Nat) (s : State) : State × Grown :=
  let back := returnPages (returnAdapter s p y) p y.handle (y.pages ++ y.ahead ++ y.draftPages)
  let fuel := ceilDiv target 64 + 1
  if !back.2 then (back.1, .capacity)
  else
    let g := growPages p y.handle target fuel back.1
    match g.2 with
    | .ok =>
      if y.proofs && (getPart s p).draft.isSome then
        let d := growDraft p y.handle target fuel g.1
        (d.1, if d.2 then .ok else .capacity)
      else g
    | _ => g

/-- One candidate given its tokens and pages; without room it ends with LENGTH or CAPACITY (R292, R300, R322). -/
def giveShare (p : Nat) (c : CStep) (mixed : Bool) (a : Compose) (y : Session) : Compose :=
  let n := takes p c mixed a y
  if n == 0 then a
  else
    let isPre := y.state != .decode
    let target := if isPre then y.base + y.taken + n else y.cached + pendingReach (getPart a.s p) y.handle + reachOf c n
    let g := sharePages p y target a.s
    match g.2 with
    | .length => { a with s := endSession g.1 p y.handle stLength 0 }
    | .capacity => { a with s := endSession g.1 p y.handle stCapacity 0 }
    | .ok =>
      let share : Share := { handle := y.handle, turn := y.turn, tokens := n, isPrefill := isPre,
                             lastChunk := isPre && y.taken + n == y.prompt.length, train := false }
      let took (z : Session) : Session := { z with taken := if isPre then z.taken + n else z.taken, lastStep := some c.number }
      let left := a.left - n
      let prefill := if isPre then a.prefill + n else a.prefill
      let decodes := if isPre then a.decodes else a.decodes + 1
      { s := updSession g.1 p y.handle took, left := left, prefill := prefill, decodes := decodes, shares := a.shares ++ [share] }

/-- Training tokens of a job in steps committed and not complete. -/
def pendingTrain (x : Part) (h : Nat) : Nat :=
  (x.committed.map (fun c => ((c.shares.filter (fun z => z.handle == h && z.train)).map (fun z => z.tokens)).sum)).sum

/-- A training job given budget left over (R329, R363): at most to the end of an optimizer step. -/
def giveTrain (p : Nat) (c : CStep) (a : Compose) (y : Session) : Compose :=
  match y.job with
  | none => a
  | some j =>
    let t := j.done * j.batch + j.tokensDone + pendingTrain (getPart a.s p) y.handle
    let n := if decide (j.steps * j.batch ≤ t) then 0 else min a.left (j.batch - t % j.batch)
    if n == 0 then a
    else
      let share : Share := { handle := y.handle, turn := y.turn, tokens := n, isPrefill := false, lastChunk := false, train := true }
      { a with s := updSession a.s p y.handle (fun z => { z with lastStep := some c.number }), left := a.left - n,
               shares := a.shares ++ [share] }

/-- The values that the next step of a partition is committed under (R325, R364, 16 R455). -/
def stepFrame (s : State) (p : Nat) : CStep :=
  let x := getPart s p
  { number := x.stepNo, shares := [], intake := x.lastIntake, nodeLimit := objNat s (0x5200 + p) 6, depth := objNat s (0x5200 + p) 7,
    branching := objNat s (0x5200 + p) 8, sample := objNat s (0x5100 + p) 7, decay := BitVec.ofNat 32 (objNat s (0x5100 + p) 8),
    inStack := false }

/-- One step committed, unless no candidate takes a token. -/
def commitOne (s : State) (p : Nat) : State :=
  let c := stepFrame s p
  let x := getPart s p
  let serving := byDue (x.sessions.filter servable)
  let mixed := serving.any (fun y => y.state == .decode)
  let a0 : Compose := { s := s, left := objNat s (0x5200 + p) 3, prefill := 0, decodes := 0, shares := [] }
  let a1 := serving.foldl (giveShare p c mixed) a0
  let a2 := (byDue (x.sessions.filter (fun y => y.state == .training))).foldl (giveTrain p c) a1
  if a2.shares.isEmpty then a2.s
  else
    let path := choosePath a2.s a2.shares
    updPart path.1 p (fun y => { y with committed := y.committed ++ [{ c with shares := a2.shares, inStack := path.2 }], stepNo := y.stepNo + 1 })

/-- Steps committed until K are committed and not complete, or nothing is left to commit. -/
def commitSteps (p : Nat) : Nat → State → State
  | 0, s => s
  | fuel + 1, s => if (getPart s p).committed.length < objNat s 0x5000 7 then commitSteps p fuel (commitOne s p) else s

/-- Whether a session is a candidate for tokens (R328). -/
def candidate (y : Session) : Bool := servable y || y.state == .training

/-- The positions that a session's pages must cover for the steps committed to it. -/
def reachTarget (x : Part) (y : Session) : Nat :=
  if y.state == .decode then y.cached + pendingReach x y.handle else y.base + y.taken

/-- A session evicts at the boundary for the steps that the boundary commits: `x` is the partition as those steps leave it. -/
def evictAhead (p : Nat) (x : Part) (s : State) (y : Session) : State :=
  match sessionOf x y.handle with
  | none => s
  | some z =>
    if z.ended then s
    else
      let more := pagesNeeded (getPart s p) y (reachTarget x z)
      evictFor p y.handle more y.pages.length s

/-- Negatives discarded and spilled, idle adapters spilled, then pages at count 0 freed (11 R292 steps 5 and 6, R18). -/
def settleNodes (s : State) (p : Nat) : State :=
  let s1 := discardStale s p
  updPart (spillAdapters (spillNodes p (getPart s1 p).negatives.length s1) p) p freePages

/-- The commits of a boundary in the order of 11 R292: evictions for every step that the boundary will commit, negatives, freed pages,
and only then new pages. -/
def commitAll (s : State) (p : Nat) : State :=
  let ahead := getPart (commitSteps p 16 s) p
  let s1 := (byDue ((getPart s p).sessions.filter servable)).foldl (evictAhead p ahead) s
  commitSteps p 16 (settleNodes s1 p)

/-! ### Starting a step (R325, R331, R361) -/

/-- What a serving share presents: a prompt's next tokens, a pending token, or a tree (11 R277). -/
def presented (x : Part) (trees : List Tree) (z : Share) : Option Presented :=
  match sessionOf x z.handle, z.train with
  | some y, false =>
    if z.isPrefill then
      some { handle := z.handle, row := 0, pos := y.base + y.done, toks := (y.prompt.drop y.done).take z.tokens, nodes := [] }
    else
      let nodes := match trees.find? (fun t => t.handle == z.handle) with | some t => t.nodes | none => []
      some { handle := z.handle, row := 0, pos := y.cached, toks := nodes.map (fun d => d.token),
             nodes := if y.proofs && x.draft.isSome then nodes else [] }
  | _, _ => none

/-- What the training shares of a step present: the state, the segments, and the marks of their tokens. -/
abbrev TrainRead := State × List Presented × List (Nat × List Bool)

/-- A training share's tokens read from its dataset (R361): every stretch of a sequence is a linear segment whose first position is 0,
for the session holds no page (11 R278), and goes to a row of its own. A poisoned word contains the job (18 R486). -/
def readShare (p : Nat) (a : TrainRead) (z : Share) : TrainRead :=
  match z.train, (sessionOf (getPart a.1 p) z.handle).bind (fun y => y.job) with
  | true, some j =>
    let r := readData p ((z.tokens + 1) * (j.seqs + 2)) z.tokens a.1 j []
    let s1 := updSession r.1 p z.handle (fun y => { y with job := some r.2.1 })
    (if r.2.2.2 then contain s1 p (some z.handle) 1 0 else s1,
     a.2.1 ++ (indexed r.2.2.1).map (fun e => { handle := z.handle, row := e.1, pos := 0, toks := e.2.2.map (fun t => t.1), nodes := [] }),
     a.2.2 ++ [(z.handle, r.2.2.1.flatMap (fun e => e.2.map (fun t => t.2)))])
  | _, _ => a

/-- A dataset of the step lies where no read can go yet. -/
def dataHeld (s : State) (p : Nat) (c : CStep) : Bool :=
  c.shares.any (fun z => match z.train, (sessionOf (getPart s p) z.handle).bind (fun y => y.job) with
    | true, some j => accessHeld s j.next 4
    | _, _ => false)

/-- The pages that a step lists for its serving sessions, as numbers and as entries (11 R288). -/
def pageLists (s : State) (p : Nat) (c : CStep) : List (Nat × List Nat) × List (Nat × List Byte) :=
  let x := getPart s p
  let ys := (c.shares.filter (fun z => !z.train)).filterMap (fun z => sessionOf x z.handle)
  (ys.map (fun y => (y.handle, y.pages)),
   ys.map (fun y => (y.handle, y.pages.flatMap (fun g => pageEntry s (pageOf x g) (pageReadOnly x g)))))

/-- A committed step starts: its trees and tokens are bound, its batch rows and page lists built, and its work divided. -/
def startStep (s : State) (p : Nat) (drafts : List Draft) (c : CStep) : State × Flight :=
  let trees := (indexed c.shares).filterMap (fun e => bindTree (s.free + treeDraws * e.1) (getPart s p) c drafts e.2)
  let s := { s with free := s.free + treeDraws * c.shares.length }
  let rd := c.shares.foldl (readShare p) (s, c.shares.filterMap (presented (getPart s p) trees), [])
  let rows := buildRows rd.1.free rd.2.1
  let s1 := { rd.1 with free := rd.1.free + 3 * rows.1.length }
  let sp := match (getPart s1 p).model with
    | some m => c.shares.foldl (splitShare p c.inStack m) (s1, [])
    | none => (s1, [])
  let lists := pageLists s p c
  (sp.1, { step := c, start := s.now, trees := trees, rows := rows.1, segs := rows.2, marks := rd.2.2, lists := lists.1,
           entries := lists.2, splits := sp.2, plan := planOf c.inStack })

/-- Whether a partition may start a step at this boundary. -/
def mayStep (s : State) (p : Nat) : Bool :=
  let x := getPart s p
  isReady s && decide (p < 16) && x.flight.isNone && decide (x.boundary ≤ s.now) && x.cont.isEmpty && x.stop == 0 && s.power.stop == 0 &&
  inOrder s (partPlace p 2) true

/-- Whether it may commit further steps: it is not held, not contained, and stop 6 is not asked for (10 R268, 13 R379, 18 R488). -/
def mayCommit (s : State) (p : Nat) : Bool :=
  !(getPart s p).held && (getPart s p).contained.isNone && !s.power.draining && (getPart s p).model.isSome

/-- STEP_START (R325, R328–R331): steps are committed up to the window and the first of them starts. It waits while a training dataset
cannot be read (14 R386, 06 R163). -/
def execStepStart (p : Nat) (drafts : List Draft) (s : State) : Res :=
  if mayStep s p then
    let s0 := commitsUpTo s p
    let s1 := if mayCommit s0 p then commitAll s0 p else s0
    match (getPart s1 p).committed with
    | [] => .next s1
    | c :: r =>
      if dataHeld s1 p c then .next s1
      else
        let z := startStep s1 p drafts c
        .next (atPlace (updPart (stir z.1 p) p (fun x => { x with committed := r, flight := some z.2 })) (partPlace p 2))
  else .next s

/-! ### Containment (18 R486–R492) -/

/-- The detail word of a CONTAINED entry (R492). -/
def contDetail (cls scope cause code : Nat) : Nat := cls * 2 ^ 28 + scope * 2 ^ 26 + cause * 2 ^ 16 + code

/-- The pages that a session holds. -/
def heldPages (y : Session) : List Nat := y.pages ++ y.ahead ++ y.draftPages

/-- The sessions that hold a poisoned page. -/
def poisonHolders (x : Part) : List Nat :=
  (x.sessions.filter (fun y => (heldPages y).any (fun g => (pageOf x g).poisoned))).map (fun y => y.handle)

/-- A session cause carried to the sessions it covers (R486): a poisoned page to every session that lists it, poisoned weights to
every session holding the version. Which page a poisoned session read, and whether it was a page, are free choices. -/
def spreadCause (p : Nat) (a : State × List (Nat × Nat × Nat)) (c : Containment) : State × List (Nat × Nat × Nat) :=
  match c.handle with
  | none => a
  | some h =>
    match sessionOf (getPart a.1 p) h with
    | none => a
    | some y =>
      let l := a.2 ++ [(h, c.cause, c.code)]
      if c.cause == 3 || c.cause == 1 then
        let own := heldPages y
        let known := own.any (fun g => (pageOf (getPart a.1 p) g).poisoned)
        let s1 := if known || own.isEmpty || (c.cause == 1 && !freeBool a.1) then drew a.1
          else poisonPage (drew (drew a.1)) p (own.getD (freeNat (drew a.1) % own.length) 0)
        (s1, l ++ (poisonHolders (getPart s1 p)).map (fun k => (k, 3, c.code)))
      else if c.cause == 0xB then
        match y.slot with
        | none => (a.1, l)
        | some i =>
          let bad (v : Slot) : Slot := { v with poisoned := true, state := if v.state == 2 then 3 else v.state }
          let s1 := updPart a.1 p (fun x => { x with adapters := sMod Slot.init x.adapters i bad })
          (s1, l ++ (((getPart s1 p).sessions.filter (fun z => z.slot == some i)).map (fun z => (z.handle, 0xB, c.code))))
      else (a.1, l)

/-- What a boundary must contain: the partition's detail, if the partition is contained, and the details of sessions. The sessions
of `decided` have a CANCEL that the completing step decides: R351 ends them first, and the containment ends nothing (R490). -/
structure Found where
  whole : Option Nat
  parts : List (Nat × Nat)
  decided : List Nat

/-- The causes found, the first of each session and of the partition counting (R490). -/
def findCauses (s : State) (p : Nat) (l : List Containment) : State × Found :=
  let r := l.foldl (spreadCause p) (s, [])
  let whole := (l.find? (fun c => c.handle.isNone)).map (fun c => contDetail 3 1 c.cause c.code)
  let first (a : List (Nat × Nat)) (e : Nat × Nat × Nat) : List (Nat × Nat) :=
    if a.any (fun x => x.1 == e.1) then a else a ++ [(e.1, contDetail 3 0 e.2.1 e.2.2)]
  (r.1, { whole := whole, parts := r.2.foldl first [], decided := [] })

/-- Whether a session's outputs of this step are dropped. -/
def Found.hits (f : Found) (h : Nat) : Bool := f.whole.isSome || f.parts.any (fun e => e.1 == h)

/-- The end entry of a session, while it is not written, becomes CONTAINED (R490). -/
def turnEntry (s : State) (p h d : Nat) : State × Bool :=
  let mine (e : StatusEntry) : Bool := e.opcode == 0 && e.handle == h && e.status != stContained
  if (getPart s p).owed.any mine then
    (updPart s p (fun x => { x with owed := x.owed.map (fun e => if mine e then { e with status := stContained, detail := d } else e) }), true)
  else (s, false)

/-- One session contained (R487, R490): its end entry falls due, or its CANCEL is answered CONTAINED; whether anything ended. -/
def containSession (p : Nat) (a : State × Nat) (e : Nat × Nat) : State × Nat :=
  match sessionOf (getPart a.1 p) e.1 with
  | none => a
  | some y =>
    if y.ended then
      if y.state == .draining then (let r := turnEntry a.1 p e.1 e.2; (r.1, if r.2 then a.2 + 1 else a.2)) else a
    else
      let fin (z : Session) : Session :=
        { z with state := .draining, ended := true, final := some stContained, cancel := none, cancels := [], held := [] }
      let s1 := dropJob (updSession a.1 p e.1 fin) p y
      match y.cancel with
      | none => (oweEnd s1 p e.1 stContained e.2, a.2 + 1)
      | some c =>
        let ans (k : Nat × Nat × Nat) (st d : Nat) : StatusEntry :=
          { ord := k.2.2, status := st, opcode := 0x03, handle := e.1, tag := k.1, detail := d }
        (y.cancels.foldl (fun x k => owe x p (ans k stConflict 0)) (owe s1 p (ans c stContained e.2)), a.2 + 1)

/-- Every kernel and launch of a partition aborted (R83, R191). -/
def abortWork (s : State) (p : Nat) : State :=
  let mine (t : Nat) : Bool := match (getCore s t).kernel with | some k => k.pkt.partition == p | none => false
  let s1 := ((List.range 64).filter mine).foldl (fun x t => cancelWatch (updCore x t (fun c => stopCore c none true)) t) s
  let runs (n : Nat) : Bool :=
    let k := getStack s n
    match k.launch, k.ready with
    | some l, _ => l.record.partition == p
    | none, some l => l.record.partition == p
    | none, none => false
  ((List.range 12).filter runs).foldl abortLaunch s1

/-- Loads in LOADING stopped and answered CONTAINED (R488). -/
def stopLoads (s : State) (p d : Nat) : State :=
  ((getPart s p).adapters.filter (fun e => e.2.state == 1)).foldl (fun x e => loadAnswer (emptySlot x p e.1) p e.2 stContained d) s

/-- The containments of a boundary carried out (R487, R488), counted and shown in the hot registers (R482). -/
def carryOut (s : State) (p : Nat) (f : Found) : State :=
  let all := match f.whole with
    | some d => (getPart s p).sessions.map (fun (y : Session) => (y.handle, d))
    | none => f.parts
  let r := (all.filter (fun e => !f.decided.contains e.1)).foldl (containSession p) (s, 0)
  let s1 := r.1
  match f.whole with
  | none => if r.2 == 0 then s1 else setFaultBit (bump s1 0x4800 0x13 r.2) 2
  | some d =>
    if (getPart s p).contained.isSome then s1
    else
      let s2 := abortWork (stopLoads s1 p d) p
      let s3 := setFaultBit (bump (updPart s2 p (fun x => { x with contained := some d })) 0x4800 0x13 1) 2
      interrupt s3 0x6800 8

/-- Whether the containment of a partition must wait for the rollback of a phased commit (13 R381, 18 R490). -/
def waitsRollback (s : State) (p : Nat) (f : Found) : Bool :=
  f.whole.isSome && (getPart s p).held && (s.commit.state == 2 || s.commit.state == 3 || s.commit.state == 4)

/-- The containments found so far carried out at a boundary. A held partition's waits for the rollback of its commit, which is
immediate while no phase has begun. -/
def containNow (s : State) (p : Nat) (l : List Containment) (f : Found) : State :=
  if waitsRollback s p f && s.commit.state == 2 then
    carryOut (updPart (rollBack (startRollback s 5 0)) p (fun x => { x with cont := [] })) p f
  else if waitsRollback s p f then
    let s1 := updPart (carryOut s p { f with whole := none }) p (fun x => { x with cont := l.filter (fun c => c.handle.isNone) })
    if s.commit.state == 4 then s1 else startRollback s1 5 0
  else carryOut (updPart s p (fun x => { x with cont := [] })) p f

/-- A containment point with no step in flight: the next tick (R487). -/
def containAtTick (s : State) (p : Nat) : State :=
  let x := getPart s p
  let waiting := x.held && (s.commit.state == 4) && x.cont.all (fun c => c.handle.isNone)
  if x.flight.isSome || x.cont.isEmpty || waiting then s
  else
    let r := findCauses s p x.cont
    containNow r.1 p x.cont r.2

/-! ### The boundary (R322, R327, R357, 11 R292, R308, R310) -/

/-- Whether a session's last step is complete (R327). -/
def lastDone (x : Part) (y : Session) : Bool :=
  match y.lastStep, x.doneNo with
  | none, _ => true
  | some n, some d => decide (n ≤ d)
  | some _, none => false

/-- DRAINING sessions that have ended and whose last step is complete go FREE, dropping their references. -/
def releaseSessions (x : Part) : Part :=
  { x with sessions := x.sessions.filter (fun y => !(y.state == .draining && y.ended && lastDone x y)) }

/-- RETIRING slots that no session holds become EMPTY. -/
def emptyRetired (x : Part) : Part :=
  { x with adapters := x.adapters.filter (fun e => !(e.2.state == 3 && !(x.sessions.any (fun y => y.slot == some e.1)))) }

/-- The pages of a parked session spilled, those that no other session lists and no pinned node holds. -/
def spillParked (p : Nat) (s : State) (y : Session) : State :=
  let x := getPart s p
  let own := (heldPages y).filter (fun g => (pageOf x g).tier == 0 && listers x g == 1 && !pinnedPage x g)
  updSession (own.foldl (fun z g => (spillPage z p g).1) s) p y.handle (fun z => { z with parking := false })

/-- What every step boundary brings: releases, slots emptied, nodes of poisoned pages removed (11 R293, R487) and parked pages spilled.
What comes after the evictions of the boundary (11 R292) waits for the step that starts there, if a candidate is left. -/
def settle (s : State) (p : Nat) : State :=
  let s1 := updPart s p (fun x => dropPoisoned (emptyRetired (releaseSessions x)))
  let s2 := ((getPart s1 p).sessions.filter (fun y => y.parking)).foldl (spillParked p) s1
  if (getPart s2 p).sessions.any candidate && mayCommit s2 p then s2 else settleNodes s2 p

/-! ### Step records (R341–R347) -/

/-- A token entry. -/
def tokBytes (e : TokEntry) : List Byte :=
  [1#8] ++ natLe 1 e.flags ++ natLe 2 0 ++ natLe 4 e.handle ++ natLe 4 e.token ++ natLe 4 e.pos

/-- A TRAIN entry. -/
def trainBytes (e : Nat × Nat × W32) : List Byte := [3#8, 0#8, 0#8, 0#8] ++ natLe 4 e.1 ++ natLe 4 e.2.1 ++ natLe 4 e.2.2.toNat

/-- A status entry. -/
def statusBytes (e : StatusEntry) : List Byte :=
  [2#8] ++ natLe 1 e.status ++ natLe 1 e.opcode ++ [0#8] ++ natLe 4 e.handle ++ natLe 4 e.tag ++ natLe 4 e.detail

/-- The fields that every record of a step shares. -/
structure RecHead where
  step : Nat
  start : Nat
  intake : Nat
  only : Bool
  tokens : Nat
  sessions : Nat
  verified : Nat
  accepted : Nat

/-- Whether an entry's bytes are a token entry that is LATE. -/
def isLate (e : List Byte) : Bool := bytesAt e 0 1 == 1 && bitAt (bytesAt e 1 1) 3

/-- A record: header and entries (R341). -/
def recordOf (s : State) (p : Nat) (h : RecHead) (more : Bool) (l : List (List Byte)) : List Byte :=
  let flags := (if h.only then 1 else 0) + (if more then 2 else 0) + (if s.cad.lock == 3 then 4 else 0) + (if l.any isLate then 8 else 0)
  natLe 8 h.step ++ natLe 8 h.start ++ natLe 8 s.now ++ natLe 4 h.intake ++ natLe 2 l.length ++ natLe 1 p ++ natLe 1 flags
    ++ natLe 4 h.tokens ++ natLe 4 h.sessions ++ natLe 4 h.verified ++ natLe 4 h.accepted ++ natLe 8 (getPart s p).ring.seq
    ++ natLe 8 0 ++ l.flatten

/-- The entries of each record: at most 16,384 (R343). -/
def splitEntries (l : List (List Byte)) : List (List (List Byte)) := if l.isEmpty then [[]] else chunks 16384 l.length l

/-- Bytes of all the records that entries take. -/
def recordsSize (l : List (List Byte)) : Nat := 64 * (splitEntries l).length + 16 * l.length

/-- The records of a step, or of a status-only record, written in order. -/
def writeRecords (s : State) (p : Nat) (h : RecHead) (l : List (List Byte)) : State :=
  let parts := splitEntries l
  (indexed parts).foldl (fun x e => writeRing x p (recordOf x p h (decide (e.1 + 1 < parts.length)) e.2)) s

/-! ### Completing a step (R324, R338, R339, R345, R350, R351, R363) -/

/-- The step being completed: the state, its entries so far, and the sums of its record. -/
structure Work where
  s : State
  toks : List TokEntry
  trains : List (Nat × Nat × W32)
  tokens : Nat
  sessions : Nat
  verified : Nat
  accepted : Nat

/-- Token entries of a session that go out now: marked LATE and counted (R328, R346). -/
def deliver (p : Nat) (w : Work) (h : Nat) (l : List TokEntry) : Work :=
  match sessionOf (getPart w.s p) h with
  | none => w
  | some y =>
    let late := y.due != 0 && decide (y.due < w.s.now)
    let out := l.map (fun e => { e with flags := if late then setBit e.flags 3 else e.flags })
    let s1 := updSession w.s p h (fun z => { z with delivered := z.delivered + l.length })
    let s2 := bump s1 (0x5200 + p) 0xA l.length
    { w with s := if late then bump s2 (0x5200 + p) 0xD l.length else s2, toks := w.toks ++ out }

/-- The entries of delivered tokens from a position on; the first of the turn is FIRST, the last FINAL when it is final. -/
def tokEntries (h pos : Nat) (first fin : Bool) (l : List (Nat × Bool)) : List TokEntry :=
  (indexed l).map (fun e =>
    { flags := (if first && e.1 == 0 then 1 else 0) + (if fin && e.1 + 1 == l.length then 2 else 0) + (if e.2.2 then 4 else 0),
      handle := h, token := e.2.1, pos := pos + e.1 })

/-- A session's turn ends with a final token: IDLE when it keeps, else DRAINING (R322). -/
def endTurn (s : State) (p : Nat) (y : Session) (why : Nat) : State :=
  if y.keep then oweEnd (updSession s p y.handle (fun z => { z with state := .idle, final := some stDone })) p y.handle stDone why
  else endSession s p y.handle stDone why

/-- Whether a share still serves the turn it was committed for. -/
def shareLive (y : Session) (c : Share) : Bool :=
  y.turn == c.turn && !y.ended && y.final.isNone &&
  ((c.isPrefill && y.state == .prefill) || (!c.isPrefill && !c.train && y.state == .decode) || (c.train && y.state == .training) ||
   (y.state == .draining && y.cancel.isSome))

/-- Tokens of a session: held while a CANCEL waits for its decision, else delivered, with the turn's end and its shipment. -/
def yieldTokens (p : Nat) (w : Work) (y : Session) (pre : Bool) (l : List TokEntry) (fin : Option Nat) : Work :=
  if y.cancel.isSome then
    { w with s := updSession w.s p y.handle (fun z =>
      { z with held := z.held ++ l, final := if fin.isSome && !(pre && y.ship) then some stDone else none }) }
  else
    let w1 := deliver p w y.handle l
    let s1 := w1.s
    if pre && y.ship then
      let s2 := updSession s1 p y.handle (fun z => { z with state := .shipping })
      { w1 with s := match sessionOf (getPart s2 p) y.handle with | some z => shipSession s2 p z | none => s2 }
    else
      match fin with
      | some why => { w1 with s := endTurn s1 p y why }
      | none => { w1 with s := updSession s1 p y.handle (fun z => { z with state := .decode }) }

/-- A session after tokens of a step: its history, its counts and its pending token. -/
def afterTokens (cached : Nat) (l : List (Nat × Bool)) (z : Session) : Session :=
  { z with cached := cached, history := z.history ++ l.map (fun e => (e.1, false)), generated := z.generated + l.length,
           pendingTok := (l.getLast?).map (fun e => e.1) }

/-- The keys and values of the step's tokens: those that the environment gives, and free bytes for the others. -/
def rowBytes (n : Nat) (m : Model) (draft : Bool) (f : Flight) (r : StepResult) : List KvBytes :=
  (f.segs.flatMap (fun sg => (List.range sg.toks.length).map (fun i => sg.first + i))).map (fun i =>
    match r.kv.find? (fun e => e.token == i && e.draft == draft && e.bytes.length == tokenBytes m) with
    | some e => e
    | none => { token := i, draft := draft, bytes := natLe (tokenBytes m) (Config.freeNat (n + i)) })

/-- One token of the step written to the page of a list that holds its position (11 R281, R289): its place in the rows, its id and its
position. -/
def landToken (p : Nat) (m : Model) (kv : List KvBytes) (pages : List Nat) (s : State) (e : Nat × Nat × Nat) : State :=
  match slotOf (getPart s p) pages e.2.2, kv.find? (fun b => b.token == e.1) with
  | some g, some b => writeToken s m (pageOf (getPart s p) g.1) g.2 e.2.1 e.2.2 b.bytes
  | _, _ => s

/-- Tokens of a session written to its pages, and to the draft model's (12 R340). -/
def landTokens (p : Nat) (kv : List KvBytes) (y : Session) (l : List (Nat × Nat × Nat)) (s : State) : State :=
  let x := getPart s p
  let put (m : Option Model) (draft : Bool) (pages : List Nat) (a : State) : State :=
    match m with | some m => l.foldl (landToken p m (kv.filter (fun b => b.draft == draft)) pages) a | none => a
  put x.draft true y.draftPages (put x.model false (y.pages ++ y.ahead) s)

/-- The tokens of a step landed: written to the pages, the cached count and the fills raised, WB over the pages that filled (11 R289),
and these registered at the boundary (11 R308). -/
def landStep (p : Nat) (kv : List KvBytes) (y : Session) (cached : Nat) (l : List (Nat × Nat × Nat)) (s : State) : State :=
  let s1 := updSession (landTokens p kv y l s) p y.handle (fun z => { z with cached := cached })
  let s2 := updPart s1 p (fun x => match sessionOf x y.handle with | some z => fillPages x z | none => x)
  let full (x : Part) (g : Nat) : Bool := (pageOf x g).fill == 64
  let new := (heldPages y).filter (fun g => full (getPart s2 p) g && !full (getPart s p) g)
  registerPages (new.foldl (fun x g => cleanPage x (pageOf (getPart x p) g)) s2) p y.handle y.cached

/-- Where a session's segment starts among the step's tokens. -/
def segStart (f : Flight) (h : Nat) : Nat := match f.segs.find? (fun sg => sg.handle == h) with | some sg => sg.first | none => 0

/-- A prefill chunk complete; the last one samples the turn's first token (R330). -/
def finishPrefill (p : Nat) (f : Flight) (r : StepResult) (kv : List KvBytes) (w : Work) (y : Session) (c : Share) : Work :=
  let cached := y.base + y.done + c.tokens
  let toks := (indexed ((y.prompt.drop y.done).take c.tokens)).map (fun e => (segStart f y.handle + e.1, e.2, y.base + y.done + e.1))
  let s2 := landStep p kv y cached toks (updSession w.s p y.handle (fun z => { z with done := z.done + c.tokens }))
  let w1 := { w with s := s2, tokens := w.tokens + c.tokens, sessions := w.sessions + 1 }
  if !c.lastChunk then w1
  else
    let vocab := match (getPart s2 p).model with | some m => m.vocab | none => 0
    let logits := match r.logits.find? (fun e => e.1 == y.handle) with | some e => e.2.getD 0 [] | none => []
    let pos := y.history.length
    let t := drawToken s2.free y vocab logits pos
    let fin := finalBy y t (y.generated + 1)
    let s3 := updSession { s2 with free := s2.free + tokenDraws vocab } p y.handle (afterTokens cached [(t, false)])
    yieldTokens p { w1 with s := s3 } y true (tokEntries y.handle pos true fin.isSome [(t, false)]) fin

/-- The nodes of a confirmed path: the root and, for each accepted token, the child that carries it. -/
def pathNodes (nodes : List DraftNode) : Nat → List Nat → List Nat
  | node, [] => [node]
  | node, t :: l =>
    match (indexed nodes).find? (fun e => e.1 != 0 && e.2.parent == node && e.2.token == t) with
    | some c => node :: pathNodes nodes c.1 l
    | none => [node]

/-- A decode share complete: the confirmed path is delivered and written to the pages (R338, R339). -/
def finishDecode (p : Nat) (f : Flight) (r : StepResult) (kv : List KvBytes) (w : Work) (y : Session) : Work :=
  let vocab := match (getPart w.s p).model with | some m => m.vocab | none => 0
  let nodes := match f.trees.find? (fun t => t.handle == y.handle) with
    | some t => t.nodes
    | none => [{ token := y.pendingTok.getD 0, parent := 0xFFFF }]
  let logits := match r.logits.find? (fun e => e.1 == y.handle) with | some e => e.2 | none => []
  let pos := y.history.length
  let walk := walkTree w.s.free y vocab logits nodes nodes.length 0 (pos - 1) y.generated
  let acc := walk.1.length - 1
  let cached := y.cached + 1 + acc
  let path := pathNodes nodes 0 ((walk.1.take acc).map (fun e => e.1))
  let toks := (indexed path).map (fun e => (segStart f y.handle + e.2, (nodes.getD e.2 { token := 0, parent := 0 }).token, y.cached + e.1))
  let s1 := landStep p kv y cached toks { w.s with free := w.s.free + nodes.length * tokenDraws vocab }
  let s2 := updSession s1 p y.handle (afterTokens cached walk.1)
  let w1 := { w with s := s2, tokens := w.tokens + 1 + acc, sessions := w.sessions + 1, verified := w.verified + (nodes.length - 1),
                     accepted := w.accepted + acc }
  yieldTokens p w1 y false (tokEntries y.handle pos false walk.2.isSome walk.1) walk.2

/-- Every parameter of a job updated at the end of an optimizer step, the rows that its forward passes saved given up (R362). -/
def trainUpdate (s : State) (p : Nat) (h : Nat) (r : StepResult) (j : Job) : State × Job :=
  let grads := match r.grads.find? (fun e => e.1 == h) with | some e => e.2 | none => []
  let u := match (getPart s p).model with | some m => optimizerStep s m j grads | none => (s, j)
  (u.1, { u.2 with saved := [] })

/-- The slot of a finished job: the master copy in BF16, with the job's shape (R363). -/
def trainedSlot (x : Part) (j : Job) (v : Slot) : Slot :=
  let count := match x.model with | some m => (paramInputs j.rank (adapterShapes m j.modules)).length | none => 0
  { v with rank := j.rank, modules := j.modules, fmt := 1, alpha := j.alpha, payload := masterPayload count j.x }

/-- Training tokens complete (R362, R363): the rows that the forward pass saved are kept for the backward pass (11 R311), and the tokens
that count go into the loss; an optimizer step may end, be reported, and end the job. -/
def finishTrain (p : Nat) (f : Flight) (r : StepResult) (at' : Attended) (w0 : Work) (y : Session) (c : Share) (j0 : Job) : Work :=
  let t := trainLoss f r y.handle w0.s
  let w := { w0 with s := t.1 }
  let j := { j0 with saved := j0.saved ++ (at'.saved.filter (fun e => e.1 == y.handle)).map (fun e => e.2),
                     counted := j0.counted + t.2.1, ce := j0.ce ++ t.2.2 }
  let sum := j.tokensDone + c.tokens
  if decide (sum < j.batch) then
    { w with s := updSession w.s p y.handle (fun z => { z with job := some { j with tokensDone := sum } }) }
  else
    let done := j.done + 1
    let u := trainUpdate w.s p y.handle r j
    let j1 := { u.2 with tokensDone := sum - j.batch, done := done, counted := 0, ce := [] }
    let s1 := bump (updSession u.1 p y.handle (fun z => { z with job := some j1 })) (0x5800 + p) 4 1
    let loss := jobLoss s1.free j ((r.loss.find? (fun e => e.1 == y.handle)).map (fun e => e.2))
    let s2 := drew s1
    let w1 := { w with s := s2, trains := if j.report != 0 && done % j.report == 0 then w.trains ++ [(y.handle, done, loss)] else w.trains }
    if done == j.steps && y.cancel.isNone then
      let s3 := updPart s2 p (fun x => slotReadyNow x j.slot (trainedSlot x j1 (sGet Slot.init x.adapters j.slot)))
      { w1 with s := endSession s3 p y.handle stDone j.version }
    else w1

/-- Whether this step's outputs of a session are dropped (R487, R490): a session whose CANCEL this step decides is not ended by the
containment of its partition, and its outputs stand unless a cause found them. -/
def dropsOutput (found : Found) (y : Session) : Bool :=
  if found.decided.contains y.handle then found.parts.any (fun e => e.1 == y.handle) else found.hits y.handle

/-- One share of the step complete; the outputs of a session that has ended or is contained are dropped. -/
def finishShare (p : Nat) (f : Flight) (r : StepResult) (kv : List KvBytes) (at' : Attended) (found : Found) (w : Work) (c : Share) : Work :=
  match sessionOf (getPart w.s p) c.handle with
  | none => w
  | some y =>
    if dropsOutput found y || !shareLive y c then w
    else if c.isPrefill then finishPrefill p f r kv w y c
    else if c.train then (match y.job with | some j => finishTrain p f r at' w y c j | none => w)
    else finishDecode p f r kv w y

/-- A share put in handle order. -/
def shareIns (c : Share) : List Share → List Share
  | [] => [c]
  | d :: r => if c.handle ≤ d.handle then c :: d :: r else d :: shareIns c r

/-- A CANCEL decided at the completion of its deciding step (R351). -/
def decideCancel (p n : Nat) (w : Work) (y : Session) : Work :=
  match y.cancel with
  | none => w
  | some c =>
    if decide (n < c.2.1) then w
    else
      let closed (z : Session) : Session := { z with ended := true, cancel := none, cancels := [], held := [] }
      let ans (k : Nat × Nat × Nat) (st d : Nat) : StatusEntry :=
        { ord := k.2.2, status := st, opcode := 0x03, handle := y.handle, tag := k.1, detail := d }
      if y.final == some stDone then
        let w1 := deliver p w y.handle y.held
        let why := match y.held.getLast? with | some e => if y.stops.contains e.token then 0 else 1 | none => 0
        let done : StatusEntry := { ord := c.2.2, status := stDone, opcode := 0, handle := y.handle, tag := 0, detail := why }
        let s1 := owe (owe (updSession w1.s p y.handle closed) p done) p (ans c stAlreadyDone 0)
        let late (k : Nat × Nat × Nat) : Bool := decide (n < k.2.1)
        let s2 := (y.cancels.filter (fun k => !late k)).foldl (fun x k => owe x p (ans k stAlreadyDone 0)) s1
        let wait := (y.cancels.filter late).map (fun k => (k.2.1, ans k stAlreadyDone 0))
        { w1 with s := updPart s2 p (fun x => { x with deferred := x.deferred ++ wait }) }
      else
        let s1 := dropJob (updSession w.s p y.handle (fun z => { closed z with final := some stCancelled })) p y
        let s2 := owe s1 p (ans c stCancelled y.delivered)
        { w with s := y.cancels.foldl (fun x k => owe x p (ans k stConflict 0)) s2 }

/-- The answers to CANCELs that came after a session was done, due at their deciding steps. -/
def releaseDeferred (s : State) (p n : Nat) : State :=
  let l := (getPart s p).deferred
  (l.filter (fun e => decide (e.1 ≤ n))).foldl (fun x e => owe x p e.2)
    (updPart s p (fun x => { x with deferred := l.filter (fun e => decide (n < e.1)) }))

/-- Step counts of the sessions of a step, and the pages that the step read for those that sample in it (11 R303, R304). -/
def sampleScores (s : State) (p : Nat) (f : Flight) (at' : Attended) : State :=
  let c := f.step
  let served := (c.shares.filter (fun z => !z.train)).map (fun z => z.handle)
  let s1 := served.foldl (fun x h => updSession x p h (fun y => { y with steps := y.steps + 1 })) s
  let due := (getPart s1 p).sessions.filter (fun y => served.contains y.handle && c.sample != 0 && y.steps % c.sample == 0)
  match (getPart s1 p).model with
  | some m =>
    if m.kvclass == 2 then due.foldl (fun x y => (listedPages f y.handle).foldl (samplePage p f m at' y.handle y.steps) x) s1 else s1
  | none => s1

/-- Whether work of a partition's step still runs (R324): a kernel, a packet that waits, or a launch. -/
def workRuns (s : State) (p : Nat) : Bool :=
  s.cores.any (fun e => (match e.2.kernel with | some k => k.pkt.partition == p | none => false) || e.2.pend.any (fun k => k.partition == p)) ||
  s.prara.any (fun e =>
    (match e.2.launch with | some l => l.record.partition == p | none => false) ||
    (match e.2.ready with | some l => l.record.partition == p | none => false) ||
    e.2.seq.any (fun o => match o with | .launch l => l.partition == p | .load _ _ _ q => q == p))

/-- The causes that a step's result may report (R486). -/
def stepCause (c : Nat) : Bool := [1, 2, 3, 8, 0xB].contains c

/-- The keys and values of every token of the step, of the resident and the draft model. -/
def stepBytes (s : State) (p : Nat) (f : Flight) (r : StepResult) : State × List KvBytes :=
  let n := f.rows.flatten.length
  let of (k : Nat) (draft : Bool) (m : Option Model) : List KvBytes := match m with | some m => rowBytes (s.free + k * n) m draft f r | none => []
  ({ s with free := s.free + 2 * n }, of 0 false (getPart s p).model ++ of 1 true (getPart s p).draft)

/-- The work of a completed step: its attention, outputs, decisions, containments and scores; the records are still to be written. -/
def completeWork (s : State) (p : Nat) (f : Flight) (r : StepResult) : Work :=
  let n := f.step.number
  let told : List Containment :=
    (r.faults.filter (fun e => stepCause e.cause)).map (fun e => { handle := e.handle, cause := e.cause, code := e.code })
  let kv := stepBytes s p f r
  let at' := match (getPart s p).model with
    | some m => attendStep p f m r kv.2 kv.1
    | none => { s := kv.1, heads := [], masses := [], saved := [] }
  let s0 := updPart at'.s p (fun x => { x with heads := at'.heads })
  let l := (getPart s0 p).cont ++ told
  let c0 := findCauses s0 p l
  let here (y : Session) : Bool := match y.cancel with | some k => decide (k.2.1 ≤ n) | none => false
  let c := (c0.1, { c0.2 with decided := ((getPart s p).sessions.filter here).map (fun (y : Session) => y.handle) })
  let w0 : Work := { s := c.1, toks := [], trains := [], tokens := 0, sessions := 0, verified := 0, accepted := 0 }
  let w1 := (f.step.shares.foldr shareIns []).foldl (finishShare p f r kv.2 at' c.2) w0
  let w2 := (getPart w1.s p).sessions.foldl (decideCancel p n) w1
  let s3 := containNow (sampleScores (releaseDeferred w2.s p n) p f at') p l c.2
  { w2 with s := s3 }

/-- Token entries in ascending handle, each session's in ascending position (R344). -/
def sortToks (l : List TokEntry) : List TokEntry :=
  let put (e : TokEntry) (m : List TokEntry) : List TokEntry :=
    let before (x : TokEntry) : Bool := decide (x.handle < e.handle) || (x.handle == e.handle && decide (x.pos < e.pos))
    m.filter before ++ e :: m.filter (fun x => !before x)
  l.foldr put []

/-- STEP_COMPLETE (R324): the step's outputs, its record, and the boundary that follows. While the record does not fit the ring or
the link is down, the step is not complete (14 R386, R404). -/
def execStepComplete (p : Nat) (r : StepResult) (s : State) : Res :=
  match isReady s && decide (p < 16) && hasRing s p && !workRuns s p, (getPart s p).flight with
  | true, some f =>
    let w := completeWork s p f r
    let owed := (getPart w.s p).owed
    let l := (sortToks w.toks).map tokBytes ++ w.trains.map trainBytes ++ owed.map statusBytes
    if !recordRoom s p (recordsSize l) then .next (countWait s p)
    else
      let h : RecHead := { step := f.step.number, start := f.start, intake := f.step.intake, only := false, tokens := w.tokens,
                           sessions := w.sessions, verified := w.verified, accepted := w.accepted }
      let s1 := writeRecords (updPart w.s p (fun x => { x with owed := [] })) p h l
      let s2 := bump (bump (bump s1 (0x5200 + p) 9 1) (0x5200 + p) 0xB w.verified) (0x5200 + p) 0xC w.accepted
      let fin (x : Part) : Part :=
        { x with flight := none, doneNo := some f.step.number, idleSince := s.now, boundary := s.now + 1, tokensSince := x.tokensSince + w.toks.length }
      .next (settle (updPart s2 p fin) p)
  | _, _ => .next s

/-- STATUS_ONLY_RECORD (R342): answers and end entries due with no step in flight. Its start and intake fields, and its step number
before any step, are free values. -/
def execStatusOnlyRecord (p : Nat) (s : State) : Res :=
  let x := getPart s p
  if isReady s && decide (p < 16) && hasRing s p && x.flight.isNone && !x.owed.isEmpty then
    let l := x.owed.map statusBytes
    if !recordRoom s p (recordsSize l) then .next (countWait s p)
    else
      let h : RecHead := { step := x.doneNo.getD (Config.freeNat s.free), start := Config.freeNat (s.free + 1),
                           intake := Config.freeNat (s.free + 2), only := true, tokens := 0, sessions := 0, verified := 0, accepted := 0 }
      .next (writeRecords (updPart { s with free := s.free + 3 } p (fun x => { x with owed := [] })) p h l)
  else .next s

/-! ### Resuming after containment (18 R486, R488) -/

/-- Whether a partition owns a core of a die or a region of a stack. -/
def usesDie (s : State) (p d : Nat) : Bool := (List.range 32).any (fun t => bitAt (objNat s (0x3000 + p) 1) (32 * d + t))

/-- Whether a cause's Clears condition holds. -/
def causeClear (s : State) (p cause : Nat) : Bool :=
  if cause == 6 then linkUp s
  else if cause == 7 then
    [0, 1].all (fun d => !(usesDie s p d && dieTripped s d)) &&
    (List.range 12).all (fun n => regionsOwned s p n == 0 || !stackTripped s n)
  else true

/-- PARTITION_RESUME: every session FREE, no kernel or launch left, the cause clear. -/
def execPartitionResume (p : Nat) (s : State) : Res :=
  let x := getPart s p
  match x.contained with
  | some d =>
    if isReady s && decide (p < 16) && x.sessions.isEmpty && !workRuns s p && causeClear s p (fld d 23 16) then
      .next (updPart s p (fun x => { x with contained := none }))
    else .next s
  | none => .next s

end Sys2Proof.Machine
end

