-- ==== Sys2Proof/Machine/Power.lean ====
section
/-! DEFINITION. The cadence tick and what runs against it: leases, regulators, telemetry, and the power stops
(10_cadence_and_power.md R252–R276, 13 R376, 17 R465, R468–R470). -/

namespace Sys2Proof.Machine

open Sys2Proof

/-! ### Whether units are idle (R261, R264) -/

/-- The tensor cores that a partition owns. -/
def coresOf (s : State) (p : Nat) : List Nat := bitsOf 64 (objNat s (0x3000 + p) 1)

/-- A core has no pending work packet and its queues are empty. -/
def coreIdle (c : Core) : Bool := c.pend.isEmpty && [0, 1, 2, 3, 4, 5].all (fun q => (queueOf c q).isEmpty)

/-- The conditions of stop 1 for all of a partition's cores. -/
def restsIn1 (s : State) (p : Nat) : Bool := (coresOf s p).all (fun t => coreIdle (getCore s t))

/-- Those of stops 2 and 3: no step in flight and no work of the partition running. -/
def restsIn3 (s : State) (p : Nat) : Bool :=
  (getPart s p).flight.isNone && !workRuns s p && restsIn1 s p && (coresOf s p).all (fun t => !(getCore s t).lent)

/-- The stop of a partition (0x2011): 2 or 3, else 1 when every core it owns is in stop 1. -/
def partStop (s : State) (p : Nat) : Nat :=
  if (getPart s p).stop != 0 then (getPart s p).stop
  else
    let l := (coresOf s p).filter (corePresent s)
    if !l.isEmpty && l.all (fun t => (getCore s t).gated) then 1 else 0

/-- Partitions that own a tensor core. -/
def owners (s : State) : List Nat := (List.range 16).filter (fun p => objNat s (0x3000 + p) 1 != 0)

/-- Whether a command of a partition is pending or admitted and not yet ended: in the queue, before its answer is recorded, a session with
a turn open, a job, a shipment or a cancellation, an adapter on its way. -/
def commandsOpen (s : State) (p : Nat) : Bool :=
  let x := getPart s p
  let open' (y : Session) : Bool := match y.state with | .idle => !y.cancels.isEmpty | .parked => !y.cancels.isEmpty | _ => true
  !x.queue.isEmpty || !x.waits.isEmpty || !x.owed.isEmpty || !x.deferred.isEmpty || !x.committed.isEmpty || x.sessions.any open' ||
  x.adapters.any (fun e => e.2.state == 1)

/-- Conditions of stops 4 and 5 besides every partition's stop 3: no command pending or admitted, no HDM range exposed, Span idle. -/
def deviceRests (s : State) : Bool :=
  (List.range 16).all (fun p => !commandsOpen s p && restsIn3 s p) &&
  (hdmRanges s).isEmpty && (hdmGddr s).1 == (hdmGddr s).2 && s.spanHeld.isEmpty &&
  (List.range 9).all (fun n => let q := getPort s n; q.queue.isEmpty && q.rx.isEmpty && q.unacked.isEmpty)

/-- The latency tolerance of a partition. -/
def tolerance (s : State) (p : Nat) : Nat := objNat s 0x2010 (p + 1)

/-- The device-wide latency tolerance (R260): the least over the partitions that own a core; no bound when there is none. -/
def deviceTolerance (s : State) : Nat := ((owners s).map (tolerance s)).foldl min 0xFFFFFFFF

/-- The device stop of 0x2000:03: 4 or 5, else the least stop of any partition. -/
def deviceStop (s : State) : Nat :=
  if s.power.stop != 0 then s.power.stop else (List.range 16).foldl (fun m p => min m (partStop s p)) 3

/-- The typical exit latency of a stop, in µs (R264). -/
def exitLatency (n : Nat) : Nat :=
  match n with | 1 => 2 | 2 => 20 | 3 => 150 | 4 => 4000 | 5 => 25000 | _ => 0

/-- The deepest stop, from one down, whose exit latency a tolerance meets. -/
def deepestFor (tol : Nat) : Nat → Nat
  | 0 => 0
  | n + 1 => if exitLatency (n + 1) ≤ tol then n + 1 else deepestFor tol n

/-! ### The tick (R252, R256, R257) -/

/-- The counter at a new value, no event of R259 performed there yet. -/
def advanceTo (s : State) (v : Nat) : State := { s with prev := s.now, now := v, order := 0 }

/-- The counter's advance: by 1, or by the whole error at a forward step, which 0x2400:0B counts. -/
def advanceCounter (s : State) : State :=
  let s1 := advanceTo s (s.now + 1 + s.cad.stepBy)
  if s.cad.stepBy == 0 then s1 else bump { s1 with cad := { s1.cad with stepBy := 0 } } 0x2400 0xB 1

/-- The window of corrected errors starts anew at a multiple of its length (17 R465). -/
def startWindow (s : State) : State :=
  if dueEvery s (objNat s 0x4800 2) then { s with windowErrs := 0, windowCrossed := false } else s

/-- The last tick at which each core, each partition and the device were not idle. -/
def noteIdle (s : State) : State :=
  let s1 := ((List.range 64).filter (fun t => !coreIdle (getCore s t))).foldl (fun x t => updCore x t (fun c => { c with restSince := s.now })) s
  let s2 := ((List.range 16).filter (fun p => !restsIn3 s p)).foldl (fun x p => updPart x p (fun y => { y with idleSince := s.now })) s1
  if deviceRests s then s2 else { s2 with power := { s2.power with idleSince := s.now } }

/-- What a tick brings to a partition at a step boundary: containments found, and the boundary's own events. -/
def tickPart (s : State) (p : Nat) : State := if (getPart s p).flight.isSome then s else settle (containAtTick s p) p

/-- A tick: what of the last one's staged commits no later event of its order has brought on (log entry 90), then the counter's advance
and what a tick brings. The events of R259 that have rows of their own follow as commands. -/
def tick (advance : State → State) (s : State) : State :=
  match s.boot with
  | .ready => noteIdle ((List.range 16).foldl tickPart (startWindow (advance (applyDue (commitsUpTo s 15)))))
  | .off => s
  | .reset => s
  | .halted => s
  | _ => advance s

/-- CADENCE_TICK: the counter advances. While it follows pulses, the tick that ends a group of them comes with their last edge. -/
def execCadenceTick (s : State) : Res := if onPulses s && decide (groupEnd s ≤ s.now + 1) then .next s else .next (tick advanceCounter s)

/-- CADENCE_PULSE (R253–R255): an edge, the given time after the last. Every N pulses make a group; of a locked source it ends the tick
that takes the counter to D ticks past the group's start. -/
def execCadencePulse (periodPs : Nat) (s : State) : Res :=
  let c := s.cad
  if !isReady s || !(sourceSelected s == 0 || sourceSelected s == 2) || !pulseOk periodPs then .next s
  else if c.edges + 1 < pulsesN s then .next { s with cad := { c with edges := c.edges + 1, groupPs := c.groupPs + periodPs } }
  else
    let s1 := groupDone s (c.groupPs + periodPs)
    if onPulses s && onPulses s1 then
      let v := max (groupEnd s) s.now
      let s2 := if s.now < v then tick (fun x => advanceTo x v) s1 else s1
      .next { s2 with cad := { s2.cad with groupFrom := v } }
    else .next s1

/-! ### Power leases (R271–R274) -/

/-- Partitions with a step in flight. -/
def stepping (s : State) : List Nat := (List.range 16).filter (fun p => (getPart s p).flight.isSome)

/-- What remains of the cap after the reservations and the draw of unowned units. -/
def capLeft (s : State) (unowned : Nat) : Nat :=
  objNat s 0x2000 1 - ((List.range 16).map (fun p => objNat s 0x2020 (p + 1))).sum - unowned

/-- The cores of a partition that run: in stop 0 (R264). -/
def runningCores (s : State) (p : Nat) : List Nat :=
  if (getPart s p).stop != 0 then [] else (coresOf s p).filter (fun t => corePresent s t && !(getCore s t).gated)

/-- A partition's budget, its core budget, which is what the draw of its stacks, cache and links leaves, and the equal shares of its
running cores. A throttled core's steps are free from 1 to 10: the rule states no power of a clock. -/
def giveBudget (m : PowerEnv) (s : State) (p : Nat) : State :=
  let share := if (getPart s p).flight.isSome then capLeft s m.unowned / (stepping s).length else 0
  let b := objNat s 0x2020 (p + 1) + share
  let core := b - m.draws.getD p 0
  let l := runningCores s p
  let give (x : State) (t : Nat) : State :=
    updCore (drew x) t (fun c => { c with share := if l.contains t then core / max 1 l.length else 0, draw := m.cores.getD t 0,
                                          steps := 1 + freeNat x % 10 })
  updPart ((coresOf s p).foldl give s) p (fun x => { x with budget := b, coreBudget := core })

/-- Cores of a partition that neither lend nor wait (R274). -/
def takers (s : State) (p : Nat) : List Nat := (runningCores s p).filter (fun t => !(getCore s t).lent && !waiting (getCore s t))

/-- The budget of a core: its share, less what it lends but for its clock-gated draw, and its equal part of what the others of its
partition lend (R274). A reclaim restores the shares of R272. -/
def coreBudgetOf (s : State) (t : Nat) : Nat :=
  let c := getCore s t
  match ownerOfCore s t with
  | none => 0
  | some p =>
    let l := takers s p
    let lent := (((coresOf s p).filter (fun u => (getCore s u).lent)).map (fun u => (getCore s u).share - s.power.gatedDraw)).sum
    if c.lent then (if l.isEmpty then c.share else min c.share s.power.gatedDraw)
    else if l.contains t then c.share + lent / l.length
    else c.share

/-- Whether a core would exceed its budget, so that it is throttled (R273). -/
def coreThrottled (s : State) (t : Nat) : Bool :=
  match ownerOfCore s t with
  | some p => (runningCores s p).contains t && decide (coreBudgetOf s t < (getCore s t).draw)
  | none => false

/-- The arithmetic clock of a core in MHz (R273, R275): 1,300, less 65 for each step of its throttling, 650 at the lowest and on a
tripped die; on a throttled die a clock that holds the junction's temperature, which is free. -/
def coreClock (s : State) (t : Nat) : Nat :=
  let k := if coreThrottled s t then (getCore s t).steps else 0
  let d := t / 32
  if dieTripped s d then 650
  else if sGet 0 s.power.dieThermal d != 0 then 1300 - 65 * max k (1 + Config.freeNat ((getCore s t).steps) % 10)
  else 1300 - 65 * k

/-- Bits 1 and 2 of the throttle cause, and bit 0 as the last lease left it (0x2000:09). -/
def throttleCause (s : State) : Nat :=
  s.power.throttle % 2 +
  (if [0, 1].any (fun d => diePresent s d && (sGet 0 s.power.dieThermal d != 0 || dieTripped s d)) then 2 else 0) +
  (if (List.range 12).any (fun n => stackPresent s n && ((getStack s n).thermal != 0 || stackTripped s n)) then 4 else 0)

/-- POWER_LEASE_RENEWAL (R272): at each multiple of 64 ct. Bit 0 of the throttle cause is set while some core would exceed its budget,
and an episode begins when it becomes set. -/
def execPowerLeaseRenewal (m : PowerEnv) (s : State) : Res :=
  if isReady s && dueEvery s 64 && inOrder s 1 true then
    let s0 := atPlace s 1
    let s1 := (List.range 16).foldl (giveBudget m) { s0 with power := { s0.power with gatedDraw := m.gated } }
    let cap := (List.range 64).any (coreThrottled s1)
    let rise := cap && s1.power.throttle == 0
    .next { s1 with power := { s1.power with
      lastPower := m.package, throttle := if cap then 1 else 0,
      peaks := (s1.power.peaks.filter (fun e => decide (s1.now ≤ e.1 + 1000000))) ++ [(s1.now, m.peak)],
      episodes := if rise then s1.power.episodes + 1 else s1.power.episodes } }
  else .next s

/-- The highest 10 µs power of the last 1,000,000 ct (0x2000:08). -/
def peakPower (s : State) : Nat := ((s.power.peaks.filter (fun e => decide (s.now ≤ e.1 + 1000000))).map (fun e => e.2)).foldl max 0

/-! ### Regulators (13 R376) -/

/-- Every regulator of a partition. -/
def allRegs : List RegKind :=
  (List.range 12).map RegKind.stackPort ++ (List.range 12).map RegKind.engineTime ++ [.gddr, .span, .hostLink]

/-- Units of a bucket in one unit of its credit: bytes of a KiB, or an engine-µs. -/
def regUnit : RegKind → Nat
  | .engineTime _ => 1
  | _ => 1024

/-- One bucket refilled: min(b + credit, depth); an unregulated class keeps none. -/
def refillOne (p : Nat) (s : State) (k : RegKind) : State :=
  let credit := objNat s (0x3400 + p) (regKey k).2
  let depth := objNat s (0x3400 + p) ((regKey k).2 + 1)
  if credit == 0xFFFFFFFF then s
  else
    let b : Int := min (bucket s p k + ((credit * regUnit k : Nat) : Int)) ((depth * regUnit k : Nat) : Int)
    updPart s p (fun x => { x with buckets := sSet 0 x.buckets (regKey k).1 b })

/-- REGULATOR_REFILL: at each multiple of 64 ct, with the regulator values of a commit in force first (R377). -/
def execRegulatorRefill (s : State) : Res :=
  if isReady s && dueEvery s 64 && inOrder s 2 true then
    .next ((List.range 16).foldl (fun x p => allRegs.foldl (refillOne p) x) (applyRegulators (atPlace s 2)))
  else .next s

/-- REGULATED_TRAFFIC_START (R376): traffic starts when its bucket is above 0 and debits its whole size; otherwise its wait is
counted. -/
def execRegulatedTrafficStart (p : Nat) (k : RegKind) (size : Nat) (s : State) : Res :=
  if isReady s && decide (p < 16) then
    if regOpen s p k then .next (debit s p k size) else .next (bump s (0x3400 + p) 0xB 1)
  else .next s

/-! ### Telemetry (17 R469, R470) -/

/-- The hottest DRAM die of any stack present. -/
def hottestDram (s : State) : Int :=
  match (List.range 12).filter (stackPresent s) with
  | [] => 0
  | n :: r => (r.map (fun k => (getStack s k).dram)).foldl max (getStack s n).dram

/-- A sample's 128 bytes. -/
def sampleBytes (s : State) (m : SampleEnv) (seq : Nat) : List Byte :=
  let cont := (List.range 16).any (fun p => (getPart s p).contained.isSome)
  let flags := (if holdoverFlag s then 1 else 0) + (if s.alert then 2 else 0) + (if cont then 4 else 0) + 128
  natLe 8 s.now ++ natLe 8 seq ++ natLe 4 m.power ++ natLe 4 (unsignedOf 32 m.die0)
    ++ natLe 4 (if diePresent s 1 then unsignedOf 32 m.die1 else 0x80000000) ++ natLe 4 (unsignedOf 32 (hottestDram s))
    ++ natLe 1 (deviceStop s) ++ natLe 1 (throttleCause s) ++ natLe 1 s.cad.lock ++ natLe 1 flags
    ++ (List.range 16).flatMap (fun p => natLe 4 (getPart s p).tokensSince) ++ List.replicate 28 0

/-- An entry of the sample ring never written. -/
def noSample : List Byte := List.replicate 128 0

/-- TELEMETRY_SAMPLE: at each multiple of the period, except in stops 4 and 5. -/
def execTelemetrySample (m : SampleEnv) (s : State) : Res :=
  if isReady s && dueEvery s (objNat s 0x7000 1) && inOrder s 4 true && decide (s.power.stop < 4) then
    let seq := counter s 0x7000 3
    let s1 := { s with samples := sSet noSample s.samples (seq % 4096) (sampleBytes s m seq) }
    let s2 := (List.range 16).foldl (fun x p => updPart x p (fun y => { y with tokensSince := 0 })) s1
    .next (atPlace (bump s2 0x7000 3 1) 4)
  else .next s

/-! ### State lost in stops (R265) -/

/-- The engines of a stack after their groups were power-gated: local memory, W, X, Z and a0–a3 read as unspecified, and the programs
are those that the stewards name (06 R165). -/
def loseEngines (s : State) (n : Nat) : State :=
  let one (x : State) (q : Nat) : State :=
    let v := freeNat x
    let part (k : Nat) : Nat := v >>> (2 ^ 20 * k)
    updEngine (drew x) n q (fun e =>
      { e with pm := freeStore 0 512 (fun i => BitVec.ofNat 64 (part 0 >>> (64 * i))),
               dm := freeStore 0 12288 (fun i => BitVec.ofNat 8 (part 1 >>> (8 * i))),
               dmPoison := freeStore false 3072 (fun i => bitAt (part 2) i),
               w := freeStore 0 1024 (fun i => BitVec.ofNat 8 (part 3 >>> (8 * i))),
               wPoison := freeStore false 32 (fun i => bitAt (part 4) i),
               x := freeStore 0 2048 (fun i => BitVec.ofNat 16 (part 5 >>> (16 * i))),
               xPoison := freeStore false 2048 (fun i => bitAt (part 6) i),
               z := freeStore false 2048 (fun i => bitAt (part 7) i),
               acc := freeStore 0 1024 (fun i => BitVec.ofNat 32 (part 8 >>> (32 * i))),
               accPoison := freeStore false 1024 (fun i => bitAt (part 9) i), arrErr := [] })
  (List.range (engineCount (getStack s n))).foldl one s

/-- Whether every partition that owns a compute region of a stack is in stop 3 (R262). -/
def groupsOff (s : State) (n : Nat) : Bool :=
  (List.range 16).all (fun p =>
    (bitsOf 16 (regionsOwned s p n)).all (fun r => isProtected (getStack s n) r) || decide (3 ≤ (getPart s p).stop))

/-- A range of memory whose contents are lost. -/
def loseRange (s : State) (a n g : Nat) : State :=
  let v := freeNat s
  let s1 := drew s
  let m := (List.range n).foldl (fun x i => sSet 0 x (a + i) (BitVec.ofNat 8 (v >>> (8 * i)))) s1.mem
  let q := (List.range (n / g)).foldl (fun x i => sSet false x (a + g * i) (bitAt (v >>> (8 * n)) i)) s1.poison
  { s1 with mem := m, poison := q, errs := sDropRange s1.errs a (a + n) }

/-- The scratchpad of a core. -/
def loseSpad (s : State) (t : Nat) : State := if corePresent s t then loseRange s (spadBase t) spadBytes 64 else s

/-- The local memory of a steward core. -/
def loseLmem (s : State) (i : Nat) : State := if stewardPresent s i then loseRange s (0x30100000000 + i * 0x100000) 0x40000 8 else s

/-- Every line of the shared cache written back and dropped. -/
def flushCache (s : State) : State := flushRange s 0 (2 ^ 52)

/-! ### Entering a stop (R261, R264, R265) -/

/-- The cores of a partition clock-gated, or not. -/
def gateCores (s : State) (p : Nat) (on : Bool) : State := (coresOf s p).foldl (fun x t => updCore x t (fun c => { c with gated := on })) s

/-- The groups of a stack's engines power-gated: their local memory is lost, and the images that the stewards name are to be loaded again
before an engine starts (06 R165, 07 R186). -/
def gateGroups (s : State) (n : Nat) : State := updStack (loseEngines s n) n (fun k => { k with reload := k.named })

/-- Stacks with engines. -/
def engineStacks (s : State) : List Nat := if hasEngines s then (List.range 12).filter (stackPresent s) else []

/-- A partition enters a stop; its cores lose what the stop loses, and engine groups that no other partition keeps on lose theirs. -/
def enterPart (s : State) (p n : Nat) : State :=
  let s1 := gateCores (updPart s p (fun x => { x with stop := if n == 1 then 0 else n })) p true
  let s2 := if n == 3 then (coresOf s p).foldl loseCore s1 else if n == 2 then (coresOf s p).foldl loseAcc s1 else s1
  if n == 3 then ((engineStacks s).filter (fun k => groupsOff s1 k && !groupsOff s k)).foldl gateGroups s2 else s2

/-- The ports go OFF at stop 4, as at a port loss (15 R419). -/
def portsOff (s : State) : State :=
  ((List.range 9).filter (fun n => (getPort s n).state != 0)).foldl (fun x n => portDown x n 0) s

/-- The cadence runs in holdover in stop 5 (R265, R267). -/
def cadenceStop5 (s : State) : State :=
  if s.cad.lock == 2 then loseLock s
  else if s.cad.lock == 1 then setCad s (dropSource s.cad s.cad.cameFrom)
  else s

/-- The refresh mode of every stack. -/
def setRefresh (s : State) (f : Stack → Nat) : State :=
  ((List.range 12).filter (stackPresent s)).foldl (fun x n => updStack x n (fun k => { k with refresh := f k })) s

/-- The device enters stop 4 or 5. From a shallower stop the cache is written back, scratchpads and the local memories of SC1–SC15 are
lost, beads read 0 with no watch pending (09 R249), engine groups still on lose their memories (06 R165), and the ports go OFF. -/
def enterDevice (s : State) (n : Nat) : State :=
  let s1 :=
    if s.power.stop == 0 then
      let a := portsOff (flushCache s)
      let b := ((List.range 16).drop 1).foldl loseLmem ((List.range 64).foldl loseSpad a)
      ((engineStacks s).filter (fun k => !groupsOff s k)).foldl gateGroups { b with beads := [], watches := [], msgs := [] }
    else s
  let s2 := if n == 5 then cadenceStop5 (loseLmem s1 0) else s1
  setRefresh { s2 with power := { s2.power with stop := n } } (fun _ => n - 2)

/-- Whether the entry delay of a stop has passed since the last tick that was not idle. -/
def delayed (s : State) (since n : Nat) : Bool := decide (since + exitLatency n * objNat s 0x2000 6 ≤ s.now)

/-- Since when the entry conditions of a partition's stop have held. -/
def restedFrom (s : State) (p n : Nat) : Nat :=
  if n == 1 then ((coresOf s p).map (fun t => (getCore s t).restSince)).foldl max 0 else (getPart s p).idleSince

/-- STOP_ENTRY (R261, R264). -/
def execStopEntry (scope : StopScope) (n : Nat) (s : State) : Res :=
  let allowed := isReady s && decide (n ≤ objNat s 0x2000 4)
  match scope with
  | .core t =>
    let c := getCore s t
    match ownerOfCore s t with
    | some p =>
      if allowed && corePresent s t && n == 1 && !c.gated && (getPart s p).stop == 0 && s.power.stop == 0 &&
          decide (exitLatency 1 ≤ tolerance s p) && delayed s c.restSince 1 && coreIdle c then
        .next (updCore (readWord wStops s) t (fun c => { c with gated := true }))
      else .next s
    | none => .next s
  | .partition p =>
    if allowed && decide (p < 16) && decide (1 ≤ n && n ≤ 3) && decide (partStop s p < n) && s.power.stop == 0 &&
        decide (exitLatency n ≤ tolerance s p) && delayed s (restedFrom s p n) n && (if n == 1 then restsIn1 s p else restsIn3 s p) then
      .next (enterPart (readWord wStops s) p n)
    else .next s
  | .device =>
    if allowed && (n == 4 || n == 5) && decide (s.power.stop < n) && (List.range 16).all (fun p => (getPart s p).stop == 3) &&
        decide (exitLatency n ≤ deviceTolerance s) && delayed s s.power.idleSince n && deviceRests s then
      .next (enterDevice (readWord wStops s) n)
    else .next s

/-! ### Leaving a stop (R263, R266, R267) -/

/-- Whether a device stop lists a wake event (R266). -/
def wakes (n : Nat) : Wake → Bool
  | .intakeWrite => true
  | .commit => true
  | .doe => true
  | .ebund .doe => true
  | .ebund _ => n == 4
  | .tolerance => n == 4
  | .thermalOrError => n == 4
  | _ => false

/-- The device leaves stops 4 and 5, from 5 with its firmware reloaded (R264): each stack refreshes in the mode it had, unless its
temperature now asks for the other (06 R157), ports in mode 1 or 2 train, and the reckoning goes on at the next multiple of its period (09 R249). -/
def leaveDevice (s : State) : State :=
  let s0 := if s.power.stop == 5 then reloadFirmware s else s
  let s1 := setRefresh { s0 with power := { s0.power with stop := 0 } } (fun k =>
    if 8500 < k.dram || (k.doubled && !decide (k.dram < 8300)) then 1 else 0)
  let s2 := ((List.range 9).filter (fun n => portPresent s n && objNat s (0x6010 + n) 1 != 0 && (getPort s1 n).state == 0)).foldl
    (fun x n => setPortState x n 1) s1
  let s3 := (List.range 16).foldl (fun x p => updPart x p (fun y => { y with reckoned := s.now })) s2
  { s3 with power := { s3.power with idleSince := s.now } }

/-- A partition moves to a shallower stop; its engine groups are powered and reloaded (06 R165). -/
def leavePart (s : State) (p n : Nat) : State :=
  let was := (getPart s p).stop
  let s1 := gateCores (updPart s p (fun x => { x with stop := if n == 1 then 0 else n, idleSince := s.now })) p (decide (1 ≤ n))
  let s2 := (coresOf s p).foldl (fun x t => updCore x t (fun c => { c with restSince := s.now })) s1
  if was == 3 && decide (n < 3) then ((engineStacks s).filter (fun k => groupsOff s k && !groupsOff s2 k)).foldl drainOrders s2 else s2

/-- The stops that a lowered tolerance still allows are kept; deeper ones are left at once (R263). -/
def followTolerance (s : State) (p : Nat) : State :=
  let d := deepestFor (deviceTolerance s) 5
  let s1 :=
    if s.power.stop == 5 && d == 4 then setRefresh { s with power := { s.power with stop := 4 } } (fun _ => 2)
    else if decide (d < s.power.stop) then leaveDevice s else s
  let k := deepestFor (tolerance s1 p) 3
  if decide (k < partStop s1 p) && s1.power.stop == 0 then leavePart s1 p k else s1

/-- STOP_EXIT (R266): a wake event of the stop ends it. -/
def execStopExit (scope : StopScope) (why : Wake) (s : State) : Res :=
  match scope with
  | .core t =>
    if isReady s && corePresent s t && (getCore s t).gated && s.power.stop == 0 && why == .work &&
        (match ownerOfCore s t with | some p => (getPart s p).stop == 0 | none => false) then
      .next (updCore s t (fun c => { c with gated := false, restSince := s.now }))
    else .next s
  | .partition p =>
    if isReady s && decide (p < 16) && partStop s p != 0 && s.power.stop == 0 then
      match why with
      | .work => .next (leavePart s p 0)
      | .tolerance => .next (followTolerance s p)
      | _ => .next s
    else .next s
  | .device =>
    if isReady s && s.power.stop != 0 && wakes s.power.stop why then
      match why with
      | .tolerance => .next ((List.range 16).foldl followTolerance s)
      | _ => .next (leaveDevice s)
    else .next s

/-- A tolerance in force at once (R260, R263). -/
def setTolerance (s : State) (p : Nat) (v : List Byte) : State := followTolerance (setObj s 0x2010 (p + 1) v) p

/-- LATENCY_TOLERANCE_WRITE: an Ebund access, which ends stop 4, and stop 5 as a request over the host link (R266). -/
def execLatencyToleranceWrite (p : Nat) (v : W32) (s : State) : Res :=
  if isReady s && decide (p < 16) then .next (setTolerance (if s.power.stop != 0 then leaveDevice s else s) p (natLe 4 v.toNat)) else .next s

/-! ### Power domains (R269, R270) -/

/-- The separately switched power domains. -/
inductive Domain where
  | matrixEngine (t : Nat) | restOfCore (t : Nat) | steward (i : Nat) | slice (n : Nat) | baseDie (n : Nat) | group (n g : Nat)
  | spanPort (n : Nat) | gddrQuarter (n : Nat) | cxl | management | syncUnit (d : Nat) | nocHalf (d : Nat)
deriving DecidableEq, Repr

/-- Off, on, or arrays kept at retention voltage with the logic off. -/
inductive DomainState where
  | on | retention | off
deriving DecidableEq, Repr

/-- The domains of the part: absent units have none. -/
def domains (s : State) : List Domain :=
  let cores := (List.range 64).filter (corePresent s)
  let ns := (List.range 12).filter (stackPresent s)
  let dies := (List.range 2).filter (diePresent s)
  cores.map .matrixEngine ++ cores.map .restOfCore ++ ((List.range 16).filter (stewardPresent s)).map .steward ++
  dies.flatMap (fun d => (List.range 8).map (fun i => .slice (8 * d + i))) ++ ns.map .baseDie ++
  (engineStacks s).flatMap (fun n => [.group n 0, .group n 1]) ++ ((List.range 9).filter (portPresent s)).map .spanPort ++
  (if hasGddr s then (List.range 4).map .gddrQuarter else []) ++ [.cxl, .management] ++ dies.map .syncUnit ++ dies.map .nocHalf

/-- The stop that a core is held to: its partition's, 3 when nobody owns it (R262). -/
def coreStop (s : State) (t : Nat) : Nat := match ownerOfCore s t with | some p => (getPart s p).stop | none => 3

/-- How a domain is powered. -/
def domainState (s : State) (x : Domain) : DomainState :=
  let offFrom (n : Nat) : DomainState := if n ≤ s.power.stop then .off else .on
  match x with
  | .matrixEngine t => if s.power.stop != 0 || 2 ≤ coreStop s t then .off else .on
  | .restOfCore t => if s.power.stop != 0 then .off else if 3 ≤ coreStop s t then .retention else .on
  | .steward i => offFrom (if i == 0 then 5 else 4)
  | .slice _ => offFrom 4
  | .baseDie _ => if s.power.stop == 4 then .retention else offFrom 5
  | .group n _ => if s.power.stop != 0 || groupsOff s n then .off else .on
  | .spanPort n => if s.power.stop != 0 || (getPort s n).state == 0 then .off else .on
  | .gddrQuarter _ => offFrom 4
  | .cxl => .on
  | .management => offFrom 5
  | .syncUnit _ => offFrom 4
  | .nocHalf d => offFrom (if d == 0 then 5 else 4)

/-! ### Stop 6 (R268) -/

/-- POWER_DOWN_READY: admissions are refused, committed steps are finished, and the shared cache is written back. A Fatal state does not
wait for steps (18 R489). -/
def execPowerDownReady (s : State) : Res :=
  let done := isFatal s || (List.range 16).all (fun p => (getPart s p).flight.isNone && (getPart s p).committed.isEmpty)
  if s.power.draining && !s.power.powerDownReady && (isReady s || isFatal s) && done then
    let s1 := flushCache s
    .next { s1 with power := { s1.power with powerDownReady := true } }
  else .next s

end Sys2Proof.Machine
end

