-- ==== Sys2Proof/Machine/Ras.lean ====
section
/-! DEFINITION. Temperature, coolant, failing channels, patrol scrub, votes and Fatal errors (06 R157, R160–R163, 10 R275, 18 R477–R481,
R489, 19 R502, R507, R508, 20 R531–R533). -/

namespace Sys2Proof.Machine

open Sys2Proof

/-! ### Power lost (10 R265, R268, 20 R521, R522) -/

/-- What the package and the board hold once an update under way is abandoned: the inactive slot is no valid image (19 R515). -/
def abandonUpdate (s : State) : Hw :=
  if s.fw.update == 1 || s.fw.update == 2 then
    { s.hw with flash := sDropRange s.hw.flash (slotBase (1 - s.fw.slot)) (slotBase (2 - s.fw.slot)) }
  else s.hw

/-- The block with no power: everything that stops 0–5 keep is lost, and what the package's fuses and the board's flash hold stays. -/
def powerOff (s : State) (b : Boot) : State :=
  { State.reset with pending := s.pending, free := s.free, out := s.out, hw := abandonUpdate s, boot := b }

/-! ### Thermal alert and trips -/

/-- Whether any trip is in force (20 R532). -/
def anyTrip (s : State) : Bool :=
  (List.range 12).any (fun n => stackPresent s n && stackTripped s n) || [0, 1].any (fun d => diePresent s d && dieTripped s d)

/-- THERMAL_ALERT_N released when no trip is in force. -/
def releaseAlert (s : State) : State := if anyTrip s then s else { s with alert := false }

/-- Partitions contained for a trip (18 R486). -/
def containAll (s : State) (l : List Nat) : State := l.foldl (fun x p => contain x p none 7 0) s

/-- The partitions that own a region of a stack. -/
def stackOwners (s : State) (n : Nat) : List Nat := (List.range 16).filter (fun p => regionsOwned s p n != 0)

/-- The partitions that own a core of a die. -/
def dieOwners (s : State) (d : Nat) : List Nat := (List.range 16).filter (fun p => usesDie s p d)

/-- One more throttle episode, when a unit leaves its normal state (0x2000:0A). -/
def countEpisode (s : State) (was : Nat) : State :=
  if was == 0 && !s.power.coolant then { s with power := { s.power with episodes := s.power.episodes + 1 } } else s

/-! ### Stack temperature (06 R157, R163) -/

/-- A stack event with its sensors: the hottest DRAM die and the base die, in 0.01 °C, are recorded and the condition is checked. -/
def stackEvent (n : Nat) (dram base : Int) (s : State) (ok : Stack → Int → Bool) (f : State → State) : Res :=
  let s1 := updStack s n (fun k => { k with dram := dram, base := base })
  if isReady s && stackPresent s n && decide (s.power.stop < 4) && ok (getStack s n) (max dram base) then .next (f s1) else .next s

/-- The thermal state of a stack. -/
def setThermal (s : State) (n v : Nat) : State := updStack s n (fun k => { k with thermal := v })

/-- STACK_REFRESH_DOUBLED: above 85 °C. -/
def execStackRefreshDoubled (n : Nat) (dram base : Int) (s : State) : Res :=
  stackEvent n dram base s (fun k _ => decide (8500 < dram) && k.refresh == 0)
    (fun x => updStack x n (fun k => { k with refresh := 1, doubled := true }))

/-- STACK_REFRESH_NORMAL: below 83 °C. -/
def execStackRefreshNormal (n : Nat) (dram base : Int) (s : State) : Res :=
  stackEvent n dram base s (fun k _ => decide (dram < 8300) && k.refresh == 1)
    (fun x => updStack x n (fun k => { k with refresh := 0, doubled := false }))

/-- STACK_THROTTLE: at 95 °C. -/
def execStackThrottle (n : Nat) (dram base : Int) (s : State) : Res :=
  stackEvent n dram base s (fun k t => decide (9500 ≤ t && t < 10000) && k.thermal == 0) (fun x => countEpisode (setThermal x n 1) 0)

/-- STACK_THROTTLE_RELEASE: below 93 °C. -/
def execStackThrottleRelease (n : Nat) (dram base : Int) (s : State) : Res :=
  stackEvent n dram base s (fun k t => decide (t < 9300) && k.thermal == 1) (fun x => setThermal x n 0)

/-- STACK_TRIP: at 100 °C; THERMAL_ALERT, and the owning partitions contained at their next boundary. -/
def execStackTrip (n : Nat) (dram base : Int) (s : State) : Res :=
  stackEvent n dram base s (fun k t => decide (10000 ≤ t) && k.thermal != 2)
    (fun x => containAll (assertAlert (setThermal (countEpisode x (getStack s n).thermal) n 2)) (stackOwners s n))

/-- STACK_TRIP_RELEASE: below 90 °C. -/
def execStackTripRelease (n : Nat) (dram base : Int) (s : State) : Res :=
  stackEvent n dram base s (fun k t => decide (t < 9000) && k.thermal == 2)
    (fun x => (List.range 12).foldl drainOrders (releaseAlert (setThermal x n 0)))

/-! ### Die temperature (10 R275) -/

/-- The thermal state of a die: 0 normal, 1 throttled, 2 tripped. -/
def dieThermal (s : State) (d : Nat) : Nat := sGet 0 s.power.dieThermal d

/-- The state with a die's thermal state. -/
def setDie (s : State) (d v : Nat) : State := { s with power := { s.power with dieThermal := sSet 0 s.power.dieThermal d v } }

/-- A die event with its hottest junction in 0.01 °C. -/
def dieEvent (d : Nat) (temp : Int) (s : State) (ok : Bool) (f : State → State) : Res :=
  let s1 := { s with power := { s.power with dieTemp := sSet 0 s.power.dieTemp d temp } }
  if isReady s && diePresent s d && ok then .next (f s1) else .next s

/-- DIE_THROTTLE: at 105 °C. -/
def execDieThrottle (d : Nat) (temp : Int) (s : State) : Res :=
  dieEvent d temp s (decide (10500 ≤ temp && temp < 11200) && dieThermal s d == 0) (fun x => countEpisode (setDie x d 1) 0)

/-- DIE_THROTTLE_RELEASE: below 103 °C. -/
def execDieThrottleRelease (d : Nat) (temp : Int) (s : State) : Res :=
  dieEvent d temp s (decide (temp < 10300) && dieThermal s d == 1) (fun x => setDie x d 0)

/-- DIE_TRIP: at 112 °C; THERMAL_ALERT, and the partitions using the die contained at their next boundary. -/
def execDieTrip (d : Nat) (temp : Int) (s : State) : Res :=
  dieEvent d temp s (decide (11200 ≤ temp && temp < 12000) && dieThermal s d != 2)
    (fun x => containAll (assertAlert (setDie (countEpisode x (dieThermal s d)) d 2)) (dieOwners s d))

/-- DIE_TRIP_RELEASE: below 100 °C. -/
def execDieTripRelease (d : Nat) (temp : Int) (s : State) : Res :=
  dieEvent d temp s (decide (temp < 10000) && dieThermal s d == 2) (fun x => releaseAlert (setDie x d 0))

/-- DIE_SHUTDOWN: at 120 °C the on-package regulators shut down, which is stop 6 without its steps. -/
def execDieShutdown (d : Nat) (temp : Int) (s : State) : Res :=
  match s.boot with
  | .off => .next s
  | .reset => .next s
  | _ => if diePresent s d && decide (12000 ≤ temp) then .next (powerOff s .off) else .next s

/-! ### Coolant (20 R533) -/

/-- COOLANT_FAULT: COOLANT_FAULT_N low for a time in µs; 1 ms or more trips every die and stack. -/
def execCoolantFault (us : Nat) (s : State) : Res :=
  if isReady s && decide (1000 ≤ us) && !s.power.coolant then
    let dies := ([0, 1].filter (fun d => diePresent s d && dieThermal s d == 0)).length
    let stackCount := ((List.range 12).filter (fun n => stackPresent s n && (getStack s n).thermal == 0)).length
    let s1 := assertAlert { s with coolantHigh := false, power := { s.power with coolant := true, episodes := s.power.episodes + dies + stackCount } }
    let used (p : Nat) : Bool := objNat s (0x3000 + p) 1 != 0 || (List.range 12).any (fun n => regionsOwned s p n != 0)
    .next (containAll s1 ((List.range 16).filter used))
  else .next s

/-- COOLANT_FAULT_RELEASE: the input high for a time in µs; 1 s, with every die and stack below its release value, ends the trip. -/
def execCoolantFaultRelease (us : Nat) (s : State) : Res :=
  let cool := [0, 1].all (fun d => !diePresent s d || decide (sGet 0 s.power.dieTemp d < 10000)) &&
    (List.range 12).all (fun n => !stackPresent s n || decide (max (getStack s n).dram (getStack s n).base < 9000))
  if isReady s then
    let s1 := { s with coolantHigh := true }
    if s.power.coolant && decide (1000000 ≤ us) && cool then .next (releaseAlert { s1 with power := { s1.power with coolant := false } }
      |> fun x => (List.range 12).foldl drainOrders x)
    else .next s1
  else .next s

/-! ### SPI flash (19 R502, R507, R508) -/

/-- The sector of a stack's map-out record. -/
def mapOutSector (n : Nat) : Nat := 0x20000 + n * 0x1000

/-- The channels that a stack's map-out record names; none without a record. -/
def mapOutMask (h : Hw) (n : Nat) : Nat :=
  let b := flashRead h (mapOutSector n) 16
  if crcOk 0x3150414D b then bytesAt b 4 6 else 0

/-- A channel recorded: read, OR, erase, write. -/
def recordMapOut (h : Hw) (n c : Nat) : Hw :=
  flashWrite h (mapOutSector n) 0x1000 (withCrc (natLe 4 0x3150414D ++ natLe 6 (setBit (mapOutMask h n) c) ++ natLe 1 n ++ natLe 1 0))

/-! ### Failing channels (06 R160, 11 R293) -/

/-- Distinct bursts of a channel that were uncorrectable within the last 1,000,000 ct. -/
def recentBursts (s : State) (n c : Nat) : Nat :=
  ((getStack s n).errBursts.filter (fun e => e.1 == c && decide (s.now ≤ e.2.2 + 1000000))).length

/-- Whether some row of a page lies in a channel of a stack. -/
def rowIn (s : State) (n c : Nat) (g : Page) : Bool :=
  g.tier == 0 && (List.range g.rows).any (fun i =>
    match locate (rowAddr g i) with | .stack j off => j == n && chanOf (getStack s j) off == c | _ => false)

/-- The pages of a partition with data in a failing channel read as poison: every session that holds one is contained, and a node is
dropped with what lies below it (11 R293). -/
def failPages (n c : Nat) (s : State) (p : Nat) : State :=
  let l := ((getPart s p).pages.filter (fun e => rowIn s n c e.2)).map (fun e => e.1)
  let s1 := l.foldl (fun x g => poisonPage x p g) s
  let hit := ((getPart s1 p).sessions.filter (fun y => l.any (holds y))).map (fun (y : Session) => y.handle)
  hit.foldl (fun x h => contain x p (some h) 3 0) s1

/-- CHANNEL_DECLARED_FAILING: more than four distinct bursts in 1,000,000 ct; contained, and recorded for the next start. -/
def execChannelDeclaredFailing (n c : Nat) (s : State) : Res :=
  let k := getStack s n
  if isReady s && stackPresent s n && decide (c < 48) && !bitAt k.mapOut c && !bitAt k.failing c && decide (4 < recentBursts s n c) then
    let s1 := updStack { s with hw := recordMapOut s.hw n c } n (fun k => { k with failing := setBit k.failing c })
    .next ((List.range 16).foldl (failPages n c) s1)
  else .next s

/-! ### Fatal errors (18 R489) -/

/-- A core's kernel aborted and its record written, its signal poisoned; its pending packets are gone. -/
def killKernel (s : State) (t : Nat) : State :=
  let s1 := cancelWatch (updCore s t (fun c => stopCore c none true)) t
  let s2 := match (getCore s1 t).kernel with | some k => writeRecord s1 t k | none => s1
  updCore s2 t (fun c => { c with kernel := none, queues := [], pend := [] })

/-- A stack's launch aborted, its groups and its record written with poison. -/
def killLaunch (s : State) (n : Nat) : State :=
  let s1 := abortLaunch s n
  match (getStack s1 n).launch with
  | none => updStack s1 n (fun k => { k with seq := [], reload := [] })
  | some l =>
    let s2 := (List.range l.groups.length).foldl (fun x i =>
      match (l.groups[i]?).map (fun g => g.written) with | some false => writeGroup x n i true | _ => x) s1
    let s3 := match (getStack s2 n).launch with | some x => writeLaunch s2 x | none => s2
    updStack s3 n (fun k => { k with launch := none, ready := none, seq := [], reload := [] })

/-- The status-only record of a partition: an end entry CONTAINED, class Fatal, scope device, for every session
whose end entry is not written. -/
def fatalRecord (cause : Nat) (s : State) (p : Nat) : State :=
  let x := getPart s p
  let d := contDetail 4 2 cause 0
  let close (z : State) (y : Session) : State := if y.ended then (turnEntry z p y.handle d).1 else endSession z p y.handle stContained d
  let s1 := x.sessions.foldl close s
  let l := (getPart s1 p).owed.map statusBytes
  if hasRing s p && !l.isEmpty && recordRoom s1 p (recordsSize l) then
    let step := x.doneNo.getD (freeNat s1)
    let h : RecHead := { step := step, start := Config.freeNat (s1.free + 1), intake := Config.freeNat (s1.free + 2), only := true,
                         tokens := 0, sessions := 0, verified := 0, accepted := 0 }
    writeRecords (updPart { s1 with free := s1.free + 3 } p (fun y => { y with owed := [] })) p h l
  else s1

/-- A Fatal error of the running device: everything stops at once. -/
def raiseFatal (s : State) (cause : Nat) : State :=
  let s1 := ((List.range 64).filter (fun t => (getCore s t).kernel.isSome || !(getCore s t).pend.isEmpty)).foldl killKernel s
  let s2 := ((List.range 12).filter (fun n => (getStack s n).launch.isSome || (getStack s n).ready.isSome)).foldl killLaunch s1
  let s3 := setFaultBit (bump s2 0x4800 0x14 1) 3
  let s4 := (List.range 16).foldl (fatalRecord cause) s3
  let s5 := (List.range 9).foldl (fun x n => updPort x n (fun q => { q with state := 0, unacked := [], queue := [] })) s4
  { s5 with boot := .fatal none }

/-- A Fatal error raised before ready, in the phase given (19 R498): the block answers Ebund reads over MCTP alone. -/
def raiseEarly (s : State) (phase : Nat) : State := { setFaultBit (bump s 0x4800 0x14 1) 3 with boot := .fatal (some phase) }

/-- REGULATOR_FAULT: a fault of an on-package regulator or of the bridge, cause POWER. -/
def execRegulatorFault (s : State) : Res :=
  match s.boot with
  | .ready => .next (raiseFatal s 0xA)
  | .starting n => .next (raiseEarly s n)
  | _ => .next s

/-! ### Votes (18 R480, R481) -/

/-- Every word that has a bad copy voted; whether one had no majority. -/
def voteAll (s : State) : State × Bool := s.tripl.foldl voteWord (s, false)

/-! ### Patrol scrub (18 R477) -/

/-- Rows of 2 KiB in a region. -/
def regionRows (k : Stack) : Nat := regionSize k / 2048

/-- Whether a region is scrubbed: protected and not in transition. -/
def scrubbed (k : Stack) (r : Nat) : Bool := isProtected k r && !bitAt k.trans r

/-- The next row to scrub from a row on, and whether that wrapped; none when no region is scrubbed. -/
def nextScrub (k : Stack) (row : Nat) : Option (Nat × Bool) :=
  let here := row / regionRows k
  if here < 16 && scrubbed k here then some (row, false)
  else
    match (List.range 16).find? (fun r => decide (here < r) && scrubbed k r) with
    | some r => some (r * regionRows k, false)
    | none => ((List.range 16).find? (scrubbed k)).map (fun r => (r * regionRows k, true))

/-- One burst read, checked and rewritten: a corrected one with its data, an uncorrectable one with the poison pattern. -/
def scrubBurst (s : State) (g : Nat) : State :=
  match s.errs.find? (fun e => e.1 == g) with
  | none => s
  | some (_, k) =>
    let s1 := detect s g
    let s2 := { s1 with errs := sDel s1.errs g }
    match k with
    | .onDie => s2
    | .corrected _ => s2
    | .uncorrectable _ => markPoison s2 g

/-- The next rows of a stack scrubbed; each wrap counts a pass. -/
def scrubRows (n : Nat) : Nat → State → State
  | 0, s => s
  | fuel + 1, s =>
    match nextScrub (getStack s n) (getStack s n).scrubRow with
    | none => s
    | some (row, w) =>
      let s1 := (List.range 16).foldl (fun x i => scrubBurst x (stackWindow n + row * 2048 + 128 * i)) s
      let w2 := match nextScrub (getStack s n) (row + 1) with | some (r, wrapped) => (r, wrapped) | none => (row + 1, false)
      let s2 := updStack s1 n (fun k => { k with scrubRow := w2.1 })
      scrubRows n fuel (if w || w2.2 then bump s2 (0x4810 + n) 7 1 else s2)

/-- PATROL_SCRUB: at each multiple of the interval, except in stops 4 and 5, every stack scrubs its next rows and every triplicated word
is voted; no majority is a Fatal error with cause VOTE. -/
def execPatrolScrub (s : State) : Res :=
  if isReady s && dueEvery s (objNat s 0x4800 3) && inOrder s 5 true && decide (s.power.stop < 4) then
    let s1 := ((List.range 12).filter (stackPresent s)).foldl (fun x n => scrubRows n (objNat s (0x4810 + n) 6) x) (atPlace s 5)
    let v := voteAll s1
    .next (if v.2 then raiseFatal v.1 9 else v.1)
  else if s.boot == .ready && s.voteFatal then .next (raiseFatal { s with voteFatal := false } 9)
  else .next s

end Sys2Proof.Machine
end

