-- ==== Sys2Proof/Machine/HostPort.lean ====
section
/-! DEFINITION. What the host does over its link: memory exposed to it, its windows, intake lanes and link events (08 R208–R213, R221,
09 R232, 14 R385–R400, R409–R411). -/

namespace Sys2Proof.Machine

open Sys2Proof

/-! ### Exposed memory (R409, R411) -/

/-- The exposed ranges in DPA order, as first address and bytes: the GDDR range, then the stack ranges in entry order. -/
def hdmList (s : State) : List (Nat × Nat) :=
  (0x20000000000 + (hdmGddr s).1, (hdmGddr s).2 - (hdmGddr s).1) ::
    (hdmRanges s).map (fun e => (stackWindow e.1 + e.2.1, e.2.2 - e.2.1))

/-- The device address of a place in a list of ranges laid end to end. -/
def hdmFind : List (Nat × Nat) → Nat → Option Nat
  | [], _ => none
  | r :: l, d => if d < r.2 then some (r.1 + d) else hdmFind l (d - r.2)

/-- Exposed bytes. -/
def hdmSize (s : State) : Nat := ((hdmList s).map (fun r => r.2)).sum

/-- The partition that owns a byte of stack or GDDR memory. -/
def memOwner (s : State) (a : Nat) : Option Nat :=
  match locate a with
  | .stack n off => ownerOfRegion s n (regionOf (getStack s n) off)
  | .gddr off => (List.range 16).find? (fun p => decide ((gddrShare s p).1 ≤ off) && decide (off < (gddrShare s p).2))
  | _ => none

/-- A host access to a partition's memory debited to its host link, and a write also to its stack port (13 R375). -/
def debitHost (s : State) (a n : Nat) (write : Bool) : State :=
  match memOwner s a with
  | none => s
  | some p =>
    let s1 := debit s p .hostLink n
    match locate a, write with
    | .stack k _, true => debit s1 p (.stackPort k) n
    | _, _ => s1

/-- Entries of the filter of lines that the host may hold. -/
def filterSize : Nat := 1048576

/-- The host takes a line: the filter notes it, and gives up its oldest entry when it is full. -/
def trackLine (s : State) (l : Nat) : State :=
  if s.link.level != 3 || s.link.tracked.contains l then s
  else
    match decide (filterSize ≤ s.link.tracked.length), s.link.tracked with
    | true, o :: r => backInvalidate { s with link := { s.link with tracked := r ++ [l] } } o
    | _, t => { s with link := { s.link with tracked := t ++ [l] } }

/-- An access by the host itself sends no back-invalidate for the lines that the host holds. -/
def asHost {α : Type} (s : State) (f : State → State × α) : State × α :=
  let r := f { s with link := { s.link with tracked := [] } }
  ({ r.1 with link := { r.1.link with tracked := s.link.tracked } }, r.2)

/-- One CXL.mem read within a 64-byte line. -/
def hdmRead (s : State) (d n : Nat) : State × List Byte × Bool :=
  match hdmFind (hdmList s) d with
  | none => (bump s 0x6800 0x13 1, List.replicate n 0xFF#8, true)
  | some a =>
    let r := asHost (debitHost s a n false) (fun x => unitRead x a n)
    (trackLine r.1 (a / 64 * 64), r.2)

/-- One CXL.mem write within a 64-byte line: by the home path in a window-mode partition and in memory that nobody owns, direct in a
cache-mode partition (08 R208). -/
def hdmWrite (s : State) (d : Nat) (v : List Byte) (poison : Bool) : State :=
  match hdmFind (hdmList s) d with
  | none => bump s 0x6800 0x13 1
  | some a =>
    let path := match memOwner s a with | some p => inboundPath s p | none => .home
    (asHost (debitHost s a v.length true) (fun x => unitWrite x path a v poison)).1

/-- The parts of a byte string that lie in each 64-byte piece, with their addresses. -/
def splitLines (a : Nat) (v : List Byte) : List (Nat × List Byte) :=
  (pieces 64 a v.length).map (fun l => (max a l, (v.drop (max a l - a)).take (min (a + v.length) (l + 64) - max a l)))

/-- Whether host accesses to a range of device memory wait: they meet a stack whose port takes no new access (06 R163). -/
def hdmHeld (s : State) (d n : Nat) : Bool :=
  (pieces 64 d n).any (fun l => match hdmFind (hdmList s) l with | some a => portShut s a 1 | none => false)

/-- HOST_CXL_MEM_READ. -/
def execHostCxlMemRead (dpa len : Nat) (s : State) : Res :=
  if isReady s && decide (2 ≤ s.link.level) && !hdmHeld s dpa len then
    let r := (pieces 64 dpa len).foldl (fun (a : State × List Byte × Bool) l =>
      let x := hdmRead a.1 (max dpa l) (min (dpa + len) (l + 64) - max dpa l)
      (x.1, a.2.1 ++ x.2.1, a.2.2 || x.2.2)) (s, [], false)
    .next (emit r.1 (.hostRead r.2.1 r.2.2))
  else .next s

/-- HOST_CXL_MEM_WRITE. -/
def execHostCxlMemWrite (dpa : Nat) (bytes : List Byte) (poison : Bool) (s : State) : Res :=
  if isReady s && decide (2 ≤ s.link.level) && !hdmHeld s dpa bytes.length then
    .next ((splitLines dpa bytes).foldl (fun x e => hdmWrite x e.1 e.2 poison) s)
  else .next s

/-! ### Windows of the BARs (R389, R390) -/

/-- The address of a place in a bead window (08 R201). -/
def beadAddr (die off : Nat) : Nat := 0x30200000000 + die * 0x10000 + off

/-- The host reads a bead through its window: the value of one aligned word, all ones for any other access (R390). -/
def hostBeadRead (s : State) (die off n : Nat) : State :=
  if n == 4 && off % 4 == 0 then
    let r := unitRead s (beadAddr die off) 4
    emit r.1 (.hostRead r.2.1 r.2.2)
  else emit s (.hostRead (List.replicate n 0xFF) false)

/-- A steward writes a bead's address. DESIGN CHOICE (log entry 91): it acts for the partition that owns it, so that a bead outside that
partition's range is not reached, and the write is counted as an inbound window write is (09 R234). -/
def stewardBeadWrite (s : State) (i die off : Nat) (v : List Byte) : State :=
  match ownerOfSteward s i with
  | some p => if beadWord off v.length && !beadOwned s p die (off / 4) then bump s (0x3000 + p) 0x10 1 else beadWindow s die off v
  | none => beadWindow s die off v

/-- BEAD_WINDOW_WRITE: a write or a read of a bead's address by the host (R390) or a steward (09 R232, R233). In stops 4 and 5 the beads
are off: the host's write is discarded and its read returns all ones, and no steward that could reach one runs. -/
def execBeadWindowWrite (die off : Nat) (acc : BeadAcc) (s : State) : Res :=
  let up := isReady s && decide (die < 2) && decide (off < 0x10000)
  let on := decide (s.power.stop < 4)
  match acc with
  | .host (.read n) =>
    if up && linkUp s then .next (if on then hostBeadRead s die off n else emit s (.hostRead (List.replicate n 0xFF) false)) else .next s
  | .host (.write v) => if up && linkUp s && on then .next (beadWindow s die off v) else .next s
  | .steward i (.read n) => if up && on && stewardPresent s i then .next (unitRead s (beadAddr die off) n .steward).1 else .next s
  | .steward i (.write v) => if up && on && stewardPresent s i then .next (stewardBeadWrite s i die off v) else .next s

/-- Whether the scratchpad of a core is in retention or off: its partition is in stop 3, or the device in stop 4 or 5. -/
def spadOff' (s : State) (t : Nat) : Bool :=
  decide (4 ≤ s.power.stop) || (match ownerOfCore s t with | some p => decide (3 ≤ (getPart s p).stop) | none => false)

/-- SCRATCHPAD_WINDOW_ACCESS: a write to a closed window is discarded and counted, a read of one answers all ones with poison; at a
target that is off nothing is counted. -/
def execScratchpadWindowAccess (t off : Nat) (acc : HostAcc) (s : State) : Res :=
  let n := match acc with | .read n => n | .write v => v.length
  let shut := windowClosed s none (spadBase t) || !corePresent s t || decide (spadBytes < off + n)
  if isReady s && linkUp s && decide (t < 64) && decide (1 ≤ n) && decide (off % 64 + n ≤ 64) && decide (off < 0x800000) then
    match acc with
    | .read n =>
      if shut then .next (emit s (.hostRead (List.replicate n 0xFF) true))
      else if spadOff' s t then .next (emit s (.hostRead (List.replicate n 0xFF) false))
      else
        let r := unitRead s (spadBase t + off) n
        .next (emit r.1 (.hostRead r.2.1 r.2.2))
    | .write v =>
      if shut then .next (bump s 0x4800 0x10 1)
      else if spadOff' s t then .next s
      else .next (unitWrite s .direct (spadBase t + off) v false).1
  else .next s

/-- The FAULTSUM bits that a write of 1 clears (R389). -/
def faultsumRw : Nat := 0x2F

/-- FAULTSUM_CLEAR. -/
def execFaultsumClear (v : W64) (s : State) : Res :=
  if isReady s && linkUp s then .next { s with faultsum := s.faultsum - (s.faultsum &&& (v.toNat &&& faultsumRw)) } else .next s

/-! ### Intake lanes (R391–R399) -/

/-- A lane of a partition changed. -/
def updLane (s : State) (p l : Nat) (f : Lane → Lane) : State :=
  updPart s p (fun x => { x with lanes := sMod Lane.init x.lanes l f })

/-- The 64 bytes of a slot. -/
def slotBytes (s : State) (p l i : Nat) : List Byte := sGetMany 0 (getPart s p).slots (l * 65536 + i * 64) 64

/-- The SEC-DED words of a slot, read (18 R475, R479): a corrected error is counted and gone; an uncorrectable one makes the slot fail its
check for as long as it stands. DESIGN CHOICE (log entry 97): the windows' SRAM is counted to die 0, a word's index within them its address. -/
def meetSlot (s : State) (p l i : Nat) : State × Bool :=
  (List.range 8).foldl (fun (a : State × Bool) k =>
    let w := (l * 65536 + i * 64) / 8 + k
    let note (sub syn : Nat) (bad : Bool) : State :=
      noteDie (bump a.1 0x4820 sub 1) 0
        { address := p * 131072 + w, syndrome := syn, count := 1, stamp := s.now, source := 4, uncorrectable := bad, unit := p }
    let gone (x : State) : State := updPart x p (fun y => { y with slotErr := sDel y.slotErr w })
    match (getPart a.1 p).slotErr.find? (fun e => e.1 == w) with
    | none => a
    | some (_, .onDie) => (gone a.1, a.2)
    | some (_, .corrected syn) => (gone (countCorrected (note 3 syn false)), a.2)
    | some (_, .uncorrectable syn) => (countDeferred (note 4 syn true), true)) (s, false)

/-- The check of R392. -/
def checkOk (b : List Byte) : Bool := crc32c (b.take 12 ++ [0, 0, 0, 0] ++ b.drop 16) == bytesAt b 12 4

/-- Some lane of some partition is stopped: LANESTOP. -/
def laneStop (s : State) : Bool := s.parts.any (fun e => e.2.lanes.any (fun l => l.2.stopped))

/-- Commands an intake queue holds (R397). -/
def queueMax : Nat := 4096

/-- The packet of the expected sequence accepted. -/
def acceptPkt (s : State) (p l : Nat) (b : List Byte) (bad : Bool) : State :=
  let s1 := updLane s p l (fun x => { x with expected := (x.expected + 1) % 2 ^ 28, badSince := none })
  let s2 := updPart (stirDevice s1) p (fun x => { x with queue := x.queue ++ [{ bytes := b, bad := bad }] })
  putLine2 (bump s2 (0x6810 + p) 9 1) p

/-- A lane stopped by an overrun; the message of LANESTOP newly set. -/
def overrun (s : State) (p l : Nat) : State :=
  let s1 := bump (updLane s p l (fun x => { x with stopped := true, badSince := none })) (0x6810 + p) 0xA 1
  if laneStop s then s1 else interrupt s1 0x6800 8

/-- What one evaluation of a slot came to. -/
inductive Seen where
  | accepted (s : State)
  | other (s : State)

/-- A slot evaluated (R394): `header` when the write touched bytes 15:0. -/
def evalSlot (s0 : State) (p l i : Nat) (header : Bool) : Seen :=
  let x := laneOf s0 p l
  let met := if x.stopped || !sGet false x.fresh i then (s0, false) else meetSlot s0 p l i
  let s := met.1
  let b := slotBytes s p l i
  let w := bytesAt b 4 4
  let q := w % 2 ^ 28
  if x.stopped || !sGet false x.fresh i then .other s
  else if w / 2 ^ 28 == l && q % 1024 == i && q == x.expected then
    if decide (queueMax ≤ (getPart s p).queue.length) then
      .other (updPart s p (fun y => { y with waits := if y.waits.contains l then y.waits else y.waits ++ [l] }))
    else if checkOk b && !met.2 then .accepted (acceptPkt s p l b (bytesAt b 1 1 % 16 != p))
    else .other (updLane s p l (fun y => { y with badSince := some (y.badSince.getD s.now) }))
  else if !header then .other s
  else if w / 2 ^ 28 == l && q % 1024 == i && (q + 2 ^ 28 - x.expected) % 1024 == 0 then .other (overrun s p l)
  else .other (bump s (0x6810 + p) 0xC 1)

/-- A slot evaluated and, once it is accepted, the slot of the next sequence, for as long as they are accepted (R394, R399). -/
def evalFrom (p l : Nat) : Nat → State → Nat → Bool → State
  | 0, s, _, _ => s
  | fuel + 1, s, i, header =>
    match evalSlot s p l i header with
    | .accepted s1 => evalFrom p l fuel s1 ((laneOf s1 p l).expected % 1024) false
    | .other s1 => s1

/-- Evaluation from a slot on; a lane has 1,024 slots. -/
def evalLane (s : State) (p l i : Nat) (header : Bool) : State := evalFrom p l 1025 s i header

/-- One part of a write that lies in one slot, applied whole and evaluated (R393). -/
def writeSlot (p : Nat) (s : State) (e : Nat × List Byte) : State :=
  let l := e.1 / 65536
  let i := e.1 % 65536 / 64
  let s1 := updPart s p (fun x => { x with slots := sSetMany 0 x.slots e.1 e.2,
                                           slotErr := sDropRange x.slotErr (ceilDiv e.1 8) ((e.1 + e.2.length) / 8) })
  evalLane (updLane s1 p l (fun x => { x with fresh := sSet false x.fresh i true })) p l i (decide (e.1 % 64 < 16))

/-- A wake event of stops 4 and 5 ends the stop (10 R266). -/
def wakeDevice (s : State) : State := if s.power.stop == 0 then s else leaveDevice s

/-- INTAKE_SLOT_WRITE: a write of bytes at an offset of a partition's window. -/
def execIntakeSlotWrite (p off : Nat) (bytes : List Byte) (s : State) : Res :=
  if isReady s && linkUp s && decide (p < 16) && !bytes.isEmpty && decide (off + bytes.length ≤ 0x100000) then
    .next ((splitLines off bytes).foldl (writeSlot p) (wakeDevice s))
  else .next s

/-- TORN_PACKET_TIMEOUT: the packet of the expected sequence is accepted as it stands. -/
def execTornPacketTimeout (p lane : Nat) (s : State) : Res :=
  let x := laneOf s p lane
  let i := x.expected % 1024
  let late := match x.badSince with | some n => decide (n + objNat s 0x6800 6 ≤ s.now) | none => false
  if isReady s && decide (p < 16) && decide (lane < 16) && !x.stopped && late && decide ((getPart s p).queue.length < queueMax) then
    let s1 := acceptPkt (bump s (0x6810 + p) 0xB 1) p lane (slotBytes s p lane i) true
    .next (evalLane s1 p lane ((i + 1) % 1024) false)
  else .next s

/-- INTAKE_QUEUE_ROOM: the slots that waited for room are evaluated again, in the order in which they came to wait. -/
def execIntakeQueueRoom (p : Nat) (s : State) : Res :=
  if isReady s && decide (p < 16) && decide ((getPart s p).queue.length < queueMax) then
    let s1 := updPart s p (fun x => { x with waits := [] })
    .next ((getPart s p).waits.foldl (fun x l => evalLane x p l ((laneOf x p l).expected % 1024) false) s1)
  else .next s

/-- LRESET (R398): no slot written before it is evaluated. -/
def execLreset (p : Nat) (v : W64) (s : State) : Res :=
  if isReady s && linkUp s && decide (p < 16) then
    let l := fld v.toNat 3 0
    let s1 := updLane s p l (fun _ => { Lane.init with expected := fld v.toNat 35 8 })
    .next (putLine2 (updPart s1 p (fun x => { x with waits := x.waits.filter (fun y => y != l) })) p)
  else .next s

/-! ### The link (R384–R386) -/

/-- A level with its speed, and a width that the link can train at (R384). -/
def linkOk (l : LinkTrain) : Bool :=
  (l.width == 16 || l.width == 8 || l.width == 4) &&
  ((l.level == 3 && l.speed == 64) || (l.level == 2 && l.speed == 32) || (l.level == 1 && l.speed != 0 && decide (l.speed ≤ 64)))

/-- A link may train: the block has power and has left reset. -/
def mayTrain (s : State) : Bool :=
  match s.boot with | .ready => true | .starting n => decide (6 ≤ n) | .fatal _ => true | _ => false

/-- What was held for the link goes out: the rings' lane words and due messages, and the sequencers' orders. Held records and host-memory
reads follow as their own commands. -/
def releaseLink (s : State) : State :=
  let s1 := (List.range 16).foldl (fun x p => if hasRing x p then fireRing (putLine2 x p) p else x) s
  let s2 := (List.range 12).foldl drainOrders s1
  if isFatal s2 then (List.range 16).foldl (fatalRecord 0) s2 else s2

/-- LINK_TRAINED: LINKREC is set when a lost link recovers (R389). -/
def execLinkTrained (l : LinkTrain) (s : State) : Res :=
  if mayTrain s && linkOk l then
    let t := if l.level == 3 then s.link.tracked else []
    let s1 := { s with link := { level := l.level, width := l.width, speed := l.speed, since := s.now, tracked := t } }
    let s2 := if !linkUp s && counter s 0x6800 0x16 != 0 then setFaultBit s1 5 else s1
    .next (releaseLink s2)
  else .next s

/-- LINK_DOWN. -/
def execLinkDown (s : State) : Res :=
  if mayTrain s && linkUp s then
    .next (bump { s with link := { level := 0, width := 0, speed := 0, since := s.now, tracked := [] } } 0x6800 0x16 1)
  else .next s

/-- LINK_DOWN_LIMIT: every partition is contained, cause LINK. -/
def execLinkDownLimit (s : State) : Res :=
  if isReady s && !linkUp s && counter s 0x6800 0x16 != 0 && decide (s.link.since + objNat s 0x6800 7 ≤ s.now) then
    .next ((List.range 16).foldl (fun x p => if (getPart x p).contained.isNone then contain x p none 6 0 else x) s)
  else .next s

end Sys2Proof.Machine
end

