-- ==== Sys2Proof/Machine/Live.lean ====
section
/-! DEFINITION. What objects read as and who may reach them (00_scope.md R2, R3, 16 R439–R442, 17 R458–R474, 06 R166, 07 R200, 10 R276,
11 R313, 12 R364, 13 R383, 14 R389, R412, 15 R438). -/

namespace Sys2Proof.Machine

open Sys2Proof

/-! ### Units of objects (R458, R462) -/

/-- A mask of the units below `n` for which a condition holds. -/
def maskOf (n : Nat) (f : Nat → Bool) : Nat := ((List.range n).filter f).foldl (fun m i => m + 2 ^ i) 0

/-- Whether an object belongs to an absent unit: a stack, die or port, the GDDR tier, die 1, or the bank engines. -/
def objAbsent (s : State) (index sub : Nat) : Bool :=
  if index / 16 == 0x400 then !stackPresent s (index % 16) || (sub == 0x10 && !hasEngines s)
  else if index == 0x4040 then sub != 0 && !stackPresent s (sub - 1)
  else if index / 16 == 0x481 then !stackPresent s (index % 16)
  else if index / 16 == 0x482 then !diePresent s (index % 16)
  else if index / 16 == 0x601 then !portPresent s (index % 16)
  else if index / 16 == 0x300 then
    (sub == 4 && !hasGddr s) || (sub == 0xE && !diePresent s 1) || (sub == 0xC && !hasEngines s)
  else if index / 16 == 0x340 then ((sub == 5 || sub == 6) && !hasGddr s) || ((sub == 3 || sub == 4) && !hasEngines s)
  else if index / 16 == 0x510 then sub == 0x13 && !hasEngines s
  else if index == 0x6800 then sub == 0x10 && !hasGddr s
  else false

/-- The highest sub-index present at an index (R439). -/
def topSub (s : State) (index : Nat) : Nat :=
  ((List.range (dictTop index + 1)).filter (fun k => (dictFind index k).isSome && !objAbsent s index k)).foldl Nat.max 0

/-! ### Rights (R442, R461; 00_scope.md R2, 16 R457) -/

/-- The principal of a transport. -/
def principalOf : Transport → Nat
  | .doe => 0
  | .mctp => 1
  | .udp _ => 2
  | .internal => 3

/-- Principals that may read an object, bit k for principal k. -/
def readRights (index sub : Nat) : Nat :=
  if index == 0x7800 && sub == 0x20 then 0
  else if (index / 16 == 0x481 && sub == 8) || (index / 16 == 0x482 && sub == 5) then 0
  else 0xF

/-- Principals that may write an object: by default the host and the network operator. -/
def writeRights (index sub : Nat) : Nat :=
  if index == 0x1100 then 0
  else if index == 0x7800 && (sub == 0x20 || sub == 0x21) then 3
  else if index == 0x7C00 && 0x10 ≤ sub && sub ≤ 0x12 then 3
  else if (index / 16 == 0x481 && sub == 8) || (index / 16 == 0x482 && sub == 5) then 7
  else if index == 0x7F00 && (sub == 1 || sub == 6) then 7
  else 5

/-! ### Values in force that the device itself sets -/

/-- The text of a string, as bytes. -/
def textBytes (t : String) : List Byte := t.toUTF8.data.toList.map (fun b => b.toBitVec)

/-- The vendor's name. -/
def vendorName : List Byte := textBytes "Ortar Microsystems"

/-- The part number. -/
def partName (v : Variant) : List Byte :=
  textBytes (match v with | .wdn4812 => "WDN-4812" | .wdn4808 => "WDN-4808" | .wdn2406 => "WDN-2406" | .wdn4812P => "WDN-4812P")

/-- The PCI device ID. -/
def pciId (v : Variant) : Nat := match v with | .wdn4812 => 0x4812 | .wdn4808 => 0x4808 | .wdn2406 => 0x2406 | .wdn4812P => 0x481A

/-- Debug access is open in PROVISIONING and RETURN (19 R509). -/
def jtagOpen (s : State) : Bool := s.hw.lifecycle == 1 || s.hw.lifecycle == 3

/-- A Boolean as a number. -/
def b2n (b : Bool) : Nat := if b then 1 else 0

/-- Stack objects (06 R166). -/
def stackNat (s : State) (n sub : Nat) : Nat :=
  let k := getStack s n
  match sub with
  | 1 => k.prot
  | 2 => k.trans
  | 3 => k.mapOut
  | 4 => 16 * (regionSize k / 0x100000)
  | 5 => regionSize k / 0x100000
  | 6 => k.refresh
  | 7 => unsignedOf 32 k.dram
  | 8 => unsignedOf 32 k.base
  | 0xD => if stackTripped s n then 2 else k.thermal
  | _ => counter s (0x4000 + n) sub

/-- Partition state objects (13 R383). -/
def partNat (s : State) (p sub : Nat) : Nat :=
  let x := getPart s p
  match sub with
  | 5 => if x.contained.isSome then 3 else if x.held then 2 else b2n x.model.isSome
  | 9 => (x.model.map (fun m => m.identity)).getD 0
  | _ => counter s (0x3000 + p) sub

/-- KV objects (11 R313). -/
def kvNat (s : State) (p sub : Nat) : Nat :=
  let x := getPart s p
  match sub with
  | 1 => (x.model.map (fun m => m.kvclass)).getD 0
  | 2 => poolSize x
  | 3 => pagesFree x
  | 5 => 4
  | 0xB => negInStacks x
  | _ => counter s (0x5100 + p) sub

/-- Power and cadence objects (10 R276). -/
def powerNat (s : State) (sub : Nat) : Nat :=
  match sub with
  | 2 => deviceTolerance s
  | 3 => deviceStop s
  | 7 => s.power.lastPower
  | 8 => peakPower s
  | 9 => throttleCause s
  | 0xA => s.power.episodes
  | _ => 0

/-- Cadence objects (10 R276). Of a source other than pulses the spec states no rate: a free value. -/
def cadNat (s : State) (sub : Nat) : Nat :=
  match sub with
  | 1 => s.now
  | 3 => s.cad.lock
  | 4 => s.cad.source
  | 9 => if s.cad.source == 1 then freeNat s else unsignedOf 32 s.cad.rate
  | 0xA => unsignedOf 32 s.cad.phaseErr
  | _ => counter s 0x2400 sub

/-- The feature map (00_scope.md R2). DESIGN CHOICE (log entry 86): a stack that is not brought up for having more than twelve mapped-out
channels (06 R162, 18 R463) shows as absent in sub-index 8, though R2 lists it for the part. -/
def featureNat (s : State) (sub : Nat) : Nat :=
  match sub with
  | 1 => dieMask s.hw.variant
  | 2 => maskOf 12 (stackPresent s)
  | 3 => b2n (hasEngines s)
  | 4 => gddrMiB s
  | 5 => maskOf 9 (portPresent s)
  | 6 => (capRange s.hw.variant).1
  | 7 => (capRange s.hw.variant).2
  | _ => maskOf 12 (fun n => stackPresent s n && (getStack s n).mapOut != 0)

/-- Host-link objects (14 R412). -/
def linkNat (s : State) (sub : Nat) : Nat :=
  match sub with
  | 1 => s.link.level
  | 2 => s.link.speed
  | 3 => s.link.width
  | 4 => s.link.level - 1
  | 5 => b2n (s.link.level == 3)
  | 0x12 => hdmSize s / 0x100000
  | _ => counter s 0x6800 sub

/-- Adapter slots that are not EMPTY. -/
def slotsUsed (x : Part) : Nat := (x.adapters.filter (fun e => e.2.state != 0)).length

/-- Staging and commit (16 R457). -/
def commitNat (s : State) (sub : Nat) : Nat :=
  match sub with
  | 2 => s.commit.token
  | 3 => s.commit.state
  | 4 => s.commit.phase
  | 5 => s.commit.reason
  | _ => s.staged.length

/-- Port objects (15 R438). -/
def portNat (s : State) (n sub : Nat) : Nat :=
  match sub with
  | 2 => (getPort s n).state
  | 3 => (getPort s n).width
  | 4 => (getPort s n).peer
  | _ => counter s (0x6010 + n) sub

/-- Identity and firmware numbers (17 R464, R474). -/
def idNat (s : State) (index sub : Nat) : Nat :=
  if index == 0x1000 then (match sub with | 3 => 0x1F9A | 4 => pciId s.hw.variant | 6 => s.hw.stepping | _ => 1)
  else match sub with
    | 2 => s.fw.svn.getD 0 0
    | 4 => s.fw.slot
    | 5 => s.fw.update
    | _ => s.fw.reason

/-- The number that a read-only object of fixed length holds. -/
def roNat (s : State) (index sub : Nat) : Nat :=
  let u := index % 16
  if index == 0x1000 || index == 0x7C00 then idNat s index sub
  else if index == 0x1100 then featureNat s sub
  else if index == 0x2000 then powerNat s sub
  else if index == 0x2011 then partStop s (sub - 1)
  else if index == 0x2400 then cadNat s sub
  else if index / 16 == 0x300 then partNat s u sub
  else if index / 16 == 0x400 then stackNat s u sub
  else if index == 0x5000 then (match sub with | 1 => 4096 | 2 => 8192 | _ => maskOf 9 (acceptsPages s))
  else if index / 16 == 0x510 then kvNat s u sub
  else if index / 16 == 0x520 then
    (match sub with | 1 => (getPart s u).sessions.length | 0xF => b2n (getPart s u).draft.isSome | _ => counter s index sub)
  else if index / 16 == 0x580 then (match sub with | 1 => slotsUsed (getPart s u) | 3 => 256 | _ => counter s index sub)
  else if index / 16 == 0x601 then portNat s u sub
  else if index == 0x6800 then linkNat s sub
  else if index == 0x7000 && sub == 2 then 4096
  else if index == 0x7800 && sub ≤ 2 then (if sub == 1 then s.hw.lifecycle else b2n (jtagOpen s))
  else if index == 0x7F00 then commitNat s sub
  else counter s index sub

/-! ### Structured values -/

/-- An entry of an error log (17 R466). -/
def logBytes : Option LogEntry → List Byte
  | none => List.replicate 32 0
  | some e =>
    natLe 8 (e.address % 2 ^ 52) ++ natLe 4 e.syndrome ++ natLe 4 e.count ++ natLe 8 e.stamp ++ natLe 1 e.source
      ++ natLe 1 (1 + 2 * b2n e.uncorrectable) ++ natLe 2 e.unit ++ natLe 4 0

/-- The counters of an engine (07 R200). -/
def engineBytes (e : Engine) : List Byte :=
  natLe 4 e.runs ++ natLe 4 e.cols ++ natLe 4 e.skipped ++ natLe 4 e.stallref ++ natLe 4 e.stallext ++ natLe 4 e.faults
    ++ natLe 2 e.lastCode ++ natLe 2 e.lastIndex ++ natLe 4 0

/-- The counters of a tensor core (17 R471). -/
def coreBytes (c : Core) : List Byte :=
  natLe 8 c.packetsDone ++ natLe 4 c.dropped ++ natLe 4 c.faults ++ natLe 8 c.cycles ++ natLe 4 c.lends ++ natLe 4 0

/-- The counters of a steward core (17 R471). -/
def stewardBytes (c : Steward) : List Byte := natLe 8 c.admitted ++ natLe 8 0 ++ natLe 8 c.streams ++ natLe 4 c.accessFaults ++ natLe 4 0

/-- An adapter slot (12 R364): its reference count is of the sessions that hold it. -/
def slotEntry (x : Part) (i : Nat) : List Byte :=
  let v := sGet Slot.init x.adapters i
  natLe 2 v.id ++ natLe 2 v.version ++ natLe 1 v.state ++ natLe 1 v.tier ++ natLe 2 v.rank
    ++ natLe 4 (x.sessions.filter (fun y => y.slot == some i)).length ++ natLe 4 0

/-- A measurement (17 R472): index, kind and digest. -/
def measureEntry (i : Nat) (d : List Byte) : List Byte :=
  natLe 1 (i + 1) ++ natLe 1 ([0, 1, 1, 1, 2, 3].getD i 0) ++ natLe 14 0 ++ padTo 48 d

/-- The value of a read-only STR or BLOB. -/
def roBytes (s : State) (index sub : Nat) : List Byte :=
  let u := index % 16
  if index == 0x1000 then
    (match sub with | 1 => vendorName | 2 => partName s.hw.variant | _ => s.hw.serial)
  else if index / 16 == 0x400 then (List.range (engineCount (getStack s u))).flatMap (fun q => engineBytes (getEngine (getStack s u) q))
  else if index / 16 == 0x481 then (getStack s u).log.flatMap logBytes
  else if index / 16 == 0x482 then (dieLogOf s u).flatMap logBytes
  else if index / 16 == 0x580 then (List.range 64).flatMap (slotEntry (getPart s u))
  else if index == 0x7000 then (List.range 4096).flatMap (fun i => sGet noSample s.samples i)
  else if index == 0x7040 then (List.range 64).flatMap (fun t => coreBytes (getCore s t))
  else if index == 0x7041 then (List.range 16).flatMap (fun i => stewardBytes (getSteward s i))
  else if index == 0x7800 then (indexed s.fw.measures).flatMap (fun e => measureEntry e.1 e.2)
  else if index == 0x7C00 && sub == 1 then s.fw.name
  else s.hw.antiRollback.flatMap (natLe 4)

/-- The value in force of an object that exists. -/
def objRead (s : State) (index sub : Nat) : List Byte :=
  match dictFind index sub with
  | none => natLe 1 (topSub s index)
  | some r =>
    if r.access != 0 then (if index / 16 == 0x400 then natLe 2 (stackNat s (index % 16) 1) else objBytes s index sub)
    else if r.type == 9 || r.type == 0xA then roBytes s index sub
    else natLe r.max (roNat s index sub)

/-! ### Output lands (20 R531, R532) -/

/-- GPIO0, PWRDN_RDY. -/
def pinPowerDownReady (s : State) : Bool := s.power.powerDownReady

/-- GPIO1, READY. -/
def pinReady (s : State) : Bool := isReady s

/-- GPIO2, FATAL: low until firmware starts in phase 6, whatever has failed before. -/
def pinFatal (s : State) : Bool :=
  match s.boot with
  | .fatal none => true
  | .fatal (some n) => decide (6 ≤ n)
  | _ => false

/-- THERMAL_ALERT_N: low while any trip is in force. -/
def pinAlertN (s : State) : Bool := !s.alert

/-! ### The hot registers (14 R389) -/

/-- What ISTAT.STATE shows; of several that hold, which is a free choice. -/
def intakeState (s : State) (p : Nat) : Nat :=
  let x := getPart s p
  let l := (if x.held then [1] else []) ++ (if hasRing s p then [] else [2]) ++ (if x.contained.isSome then [3] else []) ++
    (if decide (queueMax ≤ x.queue.length) then [4] else [])
  l.getD (freeNat s % max 1 l.length) 0

/-- FAULTSUM. -/
def faultsumWord (s : State) : Nat :=
  s.faultsum % 64 / 32 * 32 + b2n s.alert * 16 + s.faultsum % 16 + b2n (laneStop s) * 64 +
    2 ^ 32 * maskOf 16 (fun p => (getPart s p).contained.isSome)

/-- The hot register at an offset of BAR0; 0 where none begins. LRESET is written only. -/
def hotReg (s : State) (off : Nat) : Nat :=
  let p := (off - 0x100) / 0x80
  let r := (off - 0x100) % 0x80
  if off == 0 then s.now
  else if off == 8 then 8 * s.cad.source + 2 * s.cad.lock + b2n (holdoverFlag s)
  else if off == 0x10 then 2 ^ 16 * maskOf 16 (fun p => partStop s p != 0) + deviceStop s
  else if off == 0x18 then faultsumWord s
  else if off < 0x100 || 0x900 ≤ off then 0
  else if r == 0 then 2 ^ 16 * intakeState s p + maskOf 16 (fun l => (laneOf s p l).stopped)
  else if 0x40 ≤ r && r % 4 == 0 then lseqWord s p ((r - 0x40) / 4)
  else 0

end Sys2Proof.Machine
end

