-- ==== Sys2Proof/Machine/Ebund.lean ====
section
/-! DEFINITION. The Ebund protocol: requests, checks, segments, replay and the transports (16_ebund_protocol.md R439–R454, 17 R466, R473,
10 R268). -/

namespace Sys2Proof.Machine

open Sys2Proof

/-! ### Messages (R443, R444, R452) -/

/-- A request's fields (R443), with the bytes received after its header. -/
structure Req where
  version : Nat
  op : Nat
  id : Nat
  index : Nat
  sub : Nat
  flags : Nat
  handle : Nat
  length : Nat
  offset : Nat
  body : List Byte

/-- What a response says beyond what it echoes (R444). -/
structure Reply where
  abort : Nat
  flags : Nat
  handle : Nat
  value : List Byte

def abUnknownOp : Nat := 0x05040001
def abMalformed : Nat := 0x05040002
def abHandle : Nat := 0x05040003
def abSegment : Nat := 0x05040004
def abTooMany : Nat := 0x05040005
def abTooLong : Nat := 0x05040006
def abReadOnly : Nat := 0x06010001
def abWriteOnly : Nat := 0x06010002
def abRight : Nat := 0x06010003
def abNoIndex : Nat := 0x06020000
def abNoSub : Nat := 0x06090011
def abPoison : Nat := 0x08000024

/-- The largest value of one message, and the largest message (R443, R449). -/
def valueMax : Nat := 1008
def messageMax : Nat := 1024

/-- A request's fields read from its bytes. A DOE message may carry zero bytes up to a whole doubleword (R449). -/
def parseReq (tr : Transport) (m : List Byte) : Req :=
  let n := bytesAt m 10 2
  let rest := m.drop 16
  let pad := rest.drop n
  let cut := tr == .doe && decide (m.length = ceilDiv (16 + n) 4 * 4) && pad.all (fun b => b == 0)
  { version := bytesAt m 0 1, op := bytesAt m 1 1, id := bytesAt m 2 2, index := bytesAt m 4 2, sub := bytesAt m 6 1,
    flags := bytesAt m 7 1, handle := bytesAt m 8 2, length := n, offset := bytesAt m 12 4,
    body := if cut then rest.take n else rest }

/-- The bytes of a response; one with an abort carries no value. -/
def replyBytes (q : Req) (r : Reply) : List Byte :=
  let v := if r.abort == 0 then r.value else []
  natLe 1 1 ++ natLe 1 (q.op % 128 + 128) ++ natLe 2 q.id ++ natLe 2 q.index ++ natLe 1 q.sub
    ++ natLe 1 (if r.abort == 0 then r.flags else 0) ++ natLe 2 r.handle ++ natLe 2 v.length ++ natLe 4 r.abort ++ v

/-- A refusal. -/
def refuse (q : Req) (code : Nat) : Reply := { abort := code, flags := 0, handle := q.handle, value := [] }

/-- Success with no value. -/
def okReply (q : Req) : Reply := { abort := 0, flags := 0, handle := q.handle, value := [] }

/-! ### Checks (R447) -/

/-- Checks 1 and 2: form, then op. Handle and offset are reserved outside segments, and an op that takes no value has none. -/
def formCheck (q : Req) : Nat :=
  let seg := 3 ≤ q.op && q.op ≤ 7
  if q.version != 1 || decide (1 < q.flags) || decide (valueMax < q.length) || q.body.length != q.length
      || (!seg && (q.handle != 0 || q.offset != 0)) then abMalformed
  else if q.op == 0 || decide (8 < q.op) then abUnknownOp
  else if q.length != 0 && q.op != 2 && q.op != 5 then abMalformed
  else 0

/-- Checks 3 and 4: the object exists, and its unit is present. -/
def objectCheck (s : State) (q : Req) : Nat :=
  if !dictHasIndex q.index then abNoIndex
  else if q.sub != 0 && (dictFind q.index q.sub).isNone then abNoSub
  else if objAbsent s q.index q.sub then abAbsent
  else 0

/-- The access class of an object; sub-index 0 is RO. -/
def accessOf (index sub : Nat) : Nat := match dictFind index sub with | some r => r.access | none => 0

/-- Checks 5 and 6: the principal's right, then the access class (R441). -/
def accessCheck (pr : Nat) (q : Req) (write : Bool) : Nat :=
  if !bitAt (if write then writeRights q.index q.sub else readRights q.index q.sub) pr then abRight
  else if write && accessOf q.index q.sub == 0 then abReadOnly
  else if !write && accessOf q.index q.sub == 2 then abWriteOnly
  else 0

/-- Check 7: a length against the type, the entry size and, for the HMAC key, 17 R472. More entries than a BLOB of entries may have
is a matter of range (R447). -/
def lengthCheck (q : Req) (n : Nat) : Nat :=
  match dictFind q.index q.sub with
  | none => abLength
  | some r =>
    let ok :=
      if r.type == 9 then decide (n ≤ r.max)
      else if r.type == 0xA then (decide (n ≤ r.max) || decide (1 < r.entry)) && n % max 1 r.entry == 0
      else n == r.max
    if !ok || (q.index == 0x7800 && q.sub == 0x20 && n != 0 && decide (n < 32)) then abLength else 0

/-- The first check that fails. -/
def firstOf : List Nat → Nat
  | [] => 0
  | 0 :: l => firstOf l
  | c :: _ => c

/-! ### Writing a value (R441, R453, R454) -/

/-- A commit requested: PENDING, or HOLDING when a phased change is staged (R456). -/
def requestCommit (s : State) (token : Nat) : State :=
  let phased := s.staged.any (fun e => isPhased s e.1 e.2)
  let c : Commit := { Commit.init with state := if phased then 2 else 1, token := token, tick := s.now, phased := phased }
  { s with commit := c }

/-- What a write of an RW or WO object does before its response is sent. -/
def applyNow (s : State) (index sub : Nat) (v : List Byte) : State :=
  if index == 0x2000 && sub == 5 then { s with power := { s.power with draining := true } }
  else if index == 0x2010 then setTolerance s (sub - 1) v
  else if index / 16 == 0x400 then s
  else if index / 16 == 0x481 then setCounter (updStack s (index % 16) (fun k => { k with log := emptyLog })) index 2 0
  else if index / 16 == 0x482 then setCounter { s with dieLog := sDel s.dieLog (index % 16) } index 2 0
  else if index == 0x7800 && sub == 0x20 then setCounter (setObj s index sub v) index 0x24 0
  else if index == 0x7F00 && sub == 1 then requestCommit s (leNat v)
  else if index == 0x7F00 then (if leNat v == 1 then clearShadow s else s)
  else setObj s index sub v

/-- Check 9, with the refusal of every write in the Fatal state but the request for stop 6 (18 R489). -/
def stateCheck (s : State) (index sub : Nat) (v : List Byte) : Nat :=
  let n := withValues (ahead s) [(objKey index sub, v)]
  if isFatal s && !(index == 0x2000 && sub == 5) then abConflict
  else if valueConflict s n index sub then abConflict
  else 0

/-- A whole value written: checks 8 and 9, then its effect by class. -/
def writeValue (s : State) (index sub : Nat) (v : List Byte) : State × Nat :=
  let w := cleanValue index sub v
  match firstOf [valueRange s index sub v, stateCheck s index sub w] with
  | 0 => (if accessOf index sub == 3 then { s with staged := sIns s.staged (objKey index sub) w } else applyNow s index sub w, 0)
  | c => (s, c)

/-! ### Segmented transfers (R450, R451) -/

/-- ct without a request after which a transfer closes. -/
def segIdle : Nat := 1000000

/-- Transfers that their idle time has closed are gone. -/
def dropIdle (s : State) : State := { s with transfers := s.transfers.filter (fun x => decide (s.now < x.last + segIdle)) }

/-- The open transfer that a principal's request names. -/
def findTransfer (s : State) (pr : Nat) (h : Nat) (write : Bool) : Option Transfer :=
  s.transfers.find? (fun x => x.handle == h && x.principal == pr && x.write == write)

/-- A transfer changed, with the time of this request. -/
def touchTransfer (s : State) (h : Nat) (f : Transfer → Transfer) : State :=
  { s with transfers := s.transfers.map (fun x => if x.handle == h then { f x with last := s.now } else x) }

/-- A transfer closed. -/
def closeTransfer (s : State) (h : Nat) : State := { s with transfers := s.transfers.filter (fun x => x.handle != h) }

/-- A handle that no transfer has: which one the device picks is a free choice. -/
def newHandle (s : State) : Nat :=
  (((List.range 17).map (fun i => (freeNat s + i) % 65535 + 1)).find? (fun h => s.transfers.all (fun x => x.handle != h))).getD 1

/-- A principal holds its four transfers. -/
def tooMany (s : State) (pr : Nat) : Bool := decide (4 ≤ (s.transfers.filter (fun x => x.principal == pr)).length)

/-- A transfer opened. -/
def openTransfer (s : State) (pr : Nat) (q : Req) (write staged : Bool) (total : Nat) (data : List Byte) : State × Transfer :=
  let x : Transfer := { handle := newHandle s, principal := pr, write := write, staged := staged, index := q.index, sub := q.sub,
                        total := total, data := sSetMany 0 [] 0 data, seen := [], last := s.now }
  ({ drew s with transfers := s.transfers ++ [x] }, x)

/-- A segment of a snapshot; the one that reaches its end closes the transfer. -/
def readSegment (s : State) (q : Req) (x : Transfer) : State × Reply :=
  let n := min valueMax (x.total - q.offset)
  let last := decide (x.total ≤ q.offset + n)
  let s1 := touchTransfer s x.handle id
  if x.total < q.offset then (s1, refuse q abSegment)
  else (if last then closeTransfer s1 x.handle else s1,
        { abort := 0, flags := b2n x.staged + 2 * b2n last, handle := x.handle, value := sGetMany 0 x.data q.offset n })

/-- The value that a read returns, and whether it is a staged one (R453). -/
def readValue (s : State) (q : Req) : List Byte × Bool :=
  match s.staged.find? (fun e => e.1 == objKey q.index q.sub && bitAt q.flags 0) with
  | some e => (e.2, true)
  | none => (objRead s q.index q.sub, false)

/-- The triplicated word that an object's value is (18 R480). -/
def objWord (index sub : Nat) : Option Nat :=
  if index / 16 == 0x300 && decide (1 ≤ sub) && decide (sub ≤ 4) then some wPartition
  else if index / 16 == 0x400 && sub == 1 then some wStrips
  else if index / 16 == 0x400 && sub == 3 then some wMapOut
  else if index == 0x7800 && (sub == 1 || sub == 2) then some wLifecycle
  else if index == 0x2000 && sub == 4 then some wStops
  else if index == 0x7C00 && sub == 3 then some wRollback
  else none

/-- The state after a read: an object whose value is free draws it, and one that is a triplicated word is voted. -/
def afterRead (s : State) (q : Req) : State :=
  if q.index == 0x2400 && q.sub == 9 && s.cad.source == 1 then drew s
  else match objWord q.index q.sub with | some w => readWord w s | none => s

/-- The abort of a read of a value in force that lies in poisoned memory (R452, 18 R483). -/
def poisonCheck (s : State) (q : Req) (staged : Bool) : Nat :=
  if !staged && s.objPoison.contains (objKey q.index q.sub) then abPoison else 0

/-! ### The operations (R445) -/

/-- READ. -/
def serveRead (s : State) (pr : Nat) (q : Req) : State × Reply :=
  let v := readValue s q
  match firstOf [objectCheck s q, accessCheck pr q false, if valueMax < v.1.length then abTooLong else 0, poisonCheck s q v.2] with
  | 0 => (afterRead s q, { abort := 0, flags := b2n v.2, handle := q.handle, value := v.1 })
  | c => (s, refuse q c)

/-- WRITE. -/
def serveWrite (s : State) (pr : Nat) (q : Req) : State × Reply :=
  match firstOf [objectCheck s q, accessCheck pr q true, lengthCheck q q.length] with
  | 0 => let r := writeValue s q.index q.sub q.body; (r.1, if r.2 == 0 then okReply q else refuse q r.2)
  | c => (s, refuse q c)

/-- SEG_READ: with no handle at offset 0 it opens a transfer. -/
def serveSegRead (s : State) (pr : Nat) (q : Req) : State × Reply :=
  if q.handle == 0 && q.offset == 0 then
    let v := readValue s q
    match firstOf [objectCheck s q, accessCheck pr q false, if tooMany s pr then abTooMany else 0, poisonCheck s q v.2] with
    | 0 =>
      let r := openTransfer (afterRead s q) pr q false v.2 v.1.length v.1
      readSegment r.1 q r.2
    | c => (s, refuse q c)
  else
    match findTransfer s pr q.handle false with
    | some x => readSegment s q x
    | none => (s, refuse q abHandle)

/-- SEG_BEGIN: checks up to 7 against the total length. -/
def serveSegBegin (s : State) (pr : Nat) (q : Req) : State × Reply :=
  match firstOf [objectCheck s q, accessCheck pr q true, lengthCheck q q.offset, if tooMany s pr then abTooMany else 0] with
  | 0 => let r := openTransfer s pr q true false q.offset []; (r.1, { abort := 0, flags := 0, handle := r.2.handle, value := [] })
  | c => (s, refuse q c)

/-- SEG_WRITE: a later segment wins where two overlap. -/
def serveSegWrite (s : State) (pr : Nat) (q : Req) : State × Reply :=
  match findTransfer s pr q.handle true with
  | none => (s, refuse q abHandle)
  | some x =>
    if x.total < q.offset + q.length then (touchTransfer s x.handle id, refuse q abSegment)
    else
      (touchTransfer s x.handle (fun y =>
        { y with data := sSetMany 0 y.data q.offset q.body,
                 seen := sSetMany false y.seen q.offset (List.replicate q.length true) }), okReply q)

/-- SEG_END: the whole value is written, unless a byte of it never was. The transfer closes. -/
def serveSegEnd (s : State) (pr : Nat) (q : Req) : State × Reply :=
  match findTransfer s pr q.handle true with
  | none => (s, refuse q abHandle)
  | some x =>
    let s1 := closeTransfer s x.handle
    if x.seen.length != x.total then (s1, refuse q abSegment)
    else let r := writeValue s1 x.index x.sub (sGetMany 0 x.data 0 x.total); (r.1, if r.2 == 0 then okReply q else refuse q r.2)

/-- SEG_ABORT. -/
def serveSegAbort (s : State) (pr : Nat) (q : Req) : State × Reply :=
  match s.transfers.find? (fun x => x.handle == q.handle && x.principal == pr) with
  | none => (s, refuse q abHandle)
  | some x => (closeTransfer s x.handle, okReply q)

/-- The default value of an object as DESCRIBE returns it: none beyond 976 bytes. -/
def describedDefault (s : State) (index sub : Nat) : List Byte :=
  let v := if index == 0x1000 && sub == 1 then vendorName else if sub == 0 then natLe 1 (topSub s index) else objDefault s index sub
  if 976 < v.length then [] else v

/-- An object's descriptor (R446), with its default value. -/
def descriptor (s : State) (index sub : Nat) : List Byte :=
  let d := describedDefault s index sub
  let head (type access max entry : Nat) (unit : List Byte) : List Byte :=
    natLe 1 type ++ natLe 1 access ++ natLe 1 (readRights index sub) ++ natLe 1 (writeRights index sub) ++ natLe 4 max ++ natLe 4 entry
      ++ natLe 4 d.length ++ padTo 16 unit ++ d
  match dictFind index sub with
  | none => head 2 0 1 0 []
  | some r => head r.type r.access r.max (if r.type == 0xA then r.entry else 0) (textBytes r.unit)

/-- DESCRIBE. -/
def serveDescribe (s : State) (q : Req) : State × Reply :=
  match objectCheck s q with
  | 0 => (s, { abort := 0, flags := 0, handle := q.handle, value := descriptor s q.index q.sub })
  | c => (s, refuse q c)

/-- One request handled. -/
def serve (s : State) (pr : Nat) (q : Req) : State × Reply :=
  match formCheck q with
  | 0 =>
    match q.op with
    | 1 => serveRead s pr q
    | 2 => serveWrite s pr q
    | 3 => serveSegRead s pr q
    | 4 => serveSegBegin s pr q
    | 5 => serveSegWrite s pr q
    | 6 => serveSegEnd s pr q
    | 7 => serveSegAbort s pr q
    | _ => serveDescribe s q
  | c => (s, refuse q c)

/-! ### Transports (R442, R448, R449) -/

/-- The UDP key; none is held while it is empty. -/
def udpKey (s : State) : List Byte := objBytes s 0x7800 0x20

/-- The tag of a datagram: 16 bytes of HMAC-SHA-384 over counter and message. -/
def udpTag (key counter msg : List Byte) : List Byte := (hmacSha384 key (counter ++ msg)).take 16

/-- An IPv4 address of four bytes, first octet first, as a number whose leading bits are the first octet's. -/
def beWord (b : List Byte) : Nat := b.foldl (fun a x => a * 256 + x.toNat) 0

/-- Whether a source's leading bits equal those of an entry of the allow list (17 R472). -/
def sourceAllowed (s : State) (source : W32) : Bool :=
  (entriesOf 8 (objBytes s 0x7800 0x21)).any (fun e =>
    let drop := 2 ^ (32 - bytesAt e 4 1)
    beWord (e.take 4) / drop == source.toNat / drop)

/-- The message inside what a transport carries. -/
def messageOf (tr : Transport) (b : List Byte) : List Byte :=
  match tr with | .udp _ => if b.length < 24 then [] else (b.drop 8).take (b.length - 24) | _ => b

/-- Whether a UDP datagram is authenticated: key, source, tag, and a counter above the last one accepted. -/
def udpOk (s : State) (source : W32) (b : List Byte) : Bool :=
  let key := udpKey s
  !key.isEmpty && decide (24 ≤ b.length) && sourceAllowed s source &&
  b.drop (b.length - 16) == udpTag key (b.take 8) (messageOf (.udp source) b) && decide (counter s 0x7800 0x24 < bytesAt b 0 8)

/-- Whether a message's length is one that R449 carries. -/
def lengthOk (m : List Byte) : Bool := decide (16 ≤ m.length) && decide (m.length ≤ messageMax)

/-- What a transport does with what it received before the message is handled: the state, and whether it is handled. A datagram that is both
unauthenticated and of a wrong length is discarded, under which count is a free choice. -/
def receive (s : State) (tr : Transport) (b : List Byte) : State × Bool :=
  let short := !lengthOk (messageOf tr b)
  let forged := match tr with | .udp a => !udpOk s a b | _ => false
  if short && forged then (bump (drew s) 0x7800 (if freeBool s then 0x22 else 0x23) 1, false)
  else if forged then (bump s 0x7800 0x22 1, false)
  else if short then (bump s 0x7800 0x23 1, false)
  else match tr with
    | .udp _ => (setCounter s 0x7800 0x24 (bytesAt b 0 8), true)
    | _ => (s, true)

/-- A response sent on its transport: a UDP one under the request's counter and tagged with the key in force when it was handled (17 R473);
a DOE one padded to doublewords, with the message of its vector (14 R406). -/
def sendReply (s : State) (tr : Transport) (key : List Byte) (b r : List Byte) : State :=
  match tr with
  | .udp _ => emit s (.ebund tr (bytesAt b 0 8) (b.take 8 ++ r ++ udpTag key (b.take 8) r))
  | .doe => interrupt (emit s (.ebund tr 0 (padTo (ceilDiv r.length 4 * 4) r))) 0x6800 0xB
  | _ => emit s (.ebund tr 0 r)

/-- Whether a transport answers Ebund now: from ready, but in stop 5 over the host link alone (10 R266, R267); in the Fatal state; and over MCTP
alone after a Fatal error raised before ready (19 R495, R498). -/
def ebundUp (s : State) (tr : Transport) : Bool :=
  match s.boot with
  | .ready => (match tr with | .doe => linkUp s | _ => s.power.stop != 5)
  | .fatal none => (match tr with | .doe => linkUp s | _ => true)
  | .fatal (some _) => (match tr with | .mctp => true | _ => false)
  | _ => false

/-- A message handled, or its kept response sent again (R448). -/
def handleMsg (s : State) (tr : Transport) (b : List Byte) : State :=
  let m := messageOf tr b
  let pr := principalOf tr
  let key := udpKey s
  match s.principals.find? (fun e => e.1 == pr && e.2.1 == m) with
  | some e => sendReply s tr key b e.2.2
  | none =>
    let q := parseReq tr m
    let r := serve (dropIdle s) pr q
    let out := replyBytes q r.2
    sendReply { r.1 with principals := sIns r.1.principals pr (m, out) } tr key b out

/-- A message that `sel` picks, received on a transport: it ends a stop 4 or 5 (10 R266) and is handled. -/
def ebundCommand (tr : Transport) (b : List Byte) (sel : Req → Bool) (s : State) : Res :=
  if ebundUp s tr && sel (parseReq tr (messageOf tr b)) then
    let r := receive s tr b
    .next (if r.2 then handleMsg (wakeDevice r.1) tr b else r.1)
  else .next s

/-- A WRITE of one object. -/
def writesObj (index sub : Nat) (q : Req) : Bool := q.op == 2 && q.index == index && q.sub == sub

/-- READ (R445). -/
def execEbRead (tr : Transport) (msg : List Byte) (s : State) : Res := ebundCommand tr msg (fun q => q.op == 1) s

/-- WRITE (R441, R445). -/
def execEbWrite (tr : Transport) (msg : List Byte) (s : State) : Res := ebundCommand tr msg (fun q => q.op == 2) s

/-- SEG_READ. -/
def execSegRead (tr : Transport) (msg : List Byte) (s : State) : Res := ebundCommand tr msg (fun q => q.op == 3) s

/-- SEG_BEGIN. -/
def execSegBegin (tr : Transport) (msg : List Byte) (s : State) : Res := ebundCommand tr msg (fun q => q.op == 4) s

/-- SEG_WRITE. -/
def execSegWrite (tr : Transport) (msg : List Byte) (s : State) : Res := ebundCommand tr msg (fun q => q.op == 5) s

/-- SEG_END. -/
def execSegEnd (tr : Transport) (msg : List Byte) (s : State) : Res := ebundCommand tr msg (fun q => q.op == 6) s

/-- SEG_ABORT. -/
def execSegAbort (tr : Transport) (msg : List Byte) (s : State) : Res := ebundCommand tr msg (fun q => q.op == 7) s

/-- DESCRIBE. -/
def execDescribe (tr : Transport) (msg : List Byte) (s : State) : Res := ebundCommand tr msg (fun q => q.op == 8) s

/-- UNKNOWN_OP (R452). -/
def execUnknownOp (tr : Transport) (msg : List Byte) (s : State) : Res :=
  ebundCommand tr msg (fun q => q.op == 0 || decide (8 < q.op)) s

/-- SEGMENT_TIMEOUT (R450). -/
def execSegmentTimeout (handle : Nat) (s : State) : Res :=
  .next { s with transfers := s.transfers.filter (fun x => x.handle != handle || decide (s.now < x.last + segIdle)) }

/-- STOP6_REQUEST: a write of 6 to 0x2000:05 (10 R268). -/
def execStop6Request (tr : Transport) (msg : List Byte) (s : State) : Res := ebundCommand tr msg (writesObj 0x2000 5) s

/-- COMMIT_REQUEST: a write of 0x7F00:01 (R454). -/
def execCommitRequest (tr : Transport) (msg : List Byte) (s : State) : Res := ebundCommand tr msg (writesObj 0x7F00 1) s

/-- SHADOW_CLEAR: a write of 0x7F00:06 (R453). -/
def execShadowClear (tr : Transport) (msg : List Byte) (s : State) : Res := ebundCommand tr msg (writesObj 0x7F00 6) s

/-- HMAC_KEY_WRITE: a write of 0x7800:20 (17 R473). -/
def execHmacKeyWrite (tr : Transport) (msg : List Byte) (s : State) : Res := ebundCommand tr msg (writesObj 0x7800 0x20) s

/-- STACK_LOG_CLEAR: a write of 0x4810+s:08 (17 R466). -/
def execStackLogClear (tr : Transport) (msg : List Byte) (s : State) : Res :=
  ebundCommand tr msg (fun q => writesObj (0x4810 + q.index % 16) 8 q) s

/-- DIE_LOG_CLEAR: a write of 0x4820+d:05 (17 R466). -/
def execDieLogClear (tr : Transport) (msg : List Byte) (s : State) : Res :=
  ebundCommand tr msg (fun q => writesObj (0x4820 + q.index % 16) 5 q) s

end Sys2Proof.Machine
end

