-- ==== Sys2Proof/Machine/Attest.lean ====
section
/-! DEFINITION. The DOE protocols and the SPDM responder (14_host_link.md R387, 19_startup_and_security.md R510–R512). Message layouts are
those of PCIe DOE, CXL CDAT and DSP0274, which the spec names and does not restate (PRESUMED, log entry 22). -/

namespace Sys2Proof.Machine

open Sys2Proof

/-! ### DOE (R387) -/

/-- The protocols of R387, in its order: vendor and type. -/
def doeProtocols : List (Nat × Nat) := [(0x0001, 0x00), (0x0001, 0x01), (0x1E98, 0x02), (0x1F9A, 0x01)]

/-- A DOE response, with the message of its vector; a DOE request ends a stop 4 or 5 (10 R266). -/
def doeReply (s : State) (b : List Byte) : State := interrupt (emit s (.doe b)) 0x6800 0xB

/-- DOE is answered from ready, over a link that is up. -/
def doeUp (s : State) : Bool := isReady s && linkUp s

/-- DOE_DISCOVERY: the protocol at an index and the next index, 0 at the last; vendor 0xFFFF beyond them. -/
def execDoeDiscovery (index : Nat) (s : State) : Res :=
  if doeUp s then
    let e := doeProtocols.getD index (0xFFFF, 0)
    let next := if index + 1 < doeProtocols.length then index + 1 else 0
    .next (doeReply (wakeDevice s) (natLe 2 e.1 ++ natLe 1 e.2 ++ natLe 1 next))
  else .next s

/-- The two HDM ranges as DPA base and bytes: the GDDR range, then the stacks'. -/
def dpaRanges (s : State) : List (Nat × Nat) :=
  let g := (hdmGddr s).2 - (hdmGddr s).1
  [(0, g), (g, hdmSize s - g)]

/-- A DSMAS entry. -/
def dsmas (i : Nat) (r : Nat × Nat) : List Byte :=
  natLe 1 0 ++ natLe 1 0 ++ natLe 2 24 ++ natLe 1 i ++ natLe 1 0 ++ natLe 2 0 ++ natLe 8 r.1 ++ natLe 8 r.2

/-- The sum of some bytes modulo 256. -/
def sum8 (b : List Byte) : Nat := (b.map (fun x => x.toNat)).sum % 256

/-- The CDAT: its header, whose checksum makes the bytes sum to 0, then one DSMAS entry for each range. -/
def cdat (s : State) (sequence : Nat) : List (List Byte) :=
  let l := (indexed (dpaRanges s)).map (fun e => dsmas e.1 e.2)
  let head (sum : Nat) : List Byte := natLe 4 (16 + 24 * l.length) ++ natLe 1 1 ++ natLe 1 sum ++ natLe 6 0 ++ natLe 4 sequence
  head ((256 - sum8 (head 0 ++ l.flatten)) % 256) :: l

/-- CDAT_TABLE_ACCESS: the entry that a handle names, with the handle of the next, 0xFFFF at the last. The sequence number is a free value. -/
def execCdatTableAccess (handle : Nat) (s : State) : Res :=
  if doeUp s then
    let l := cdat s (freeNat s)
    let next := if handle + 1 < l.length then handle + 1 else 0xFFFF
    .next (doeReply (wakeDevice (drew s)) (natLe 1 0 ++ natLe 1 0 ++ natLe 2 next ++ l.getD handle []))
  else .next s

/-! ### The SPDM responder (R510) -/

/-- A responder by transport: 0 DOE, 1 MCTP. -/
def spdmOf (s : State) (tr : Transport) : Spdm := sGet { version := 0, algorithms := false } s.spdm (principalOf tr)

/-- The state with a responder changed. -/
def setSpdm (s : State) (tr : Transport) (x : Spdm) : State :=
  { s with spdm := sSet { version := 0, algorithms := false } s.spdm (principalOf tr) x }

/-- Whether SPDM is answered: from ready, over DOE with the link up, and over MCTP except in stop 5 (10 R267). -/
def spdmUp (s : State) (tr : Transport) : Bool :=
  isReady s && (match tr with | .doe => linkUp s | .mctp => s.power.stop != 5 | _ => false)

/-- A response sent. -/
def sendSpdm (s : State) (tr : Transport) (b : List Byte) : State :=
  match tr with
  | .doe => interrupt (emit s (.spdm tr b)) 0x6800 0xB
  | _ => emit s (.spdm tr b)

/-- The first four bytes of a message. -/
def spdmHead (version code p1 p2 : Nat) : List Byte := natLe 1 version ++ natLe 1 code ++ natLe 1 p1 ++ natLe 1 p2

/-- An ERROR response with its code: 1 invalid, 4 unexpected, 0x41 version mismatch. -/
def spdmError (s : State) (tr : Transport) (code : Nat) : State :=
  let v := (spdmOf s tr).version
  sendSpdm s tr (spdmHead (if v == 0 then 0x10 else v) 0x7F code 0)

/-- A request of a code, received on a transport that is answered. -/
def spdmCommand (tr : Transport) (m : List Byte) (code : Nat) (s : State) (f : State → State) : Res :=
  if spdmUp s tr && bytesAt m 1 1 == code then .next (f (wakeDevice s)) else .next s

/-- A request after the version, and after the algorithms where `algs`, are settled, in the version settled. -/
def afterNegotiation (tr : Transport) (m : List Byte) (algs : Bool) (f : State → State) (s : State) : State :=
  let x := spdmOf s tr
  if x.version == 0 || (algs && !x.algorithms) then spdmError s tr 4
  else if bytesAt m 0 1 != x.version then spdmError s tr 0x41
  else f s

/-- GET_VERSION: 1.2 and 1.3; negotiation starts anew. -/
def execGetVersion (tr : Transport) (msg : List Byte) (s : State) : Res :=
  spdmCommand tr msg 0x84 s (fun x =>
    if bytesAt msg 0 1 != 0x10 then spdmError x tr 0x41
    else sendSpdm (setSpdm x tr { version := 0, algorithms := false }) tr
      (spdmHead 0x10 0x04 0 0 ++ natLe 1 0 ++ natLe 1 2 ++ natLe 2 0x1200 ++ natLe 2 0x1300))

/-- CERT_CAP, CHAL_CAP, MEAS_CAP with signature, MEAS_FRESH_CAP. -/
def spdmFlags : Nat := 0x2 + 0x4 + 0x10 + 0x20

/-- GET_CAPABILITIES: it settles the version. The timing exponent and the two sizes are free values. -/
def execGetCapabilities (tr : Transport) (msg : List Byte) (s : State) : Res :=
  spdmCommand tr msg 0xE1 s (fun x =>
    let v := bytesAt msg 0 1
    if v == 0x12 || v == 0x13 then
      let a := freeNat x
      sendSpdm (setSpdm (drew x) tr { version := v, algorithms := false }) tr
        (spdmHead v 0x61 0 0 ++ natLe 1 0 ++ natLe 1 a ++ natLe 2 0 ++ natLe 4 spdmFlags ++ natLe 4 (a / 256) ++ natLe 4 (a / 2 ^ 40))
    else spdmError x tr 0x41)

/-- What is selected of a mask offered. -/
def selectAlg (offered ours : Nat) : Nat := if offered &&& ours == 0 then 0 else ours

/-- NEGOTIATE_ALGORITHMS: ECDSA on P-384 (bit 7), SHA-384 for hashing (bit 1) and measurements (bit 2), DMTF measurements. -/
def execNegotiateAlgorithms (tr : Transport) (msg : List Byte) (s : State) : Res :=
  spdmCommand tr msg 0xE3 s (afterNegotiation tr msg false (fun x =>
    let v := (spdmOf x tr).version
    let sel := natLe 1 (selectAlg (bytesAt msg 6 1) 1) ++ natLe 1 0 ++ natLe 4 4 ++ natLe 4 (selectAlg (bytesAt msg 8 4) 0x80)
      ++ natLe 4 (selectAlg (bytesAt msg 12 4) 2)
    sendSpdm (setSpdm x tr { version := v, algorithms := true }) tr (spdmHead v 0x63 0 0 ++ natLe 2 36 ++ sel ++ natLe 16 0)))

/-- GET_DIGESTS: the digest of the chain of slot 0. -/
def execGetDigests (tr : Transport) (msg : List Byte) (s : State) : Res :=
  spdmCommand tr msg 0x81 s (afterNegotiation tr msg true (fun x =>
    let v := (spdmOf x tr).version
    sendSpdm x tr (spdmHead v 0x01 (if v == 0x13 then 1 else 0) 1 ++ sha384 x.hw.certChain)))

/-- GET_CERTIFICATE: a portion of the chain of slot 0. -/
def execGetCertificate (tr : Transport) (msg : List Byte) (s : State) : Res :=
  spdmCommand tr msg 0x82 s (afterNegotiation tr msg true (fun x =>
    let v := (spdmOf x tr).version
    let c := x.hw.certChain
    let off := bytesAt msg 4 2
    let n := min (bytesAt msg 6 2) (c.length - off)
    if bytesAt msg 2 1 % 16 != 0 || decide (c.length < off) then spdmError x tr 1
    else sendSpdm x tr (spdmHead v 0x02 0 0 ++ natLe 2 n ++ natLe 2 (c.length - off - n) ++ (c.drop off).take n)))

/-- The measurement block of an entry of 0x7800:10: index, DMTF specification, its kind and digest. -/
def measureBlock (i : Nat) (d : List Byte) : List Byte :=
  natLe 1 (i + 1) ++ natLe 1 1 ++ natLe 2 51 ++ natLe 1 ([0, 1, 1, 1, 2, 3].getD i 0) ++ natLe 2 48 ++ padTo 48 d

/-- Every measurement block. -/
def measureBlocks (s : State) : List (List Byte) := (indexed s.fw.measures).map (fun e => measureBlock e.1 e.2)

/-- A nonce and a signature of the device identity key, which never leaves the die: free values. -/
def freeBytes (s : State) (n : Nat) : List Byte := natLe n (freeNat s)

/-- The measurement summary that a CHALLENGE asks for: 0 none, 1 the ROM and firmware measurements, 0xFF all. -/
def summaryHash (s : State) (kind : Nat) : List Byte :=
  if kind == 0 then []
  else if kind == 0xFF then sha384 (measureBlocks s).flatten
  else sha384 ((measureBlocks s).take 4).flatten

/-- CHALLENGE: the chain's digest, a nonce and a signature. -/
def execChallenge (tr : Transport) (msg : List Byte) (s : State) : Res :=
  spdmCommand tr msg 0x83 s (afterNegotiation tr msg true (fun x =>
    let v := (spdmOf x tr).version
    if bytesAt msg 2 1 != 0 then spdmError x tr 1
    else
      let context := if v == 0x13 then (msg.drop 36).take 8 else []
      sendSpdm (drew (drew x)) tr
        (spdmHead v 0x03 0 1 ++ sha384 x.hw.certChain ++ freeBytes x 32 ++ summaryHash x (bytesAt msg 3 1) ++ natLe 2 0 ++ context
          ++ freeBytes (drew x) 96)))

/-- GET_MEASUREMENTS: operation 0 the count, 0xFF every entry, else the entry of that index; a nonce, and a signature where asked for. -/
def execGetMeasurements (tr : Transport) (msg : List Byte) (s : State) : Res :=
  spdmCommand tr msg 0xE0 s (afterNegotiation tr msg true (fun x =>
    let v := (spdmOf x tr).version
    let op := bytesAt msg 3 1
    let sig := bitAt (bytesAt msg 2 1) 0
    let all := measureBlocks x
    if op != 0 && op != 0xFF && decide (all.length < op) then spdmError x tr 1
    else
      let l := if op == 0 then [] else if op == 0xFF then all else (all.drop (op - 1)).take 1
      let context := if v == 0x13 then (if sig then (msg.drop 37).take 8 else (msg.drop 4).take 8) else []
      sendSpdm (drew (drew x)) tr
        (spdmHead v 0x60 (if op == 0 then all.length else 0) 0 ++ natLe 1 l.length ++ natLe 3 l.flatten.length ++ l.flatten
          ++ freeBytes x 32 ++ natLe 2 0 ++ context ++ (if sig then freeBytes (drew x) 96 else []))))

end Sys2Proof.Machine
end

