-- ==== Sys2Proof/Machine/Firmware.lean ====
section
/-! DEFINITION. The firmware update (17 R474, 19 R513–R515). -/

namespace Sys2Proof.Machine

open Sys2Proof

/-! ### The update (R513–R515) -/

/-- Fields of the firmware changed. -/
def updFw (s : State) (f : Firm → Firm) : State := { s with fw := f s.fw }

/-- The update failed with a reason. -/
def updateFailed (s : State) (reason : Nat) : State := updFw s (fun w => { w with update := 4, reason := reason, op := 0, image := [] })

/-- The image source lies in host memory or the populated GDDR tier. -/
def imageSource (s : State) (a n : Nat) : Bool :=
  decide (a < 2 ^ 52) &&
  (match locate a, locate (a + n - 1) with
   | .host _, .host _ => true
   | .gddr _, .gddr y => hasGddr s && decide (y < gddrMiB s * 0x100000)
   | _, _ => false)

/-- A selector record without a pending slot, when there is one. -/
def clearPending (s : State) : State :=
  match s.fw.pendingSlot with
  | none => s
  | some _ => updFw { s with hw := writeSelector s.hw s.fw.slot none } (fun w => { w with pendingSlot := none })

/-- FIRMWARE_WRITE: the image is read, a pending activation cleared, and the inactive slot erased; it is then written. A source that cannot be
read, or a length that the header does not have, fails the update with nothing changed. -/
def execFirmwareWrite (s : State) : Res :=
  let a := objNat s 0x7C00 0x10
  let n := objNat s 0x7C00 0x11
  if isReady s && s.fw.op == 1 && s.fw.update != 1 && s.fw.update != 2 && !accessHeld s a n then
    if n == 0 then .next (updateFailed s 0x12)
    else if !imageSource s a n then .next (updateFailed s 0x10)
    else
      let r := unitRead s a n
      if r.2.2 then .next (updateFailed r.1 0x10)
      else if bytesAt r.2.1 8 4 != n then .next (updateFailed r.1 0x12)
      else
        let s1 := clearPending r.1
        let h := { s1.hw with flash := sDropRange s1.hw.flash (slotBase (1 - s.fw.slot)) (slotBase (2 - s.fw.slot)) }
        .next (updFw { s1 with hw := h } (fun w => { w with update := 1, op := 0, image := r.2.1 }))
  else .next s

/-- FLASH_WRITE_COMPLETE: the slot is written and read back. Whether the read-back differs is the flash's: a free choice. -/
def execFlashWriteComplete (s : State) : Res :=
  if isReady s && s.fw.update == 1 then
    if freeBool s then .next (updateFailed (drew s) 0x11)
    else
      let h := flashWrite s.hw (slotBase (1 - s.fw.slot)) slotSize s.fw.image
      .next (updFw { drew s with hw := h } (fun w => { w with update := 2, image := [] }))
  else .next s

/-- FIRMWARE_VERIFY_COMPLETE: the read-back is checked under R505. -/
def execFirmwareVerifyComplete (s0 : State) : Res :=
  let s := readWord wRollback (readWord wLifecycle s0)
  if !(isReady s0 && s0.fw.update == 2) then .next s0
  else
    match imageReason s.hw (slotImage s.hw (1 - s.fw.slot)) with
    | 0 => .next (updFw s (fun w => { w with update := 3 }))
    | r => .next (updateFailed s r)

/-- FIRMWARE_ACTIVATE: the inactive slot is pending. -/
def execFirmwareActivate (s : State) : Res :=
  if isReady s && s.fw.op == 2 && s.fw.update == 3 then
    let n := 1 - s.fw.slot
    .next (updFw { s with hw := writeSelector s.hw s.fw.slot (some n) } (fun w => { w with op := 0, pendingSlot := some n }))
  else .next s

/-- FIRMWARE_CANCEL: no slot is pending. -/
def execFirmwareCancel (s : State) : Res :=
  if isReady s && s.fw.op == 3 && s.fw.update == 3 && s.fw.pendingSlot.isSome then
    .next (clearPending (updFw s (fun w => { w with op := 0 })))
  else .next s

end Sys2Proof.Machine
end

