-- ==== Sys2Proof/Machine/Boot.lean ====
section
/-! DEFINITION. Start-up, resets and rails (06 R161, R162, 14 R386, 19 R494–R514, 20 R521–R523). -/

namespace Sys2Proof.Machine

open Sys2Proof

/-! ### Phases 1 to 4 (R494, R498, R523) -/

/-- Phase 1: the straps are sampled, with a GDDR tier of up to 128 GiB (01 R11): FULLTEST in bit 0, SSC in bits 2:1, EDGE in bits 4:3. -/
def sampleStraps (e : ColdEnv) (s : State) : State :=
  { s with hw := { s.hw with variant := e.variant, gddrMiB := min e.gddrMiB 131072, fulltest := bitAt e.straps 0, ssc := fld e.straps 2 1,
                             edge := fld e.straps 4 3 } }

/-- Phase 2: the map-out records set each stack's channel mask (R161, R507). -/
def loadMapOut (s : State) : State :=
  (List.range 12).foldl (fun x n => updStack x n (fun k => { k with mapOut := mapOutMask s.hw n })) s

/-- A failure other than a stack channel's: logged in its die's log with source 4, and Fatal before ready (R498). -/
def failEarly (s : State) (phase d index : Nat) : State :=
  raiseEarly (noteDie s d { address := index, syndrome := 0, count := 1, stamp := 0, source := 4, uncorrectable := true, unit := 0 }) phase

/-! ### Phase 5 and 6: the slot and its firmware (R503–R506, R512, R514) -/

/-- Whether a slot's image passes R505. -/
def slotValid (h : Hw) (n : Nat) : Bool := imageReason h (slotImage h n) == 0

/-- The measurements recorded in phase 6 (R511, R512): the spec does not bound the parts behind indices 3 and 4, whose digests are free. -/
def recordMeasures (s : State) : State :=
  let img := slotImage s.hw s.fw.slot
  let hwState := natLe 1 s.hw.lifecycle ++ s.hw.antiRollback.flatMap (natLe 4) ++ natLe 1 (if s.hw.lifecycle == 2 then 0 else 1)
  let l := [sha384 s.hw.bootRom, sha384 img, natLe 48 (freeNat s), natLe 48 (freeNat (drew s)), sha384 hwState, modelDigest s]
  updFw (drew (drew s)) (fun w => { w with measures := l })

/-- A slot's firmware is in force. -/
def runSlot (s : State) (n : Nat) (trial : Bool) : State :=
  let img := slotImage s.hw n
  recordMeasures (updFw s (fun w =>
    { w with slot := n, trial := trial, name := trimZeros ((img.drop 44).take 32), svn := (List.range 8).map (imageSvn img) }))

/-- A failed trial: pending cleared, and the update reported failed with reason TRIAL. -/
def failTrial (s : State) : State :=
  let h := writeSelector s.hw (selector s.hw).1.active none
  updFw { s with hw := h } (fun w => { w with trial := false, pendingSlot := none, update := 4, reason := 0x13 })

/-- The boot ROM's choice: the pending slot, then the active one, then the other; none halts the block. -/
def bootSlot (s : State) : State :=
  let c := (selector s.hw).1
  let plain (x : State) : State :=
    if slotValid x.hw c.active then runSlot x c.active false
    else if slotValid x.hw (1 - c.active) then runSlot x (1 - c.active) false
    else { x with boot := .halted }
  match c.pending with
  | none => plain s
  | some n => if slotValid s.hw n then runSlot (updFw s (fun w => { w with pendingSlot := some n })) n true else plain (failTrial s)

/-! ### Phases 7 to 11 (R495, R497, R506, R509, R514) -/

/-- Channels that fail training, pattern or checker test: recorded and mapped out. -/
def mapOutFailing (e : ColdEnv) (s : State) : State :=
  (e.failing.filter (fun c => decide (c.1 < 12) && decide (c.2 < 48) && bitAt (stackMask s.hw.variant) c.1)).foldl
    (fun x c => updStack { x with hw := recordMapOut x.hw c.1 c.2 } c.1 (fun k => { k with mapOut := setBit k.mapOut c.2 })) s

/-- The image in force is a return authorisation: the other slot and the map-out records are erased, and the part is in RETURN. -/
def enterReturn (s : State) : State :=
  if bytesAt (slotImage s.hw s.fw.slot) 6 2 == 1 && s.hw.lifecycle == 2 then
    let f := sDropRange s.hw.flash (slotBase (1 - s.fw.slot)) (slotBase (2 - s.fw.slot))
    { s with hw := { s.hw with lifecycle := 3, flash := sDropRange f (mapOutSector 0) (mapOutSector 12) } }
  else s

/-- A trial that reached ready: the tried slot is active. -/
def keepTrial (s : State) : State :=
  if s.fw.trial then
    updFw { s with hw := writeSelector s.hw s.fw.slot none } (fun w => { w with trial := false, pendingSlot := none })
  else s

/-- The anti-rollback counters raised to the security versions in force. -/
def raiseCounters (s : State) : State :=
  let up (i c : Nat) : Nat := max c (s.fw.svn.getD i 0)
  { s with hw := { s.hw with antiRollback := (indexed s.hw.antiRollback).map (fun e => up e.1 e.2) } }

/-- Phase 11: ready, with one Device Readiness Status message. -/
def becomeReady (s : State) : State :=
  let s1 := raiseCounters (keepTrial (enterReturn s))
  emit { s1 with boot := .ready } .readiness

/-- The trial limit in ms (R514). -/
def trialLimit : Nat := 30000

/-- A start goes on from a phase as far as its environment lets it. -/
def coldFrom (e : ColdEnv) (k : Nat) (s : State) : State :=
  let past (n : Nat) : Bool := decide (k < n) && decide (n ≤ e.reach)
  let s1 := if past 1 then sampleStraps e s else s
  let s2 := if past 2 then loadMapOut s1 else s1
  let s3 := if past 6 then bootSlot s2 else s2
  if s3.boot = .halted then s3
  else
    let s4 := if past 8 then mapOutFailing e s3 else s3
    match (if decide (k < 10) && decide (3 ≤ e.reach) then e.otherFail else none) with
    | some f => failEarly s4 (min 10 (max k e.reach)) f.1 f.2
    | none => if e.reach < 11 then { s4 with boot := .starting (max k e.reach) } else becomeReady s4

/-- A trial that runs past its limit: the start resumes from phase 2 on the active slot. -/
def resumeActive (s : State) : State :=
  let s1 := failTrial s
  loadMapOut { s1 with boot := .starting 2 }

/-- A start from a phase; a firmware on trial that does not reach ready within the limit gives way to the active slot. -/
def coldRun (e : ColdEnv) (k : Nat) (s : State) : State :=
  let mid := coldFrom { e with reach := min e.reach 10 } k s
  match mid.boot with
  | .starting n =>
    if e.reach < 11 then mid
    else if mid.fw.trial && decide (trialLimit < e.trialMs) then coldFrom e 2 (resumeActive mid)
    else coldFrom e n mid
  | _ => mid

/-- COLD_START: from no power or a released reset the phases run from the first; a start under way goes on. -/
def execColdStart (env : ColdEnv) (s : State) : Res :=
  match s.boot with
  | .off => .next (coldRun env 0 (powerOff s (.starting 0)))
  | .reset => .next (coldRun env 0 (powerOff s (.starting 0)))
  | .starting n => .next (coldRun env n s)
  | _ => .next s

/-- RESET_ASSERT: PERST_N or RESET_N low for a time in ns; less than 1 µs is ignored. -/
def execResetAssert (ns : Nat) (s : State) : Res :=
  match s.boot with
  | .off => .next s
  | _ => if ns < 1000 then .next s else .next (powerOff s .reset)

/-- RAIL_OUT_OF_RANGE: a rail out of its range for a time in ns; more than 10 µs is stop 6 without its steps. -/
def execRailOutOfRange (_ : Rail) (ns : Nat) (s : State) : Res :=
  if 10000 < ns then .next (powerOff s .off) else .next s

/-- HOT_RESET: a hot reset, secondary bus reset or link disable over a link that is up begins a cold start. -/
def execHotReset (_ : LinkReset) (env : ColdEnv) (s : State) : Res :=
  if mayTrain s && linkUp s then .next (coldRun env 0 (powerOff s (.starting 0))) else .next s

/-- FIRMWARE_TRIAL_TIMEOUT: the time from phase 6 in ms, phases 7 and 8 not counted. -/
def execFirmwareTrialTimeout (ms : Nat) (s : State) : Res :=
  match s.boot with
  | .starting n => if decide (6 ≤ n) && s.fw.trial && decide (trialLimit < ms) then .next (resumeActive s) else .next s
  | _ => .next s

/-- CONFIGURATION_REQUEST: retry status from phase 6 until ready (R496). -/
def execConfigurationRequest (addr : Nat) (s : State) : Res :=
  match linkUp s, s.boot with
  | true, .ready => .next (emit s (.config addr))
  | true, .fatal none => .next (emit s (.config addr))
  | true, .fatal (some n) => if 6 ≤ n then .next (emit s (.crs addr)) else .next s
  | true, .starting n => if 6 ≤ n then .next (emit s (.crs addr)) else .next s
  | _, _ => .next s

end Sys2Proof.Machine
end

