-- ==== Sys2Proof/Machine/EngineIsa.lean ====
section
/-! DEFINITION. The instructions of a bank engine, and its bank's refresh (07_bank_engines.md R169–R184, 06 R157–R159). -/

namespace Sys2Proof.Machine

open Sys2Proof

/-! ### Fetch, decode and issue (R169–R171) -/

/-- The reserved bits of an opcode's encoding, or none for an opcode not in use (R169, R172–R184). -/
def engineReserved (op : Nat) : Option Nat :=
  let low (n : Nat) : Nat := 2 ^ n - 1
  let span (hi lo : Nat) : Nat := 2 ^ (hi + 1) - 2 ^ lo
  if (decide (0x01 ≤ op) && decide (op ≤ 0x0E)) || op == 0x10 || op == 0x11 || op == 0x20 then some (span 43 32)
  else if op == 0x12 || op == 0x13 then some (span 53 52 + span 43 32)
  else if op == 0x14 || op == 0x15 then some (span 33 32)
  else if op == 0x21 then some (low 27)
  else if op == 0x30 then some (low 19)
  else if op == 0x31 then some (low 48)
  else if op == 0x32 then some (low 54)
  else if op == 0x38 then some (low 42)
  else if op == 0x40 then some (span 55 52 + low 40)
  else if op == 0x48 then some (low 30)
  else if op == 0x7F then some (low 56)
  else none

/-- Whether an engine word is an instruction: its opcode is in use and its reserved bits are 0. -/
def engineLegal (w : W64) : Bool :=
  match engineReserved (fld w.toNat 63 56) with
  | some m => w.toNat &&& m == 0
  | none => false

/-- Part of an engine instruction: it goes on with a value, or faults with a code and the detail the spec states for it. -/
abbrev EOp (α : Type) := EStateM (Nat × Option Nat) (State × Engine) α

/-- The checks of an instruction: when several are broken, which of their faults is raised is a free choice (log entry 14). -/
def eChecks (l : List (Bool × Nat × Option Nat)) : EOp Unit := do
  let x ← get
  match l.filter (fun c => !c.1) with
  | [] => pure ()
  | [c] => throw c.2
  | c :: r =>
    set (drew x.1, x.2)
    throw ((c :: r).getD (freeNat x.1 % (r.length + 1)) c).2

/-- The engine as it is. -/
def eGet : EOp Engine := do return (← get).2

/-- A change of the engine. -/
def eSet (f : Engine → Engine) : EOp Unit := modify (fun x => (x.1, f x.2))

/-- A change of the rest of the state. -/
def eState (f : State → State) : EOp Unit := modify (fun x => (f x.1, x.2))

/-- The engine after an instruction whose next index is `i` (R173). -/
def eAdvance (e : Engine) (i : Nat) : Engine :=
  let r := nextIndex e.loops i
  { e with loops := r.1, pc := r.2 }

/-- One latent parity error of an engine's arrays met (18 R475, R479): the slot, entry or lane is poisoned. -/
def meetArray (n : Nat) (x : State × Engine) (k : Nat) : State × Engine :=
  if sGet false x.2.arrErr k then
    let e := { x.2 with arrErr := sSet false x.2.arrErr k false }
    (countDeferred (noteDie (bump x.1 (0x4820 + n / 6) 4 1) (n / 6)
      { address := k, syndrome := 0, count := 1, stamp := x.1.now, source := 4, uncorrectable := true, unit := n }),
     if k < 0x1000 then { e with wPoison := sSet false e.wPoison k true }
     else if k < 0x2000 then { e with xPoison := sSet false e.xPoison (k - 0x1000) true }
     else { e with accPoison := sSet false e.accPoison (k - 0x2000) true })
  else x

/-- Bits of an engine word. -/
def ew (w : W64) (hi lo : Nat) : Nat := fld w.toNat hi lo

/-- The W slots, X entries and lanes, as keys of `arrErr`, that an instruction reads: ASTL, WST, MAC, FOLD and PUSH. A MAC reads the
slots and inputs of the lines that it does not skip, and, when it is INNER, the lanes that it adds to. -/
def arraysRead (e : Engine) (w : W64) : List Nat :=
  let lanes (acc first cnt : Nat) : List Nat := (List.range cnt).map (fun i => 0x2000 + 256 * acc + first + i)
  let acc := ew w 55 54
  match fld w.toNat 63 56 with
  | 0x12 => lanes acc 0 256
  | 0x14 => (List.range (ew w 38 34 + 1)).map (fun j => ew w 43 39 + j)
  | 0x30 =>
    let m := ew w 48 44 + 1
    let lw := 2 ^ ew w 43 42
    let base := (sGet 0 e.g (ew w 35 32)).toNat
    let lof := ew w 31 27
    let act := (List.range (m / lw)).filter (fun l => ew w 41 41 == 0 || bitAt e.le.toNat (lof + l))
    let inner := ew w 40 40 == 1
    act.flatMap (fun l => (List.range lw).map (fun s => ew w 53 49 + l * lw + s)) ++
      (if inner then (List.range (if act.isEmpty then 0 else lw * (if ew w 39 36 == 1 then 16 else 32))).map (fun i => 0x1000 + base + i)
       else act.map (fun l => 0x1000 + base + lof + l)) ++
      (if inner then act.map (fun l => 0x2000 + 256 * acc + ew w 26 19 + lof + l) else [])
  | 0x31 =>
    let ls := (List.range 256).filter (fun l => (e.stage.find? (fun y => y.1 == 256 * acc + l)).isSome)
    (if ew w 48 48 == 1 then ls.map (fun l => ew w 53 49 + l / 32) else []) ++ ls.map (fun l => 0x2000 + 256 * acc + l)
  | 0x48 => lanes acc (ew w 53 46) (ew w 45 38 + 1)
  | _ => []

/-- The parity errors that an instruction meets in what it reads. -/
def meetArrays (n : Nat) (w : W64) (s : State) (e : Engine) : State × Engine :=
  if e.arrErr.isEmpty then (s, e) else (arraysRead e w).foldl (meetArray n) (s, e)

/-- The next instruction of an engine run, when its opcode is `op`: nothing happens unless the engine runs and its next
instruction has that opcode (log entry 5). A channel declared failing, an index of 512, a memory error and a word that is no
instruction fault whatever the row. The instruction answers the index it goes on to. -/
def runEngine (s : State) (n q op : Nat) (act : W64 → EOp Nat) : Res :=
  let k := getStack s n
  let e := getEngine k q
  if !(isReady s && stackPresent s n && decide (q < engineCount k) && e.running) then .next s
  else if bitAt k.failing (chanOfBank k q) then .next (faultEngine s n q eChannelDown none)
  else if decide (512 ≤ e.pc) then .next (faultEngine s n q ePcRange (some e.pc))
  else if e.ecc then
    let s1 := countDeferred (noteDie (bump s (0x4820 + n / 6) 4 1) (n / 6)
      { address := q, syndrome := 0, count := 1, stamp := s.now, source := 4, uncorrectable := true, unit := n })
    .next (faultEngine (updEngine s1 n q (fun e => { e with ecc := false })) n q eLmemEcc none)
  else
    let w := sGet 0 e.pm e.pc
    if !engineLegal w then .next (faultEngine s n q eIllegal none)
    else if fld w.toNat 63 56 != op then .next s
    else
      match (act w).run (meetArrays n w s e) with
      | .ok i x => .next (updEngine x.1 n q (fun _ => eAdvance x.2 i))
      | .error f x => .next (faultEngine x.1 n q f.1 f.2)

/-- The next index in line. -/
def ePlus (k : Nat) : EOp Nat := do return (← eGet).pc + 1 + k

/-- A general register. -/
def eReg (e : Engine) (r : Nat) : W32 := sGet 0 e.g r

/-- A general register written. -/
def ePutReg (r : Nat) (v : W32) : EOp Unit := eSet (fun e => { e with g := sSet 0 e.g r v })

/-! ### Integer instructions (R172) -/

/-- An integer instruction: d from s1, s2 and imm. -/
def eInt (n q op : Nat) (f : W32 → W32 → W32 → W32) (s : State) : Res :=
  runEngine s n q op (fun w => do
    let e ← eGet
    ePutReg (ew w 55 52) (f (eReg e (ew w 51 48)) (eReg e (ew w 47 44)) (BitVec.ofNat 32 (ew w 31 0)))
    ePlus 0)

/-- The low five bits of a shift amount. -/
def shamt (x : W32) : Nat := x.toNat % 32

/-- MOV of an engine. -/
def execBeMov (n q : Nat) (s : State) : Res := eInt n q 0x01 (fun a _ _ => a) s
/-- MOVI of an engine. -/
def execBeMovi (n q : Nat) (s : State) : Res := eInt n q 0x02 (fun _ _ i => i) s
/-- ADD of an engine. -/
def execBeAdd (n q : Nat) (s : State) : Res := eInt n q 0x03 (fun a b _ => a + b) s
/-- ADDI of an engine. -/
def execBeAddi (n q : Nat) (s : State) : Res := eInt n q 0x04 (fun a _ i => a + i) s
/-- SUB of an engine. -/
def execBeSub (n q : Nat) (s : State) : Res := eInt n q 0x05 (fun a b _ => a - b) s
/-- AND of an engine. -/
def execBeAnd (n q : Nat) (s : State) : Res := eInt n q 0x06 (fun a b _ => a &&& b) s
/-- ANDI of an engine. -/
def execBeAndi (n q : Nat) (s : State) : Res := eInt n q 0x07 (fun a _ i => a &&& i) s
/-- OR of an engine. -/
def execBeOr (n q : Nat) (s : State) : Res := eInt n q 0x08 (fun a b _ => a ||| b) s
/-- ORI of an engine. -/
def execBeOri (n q : Nat) (s : State) : Res := eInt n q 0x09 (fun a _ i => a ||| i) s
/-- SHL of an engine. -/
def execBeShl (n q : Nat) (s : State) : Res := eInt n q 0x0A (fun a b _ => a <<< shamt b) s
/-- SHLI of an engine. -/
def execBeShli (n q : Nat) (s : State) : Res := eInt n q 0x0B (fun a _ i => a <<< shamt i) s
/-- SHR of an engine. -/
def execBeShr (n q : Nat) (s : State) : Res := eInt n q 0x0C (fun a b _ => a >>> shamt b) s
/-- SHRI of an engine. -/
def execBeShri (n q : Nat) (s : State) : Res := eInt n q 0x0D (fun a _ i => a >>> shamt i) s
/-- NOP of an engine. -/
def execBeNop (n q : Nat) (s : State) : Res := runEngine s n q 0x0E (fun _ => ePlus 0)

/-! ### LOOP and ZSK (R173, R177) -/

/-- LOOP of an engine (R173). -/
def beLoopOp (w : W64) : EOp Nat := do
  let e ← eGet
  let body := ew w 47 40
  let last := e.pc + 1 + body
  let outer := match e.loops with | f :: _ => decide (last ≤ f.last) | [] => true
  eChecks [(decide (e.loops.length < 4) && body != 0 && outer && decide (last ≤ 512), eLoop, none)]
  let count := (eReg e (ew w 51 48)).toNat
  if count == 0 then return last
  else
    eSet (fun e => { e with loops := { first := e.pc + 1, last := last, left := count, iter := 0 } :: e.loops })
    ePlus 0

/-- LOOP of an engine. -/
def execBeLoop (n q : Nat) (s : State) : Res := runEngine s n q 0x40 beLoopOp

/-- ZSK (R177). -/
def zskOp (w : W64) : EOp Nat := do
  let e ← eGet
  let r := ew w 55 52
  let n := ew w 51 47 + 1
  let i0 := (eReg e r).toNat
  let skip := ew w 46 43
  let z := (List.range n).map (fun l => sGet false e.z (i0 + l))
  let limit := match e.loops with | f :: _ => f.last | [] => 512
  let jump := z.all id && skip != 0
  eChecks [(decide (i0 + n ≤ 2048), eInputRange, some (max i0 2048))]
  eChecks [(!jump || decide (e.pc + 1 + skip ≤ limit), eSkipRange, some (e.pc + 1 + skip))]
  eSet (fun e => { e with le := (indexed z).foldl (fun m x => if x.2 then m else m ||| (1#32 <<< x.1)) 0#32 })
  (if ew w 42 42 == 1 then ePutReg r (BitVec.ofNat 32 (i0 + n)) else pure ())
  ePlus (if jump then skip else 0)

/-- ZSK. -/
def execZsk (n q : Nat) (s : State) : Res := runEngine s n q 0x38 zskOp

/-! ### Local memory (R174) -/

/-- The address of a local instruction. -/
def eAddr (e : Engine) (w : W64) : Nat := (eReg e (ew w 51 48) + BitVec.ofNat 32 (ew w 31 0)).toNat

/-- The alignment and range of a local access. -/
def lmemOk (a align size : Nat) : Bool := a % align == 0 && decide (a + size ≤ 12288)

/-- LDW (R174). -/
def ldwOp (w : W64) : EOp Nat := do
  let e ← eGet
  let a := eAddr e w
  eChecks [(lmemOk a 4 4, eLmemRange, some a)]
  eChecks [(!sGet false e.dmPoison (a / 4), fPoisonRead, some a)]
  ePutReg (ew w 55 52) (BitVec.ofNat 32 (leNat (sGetMany 0 e.dm a 4)))
  ePlus 0

/-- LDW. -/
def execLdw (n q : Nat) (s : State) : Res := runEngine s n q 0x10 ldwOp

/-- STW (R174): a whole word written, which carries no poison. -/
def stwOp (w : W64) : EOp Nat := do
  let e ← eGet
  let a := eAddr e w
  eChecks [(lmemOk a 4 4, eLmemRange, some a)]
  eSet (fun e => { e with dm := sSetMany 0 e.dm a (natLe 4 (eReg e (ew w 47 44)).toNat), dmPoison := sSet false e.dmPoison (a / 4) false })
  ePlus 0

/-- STW. -/
def execStw (n q : Nat) (s : State) : Res := runEngine s n q 0x11 stwOp

/-- Whether a lane's block stage holds products. -/
def hasProducts (e : Engine) (lane : Nat) : Bool := (sGet { sum := Num.zero false, count := 0 } e.stage lane).count != 0

/-- ASTL (R174). -/
def astlOp (w : W64) : EOp Nat := do
  let e ← eGet
  let a := eAddr e w
  let acc := ew w 55 54
  eChecks [(lmemOk a 64 1024, eLmemRange, some a), (!(List.range 256).any (fun l => hasProducts e (256 * acc + l)), eBlockPending, none)]
  eSet (fun e => { e with
    dm := sSetMany 0 e.dm a ((sGetMany 0 e.acc (256 * acc) 256).flatMap (fun v => natLe 4 v.toNat)),
    dmPoison := sSetMany false e.dmPoison (a / 4) (sGetMany false e.accPoison (256 * acc) 256) })
  ePlus 0

/-- ASTL. -/
def execAstl (n q : Nat) (s : State) : Res := runEngine s n q 0x12 astlOp

/-- ALDL (R174). -/
def aldlOp (w : W64) : EOp Nat := do
  let e ← eGet
  let a := eAddr e w
  let acc := ew w 55 54
  eChecks [(lmemOk a 64 1024, eLmemRange, some a)]
  eSet (fun e => { e with
    acc := sSetMany 0 e.acc (256 * acc) ((List.range 256).map (fun l => BitVec.ofNat 32 (leNat (sGetMany 0 e.dm (a + 4 * l) 4)))),
    accPoison := sSetMany false e.accPoison (256 * acc) (sGetMany false e.dmPoison (a / 4) 256),
    arrErr := sDropRange e.arrErr (0x2000 + 256 * acc) (0x2000 + 256 * acc + 256),
    stage := sDropRange e.stage (256 * acc) (256 * acc + 256) })
  ePlus 0

/-- ALDL. -/
def execAldl (n q : Nat) (s : State) : Res := runEngine s n q 0x13 aldlOp

/-- The checks of WST and WLD: first slot and slot count (R174). -/
def slotChecks (w : W64) : EOp (Nat × Nat × Nat) := do
  let a := eAddr (← eGet) w
  let ws := ew w 43 39
  let n := ew w 38 34 + 1
  eChecks [(lmemOk a 32 (32 * n), eLmemRange, some a), (decide (ws + n ≤ 32), eShape, none)]
  return (a, ws, n)

/-- WST (R174): each word of data memory carries its slot's poison. -/
def wstOp (w : W64) : EOp Nat := do
  let r ← slotChecks w
  eSet (fun e => { e with
    dm := sSetMany 0 e.dm r.1 (sGetMany 0 e.w (32 * r.2.1) (32 * r.2.2)),
    dmPoison := sSetMany false e.dmPoison (r.1 / 4) ((List.range (8 * r.2.2)).map (fun i => sGet false e.wPoison (r.2.1 + i / 8))) })
  ePlus 0

/-- WST. -/
def execWst (n q : Nat) (s : State) : Res := runEngine s n q 0x14 wstOp

/-- WLD (R174): a slot is poisoned when any of its words is. -/
def wldOp (w : W64) : EOp Nat := do
  let r ← slotChecks w
  eSet (fun e => { e with
    w := sSetMany 0 e.w (32 * r.2.1) (sGetMany 0 e.dm r.1 (32 * r.2.2)),
    wPoison := sSetMany false e.wPoison r.2.1 ((List.range r.2.2).map (fun j => (sGetMany false e.dmPoison (r.1 / 4 + 8 * j) 8).any id)),
    arrErr := sDropRange e.arrErr r.2.1 (r.2.1 + r.2.2) })
  ePlus 0

/-- WLD. -/
def execWld (n q : Nat) (s : State) : Res := runEngine s n q 0x15 wldOp

/-! ### The bank (R168, R175, R176, R182) -/

/-- Whether an engine may open or read a row: its region computes, is not in transition, and its launch's partition owns it. -/
def rowOpen (s : State) (n part row : Nat) : Bool :=
  let k := getStack s n
  let r := row / 4096
  !isProtected k r && !bitAt k.trans r && ownerOfRegion s n r == some part

/-- ROPEN (R175). -/
def ropenOp (n : Nat) (w : W64) : EOp Nat := do
  eState (fun s => readWord wStrips (readWord wPartition s))
  let x ← get
  let r := (eReg x.2 (ew w 51 48)).toNat
  eChecks [(decide (r ≤ 65535), eRowRange, some r)]
  eChecks [(rowOpen x.1 n x.2.partition r, eBankProt, some r)]
  eSet (fun e => { e with row := some r })
  ePlus 0

/-- ROPEN. -/
def execRopen (n q : Nat) (s : State) : Res := runEngine s n q 0x20 (ropenOp n)

/-- A column read into a slot (R141, R182): within the bank, marked poisoned when it is uncorrectable or carries poison. -/
def readColumn (n q row col slot : Nat) : EOp Unit := do
  let x ← get
  let r := readMem x.1 .bank (stackWindow n + bankAddr (getStack x.1 n) q row (32 * col)) 32
  set (r.1, x.2)
  eSet (fun e => { e with w := sSetMany 0 e.w (32 * slot) r.2.1, wPoison := sSet false e.wPoison slot r.2.2,
                          arrErr := sSet false e.arrErr slot false })

/-- CRD (R176). -/
def crdOp (n q : Nat) (w : W64) : EOp Nat := do
  let x ← get
  let e := x.2
  let ws := ew w 55 51
  let cnt := ew w 50 46 + 1
  let lw := 2 ^ ew w 34 33
  let lof := ew w 31 27
  let col := ew w 45 40 + (if ew w 39 39 == 1 then (eReg e (ew w 38 35)).toNat else 0)
  eChecks [(decide (col + cnt ≤ 64), eColRange, some (max col 64)),
    (decide (ws + cnt ≤ 32) && cnt % lw == 0 && decide (lof + cnt / lw ≤ 32), eShape, none), (e.row.isSome, eNoRow, none)]
  let row := e.row.getD 0
  eChecks [(rowOpen x.1 n e.partition row, eBankProt, some row)]
  let on := (List.range cnt).filter (fun j => ew w 32 32 == 0 || bitAt e.le.toNat (lof + j / lw))
  on.forM (fun j => readColumn n q row (col + j) (ws + j))
  eSet (fun e => { e with cols := e.cols + on.length, skipped := e.skipped + (cnt - on.length) })
  eState (fun s => updLaunch s n (fun l => { l with cols := l.cols + on.length, skipped := l.skipped + (cnt - on.length) }))
  ePlus 0

/-- CRD. -/
def execCrd (n q : Nat) (s : State) : Res := runEngine s n q 0x21 (crdOp n q)

/-! ### Multiply-accumulate (R178–R182) -/

/-- The pair of a weight format and an X format (R178): elements a column, block limit, and whether INNER is allowed. -/
def macPair (wfmt xfmt : Nat) : Option (Nat × Nat × Bool) :=
  if [3, 4].contains wfmt && [3, 4].contains xfmt then some (32, 32, true)
  else if [0xA, 0xB].contains wfmt && [3, 4].contains xfmt then some (32, 32, false)
  else if wfmt == 0xE && [3, 4].contains xfmt then some (64, 32, false)
  else if wfmt == 1 && xfmt == 1 then some (16, 16, true)
  else if wfmt == 8 && xfmt == 8 then some (32, 32, true)
  else if wfmt == 9 && xfmt == 8 then some (64, 64, false)
  else none

/-- The fields of a MAC. -/
structure MacArgs where
  acc : Nat
  ws : Nat
  n : Nat
  lw : Nat
  useLe : Bool
  inner : Bool
  wfmt : Nat
  base : Nat
  lof : Nat
  lb : Nat

/-- The fields of a MAC word, with the input index base read from its register. -/
def macArgs (e : Engine) (w : W64) : MacArgs :=
  { acc := ew w 55 54, ws := ew w 53 49, n := ew w 48 44 + 1, lw := 2 ^ ew w 43 42, useLe := ew w 41 41 == 1,
    inner := ew w 40 40 == 1, wfmt := ew w 39 36, base := (eReg e (ew w 35 32)).toNat, lof := ew w 31 27, lb := ew w 26 19 }

/-- The lines of a MAC that are not skipped. -/
def macLines (e : Engine) (m : MacArgs) : List Nat :=
  (List.range (m.n / m.lw)).filter (fun l => !m.useLe || bitAt e.le.toNat (m.lof + l))

/-- An input entry: its value and its poison. -/
def xEntry (e : Engine) (i : Nat) : Num × Bool := (decodeNum (fmtOf e.xfmt) (sGet 0 e.x i).toNat, sGet false e.xPoison i)

/-- The elements of a W slot. -/
def slotElems (e : Engine) (wfmt cnt slot : Nat) : List Num :=
  (elems (fmtBits wfmt) cnt (sGetMany 0 e.w (32 * slot) 32)).map (decodeNum (fmtOf wfmt))

/-- The block stage of a lane, if it has a term. -/
def stageOf (e : Engine) (lane : Nat) : Option Stage := (e.stage.find? (fun x => x.1 == lane)).map (fun x => x.2)

/-- A product added exactly to a lane's block stage. -/
def stageAdd (e : Engine) (lane : Nat) (p : Num) (poison : Bool) : Engine :=
  let g : Stage := match stageOf e lane with
    | some g => { sum := numAdd g.sum p, count := g.count + 1 }
    | none => { sum := p, count := 1 }
  { e with stage := sIns e.stage lane g,
           accPoison := if poison then sSet false e.accPoison lane true else e.accPoison }

/-- One slot of an OUTER MAC: element `i` times the line's input, into lane lb + s * E + i. -/
def outerSlot (m : MacArgs) (cnt : Nat) (bad : Bool) (e : Engine) (line s : Nat) : Engine :=
  let x := xEntry e (m.base + m.lof + line)
  (indexed (slotElems e m.wfmt cnt (m.ws + line * m.lw + s))).foldl (fun e y =>
    stageAdd e (256 * m.acc + m.lb + s * cnt + y.1) (product (isIntFmt m.wfmt) y.2 x.1) (bad || x.2)) e

/-- The skipped lines of an OUTER MAC: each contributes exactly +0 to its lanes (02 R42), whatever its weights hold. It is a term of
the lane's block sum and no product that counts toward the block limit (R177, R180). -/
def skipLanes (m : MacArgs) (cnt : Nat) (e : Engine) : Engine :=
  (List.range (m.lw * cnt)).foldl (fun e i =>
    let lane := 256 * m.acc + m.lb + i
    let g : Stage := (stageOf e lane).getD { sum := Num.zero false, count := 0 }
    { e with stage := sIns e.stage lane { g with sum := numAdd g.sum (Num.zero false) } }) e

/-- One slot of an INNER MAC: its exact sum added to lane lb + lof + L with one rounding (R43). -/
def innerSlot (m : MacArgs) (cnt : Nat) (bad : Bool) (e : Engine) (line s : Nat) : Engine :=
  let lane := 256 * m.acc + m.lb + m.lof + line
  let xs := (List.range cnt).map (fun i => xEntry e (m.base + s * cnt + i))
  let sum := numSum (((slotElems e m.wfmt cnt (m.ws + line * m.lw + s)).zip xs).map (fun y => product (isIntFmt m.wfmt) y.1 y.2.1))
  { e with acc := sSet 0 e.acc lane (round32 (numAdd (num32 (sGet 0 e.acc lane)) sum)),
           accPoison := if bad || xs.any (fun x => x.2) then sSet false e.accPoison lane true else e.accPoison }

/-- MAC (R179). A poisoned slot that it reads poisons every lane it updates (R182); a poisoned X entry poisons the lanes updated
from it (R192). -/
def macOp (w : W64) : EOp Nat := do
  let e ← eGet
  let m := macArgs e w
  match (macPair m.wfmt e.xfmt).filter (fun p => !m.inner || p.2.2) with
  | none => throw (eFormat, none)
  | some (cnt, limit, _) =>
    let lines := m.n / m.lw
    let act := macLines e m
    let lanesOk := if m.inner then decide (m.lb + m.lof + lines ≤ 256) else decide (m.lb + m.lw * cnt ≤ 256)
    let top := if m.inner then m.base + m.lw * cnt else m.base + m.lof + act.getLastD 0 + 1
    let past := if m.inner then max m.base 2048 else m.base + m.lof + (act.find? (fun l => decide (2048 ≤ m.base + m.lof + l))).getD 0
    let room := m.inner || act.isEmpty || (List.range (m.lw * cnt)).all (fun i =>
      decide ((sGet { sum := Num.zero false, count := 0 } e.stage (256 * m.acc + m.lb + i)).count + act.length ≤ limit))
    eChecks [(m.n % m.lw == 0 && decide (m.ws + m.n ≤ 32) && lanesOk && !(m.inner && m.useLe) &&
        (!m.useLe || decide (m.lof + lines ≤ 32)), eShape, none)]
    eChecks [(act.isEmpty || decide (top ≤ 2048), eInputRange, some past), (room, eBlockOver, none)]
    let slots := act.flatMap (fun l => (List.range m.lw).map (fun s => (l, s)))
    let bad := slots.any (fun x => sGet false e.wPoison (m.ws + x.1 * m.lw + x.2))
    eSet (fun e => slots.foldl (fun e x => if m.inner then innerSlot m cnt bad e x.1 x.2 else outerSlot m cnt bad e x.1 x.2) e)
    (if act.length < lines then eSet (skipLanes m cnt) else pure ())
    ePlus 0

/-- MAC. -/
def execMac (n q : Nat) (s : State) : Res := runEngine s n q 0x30 macOp

/-- One lane folded (R180): a scale byte, when scales apply, with the poison of its slot. -/
def foldLane (acc ws : Nat) (sc : Bool) (e : Engine) (l : Nat) : Engine :=
  let lane := 256 * acc + l
  let g := sGet { sum := Num.zero false, count := 0 } e.stage lane
  let slot := ws + l / 32
  let v := if sc then scaleBy (sGet 0 e.w (32 * slot + l % 32)).toNat g.sum else g.sum
  { e with acc := sSet 0 e.acc lane (round32 (numAdd (num32 (sGet 0 e.acc lane)) v)), stage := sDel e.stage lane,
           accPoison := if sc && sGet false e.wPoison slot then sSet false e.accPoison lane true else e.accPoison }

/-- FOLD (R180). -/
def foldOp (w : W64) : EOp Nat := do
  let e ← eGet
  let acc := ew w 55 54
  let ws := ew w 53 49
  let sc := ew w 48 48 == 1
  let ls := (List.range 256).filter (fun l => hasProducts e (256 * acc + l))
  eChecks [(!sc || ls.all (fun l => decide (ws + l / 32 ≤ 31)), eShape, none)]
  eSet (fun e => ls.foldl (foldLane acc ws sc) e)
  ePlus 0

/-- FOLD. -/
def execFold (n q : Nat) (s : State) : Res := runEngine s n q 0x31 foldOp

/-- ACLR of an engine (R181). -/
def execBeAclr (n q : Nat) (s : State) : Res :=
  runEngine s n q 0x32 (fun w => do
    let a := 256 * ew w 55 54
    eSet (fun e => { e with acc := sDropRange e.acc a (a + 256), accPoison := sDropRange e.accPoison a (a + 256),
                            stage := sDropRange e.stage a (a + 256), arrErr := sDropRange e.arrErr (0x2000 + a) (0x2000 + a + 256) })
    ePlus 0)

/-! ### PUSH and HALT (R183, R184, R195, R196) -/

/-- Whether a group takes a push: the rules of R195, with fewer than P pushes so far. -/
def groupTakes (g : Group) (q off n : Nat) : Bool :=
  decide (g.got.length < g.pushes) &&
  (if g.op ≤ 1 then off == 0 && n == g.width && !g.got.any (fun p => p.q == q) else decide (off + n ≤ g.width))

/-- PUSH (R183): accepted by the group, which is written when it is the P-th (R196). -/
def pushOp (n q : Nat) (w : W64) : EOp Nat := do
  let x ← get
  let e := x.2
  let acc := ew w 55 54
  let first := ew w 53 46
  let cnt := ew w 45 38 + 1
  let slot := (eReg e (ew w 37 34)).toNat
  let off := (eReg e (ew w 33 30)).toNat
  let group := (getStack x.1 n).launch.bind (fun l => l.groups[slot]?)
  eChecks [(decide (first + cnt ≤ 256), eShape, none),
    (!(List.range (min cnt (256 - first))).any (fun i => hasProducts e (256 * acc + first + i)), eBlockPending, none),
    ((match group with | some g => groupTakes g q off cnt | none => false), eGroupSlot, some slot)]
  let p : Push := { q := q, off := off, lanes := sGetMany 0 e.acc (256 * acc + first) cnt,
                    poison := sGetMany false e.accPoison (256 * acc + first) cnt }
  eState (fun s => updLaunch s n (fun l => { l with groups := l.groups.modify slot (fun g => { g with got := g.got ++ [p] }) }))
  (match group with
   | some g => if g.got.length + 1 == g.pushes then eState (fun s => writeGroup s n slot false) else pure ()
   | none => pure ())
  ePlus 0

/-- The next instruction of an engine is the PUSH that fills a group whose result goes to memory that cannot be reached now (14 R386,
06 R163). -/
def pushHeld (s : State) (n q : Nat) : Bool :=
  let e := getEngine (getStack s n) q
  let w := sGet 0 e.pm e.pc
  fld w.toNat 63 56 == 0x48 &&
  (match (getStack s n).launch.bind (fun l => l.groups[(eReg e (ew w 37 34)).toNat]?) with
   | some g => g.got.length + 1 == g.pushes && accessHeld s g.dst (groupSize g)
   | none => false)

/-- PUSH. -/
def execPush (n q : Nat) (s : State) : Res := if pushHeld s n q then .next s else runEngine s n q 0x48 (pushOp n q)

/-- HALT (R184): the row closes and the run ends. -/
def haltOp (n : Nat) : EOp Nat := do
  let x ← get
  eSet (fun e => { e with row := none, running := false })
  eState (fun s => updLaunch s n (fun l => { l with halted := l.halted + 1, time := l.time + (s.now - x.2.startAt) }))
  ePlus 0

/-- HALT. -/
def execHalt (n q : Nat) (s : State) : Res := runEngine s n q 0x7F (fun _ => haltOp n)

/-! ### Refresh (06 R157–R159) -/

/-- Refresh commands served in a bank: counted, each one stall of a running engine. -/
def serveRefresh (s : State) (n q k : Nat) : State :=
  let s1 := bump s (0x4000 + n) 9 k
  if (getEngine (getStack s n) q).running then
    updLaunch (updEngine s1 n q (fun e => { e with stallref := e.stallref + k })) n (fun l => { l with stallref := l.stallref + k })
  else s1

/-- Whether a bank is refreshed by its stack's controller. -/
def refreshable (s : State) (n q : Nat) : Bool :=
  isReady s && stackPresent s n && decide (q < engineCount (getStack s n)) && decide ((getStack s n).refresh ≤ 1)

/-- REFRESH (R158, R159): a refresh that falls due is served with those owed; whether an external run holds the bank's row open,
so that it is postponed, is a free choice, but never beyond 4. -/
def execRefresh (n q : Nat) (s : State) : Res :=
  if refreshable s n q then
    let owed := sGet 0 (getStack s n).owed q
    let s1 := drew s
    if freeBool s && decide (owed < 4) then .next (updStack s1 n (fun k => { k with owed := sSet 0 k.owed q (owed + 1) }))
    else
      let s2 := if decide (4 ≤ owed) then bump s1 (0x4000 + n) 0x0A 1 else s1
      .next (serveRefresh (updStack s2 n (fun k => { k with owed := sSet 0 k.owed q 0 })) n q (owed + 1))
  else .next s

/-- FORCED_REFRESH (R158): four owed refreshes are served back to back, and the event is counted. -/
def execForcedRefresh (n q : Nat) (s : State) : Res :=
  if refreshable s n q && sGet 0 (getStack s n).owed q == 4 then
    .next (serveRefresh (bump (updStack s n (fun k => { k with owed := sSet 0 k.owed q 0 })) (0x4000 + n) 0x0A 1) n q 4)
  else .next s

end Sys2Proof.Machine
end

