-- ==== Sys2Proof/Machine/Matrix.lean ====
section
/-! DEFINITION. The matrix engine: MMA over the Weave layouts, ACLR, MPUSH, AST and ALD (02 R35–R42, 04 R88–R93, 05 R130–R132). -/

namespace Sys2Proof.Machine

open Sys2Proof

/-- The accumulator field. -/
def accOf (e : QEntry) : Nat := wf' e.word 115 113

/-- MQ's tray stalls (R70): a push waits for the next slot, and a write of an accumulator for every slot that records it. -/
def mqReady (t : Nat) (pushes writes : Bool) (s : State) (e : QEntry) : Bool :=
  let c := getCore s t
  (!pushes || pushReady c) && (!writes || !accInTray c (accOf e))

/-- The codes that the matrix engine takes (R84). -/
def matrixCode (c : Nat) : Bool := [1, 2, 3, 4, 8, 9, 10, 11, 12, 13, 14, 15].contains c

/-- The pairs of operand formats that MMA allows (R90). -/
def mmaPair (a b : Nat) : Bool :=
  let small := [3, 4, 10, 11, 12, 13, 14]
  let ints := [8, 9, 15]
  matrixCode a && matrixCode b &&
  ((a == b && (a == 1 || a == 2)) ||
   ((a == 14 || a == 9) && (b == 14 || b == 9) && a == b) ||
   (small.contains a && small.contains b) || (ints.contains a && ints.contains b))

/-- Bytes of a row of a Weave-A panel (05 R131). -/
def aRowBytes (f : Nat) : Nat := 4 * fmtBits f + (if isMx f then 1 else 0)

/-- Bytes of a line of a Weave-B panel (05 R132). -/
def bLineBytes (f n : Nat) : Nat := ceilDiv (n * fmtBits f) 8

/-- Bytes of a Weave-B panel before rounding up to 64 (05 R132). -/
def bPanelBytes (f n : Nat) (sp : Bool) : Nat :=
  (if sp then 16 else 32) * bLineBytes f n + (if sp then 4 * n else 0) + (if isMx f then n else 0)

/-- The scale byte of an operand without block scales: 2^0 (R90). -/
def unitScale : Nat := 127

/-- Row `i` of a Weave-A panel: its 32 values, scaled. -/
def aRow (f : Nat) (panel : List Byte) (i : Nat) : List Num :=
  let row := (panel.drop (i * aRowBytes f)).take (aRowBytes f)
  let sc := if isMx f then (row.getD (4 * fmtBits f) 0).toNat else unitScale
  (elems (fmtBits f) 32 row).map (fun x => scaleBy sc (decodeNum (fmtOf f) x))

/-- The metadata word of a column of a sparse Weave-B panel (02 R39, 05 R132). -/
def bMeta (f n : Nat) (panel : List Byte) (j : Nat) : Nat := bytesAt panel (16 * bLineBytes f n + 4 * j) 4

/-- Whether every nibble of a metadata word is valid (02 R40). -/
def metaValid (w : Nat) : Bool := (List.range 8).all (fun g => decide (fld w (4 * g + 1) (4 * g) < fld w (4 * g + 3) (4 * g + 2)))

/-- Column `j` of a Weave-B panel: the K positions that form products, with their values, scaled (02 R39, R42). -/
def bColumn (f n : Nat) (sp : Bool) (panel : List Byte) (j : Nat) : List (Nat × Num) :=
  let lb := bLineBytes f n
  let sc := if isMx f then (panel.getD ((if sp then 16 else 32) * lb + (if sp then 4 * n else 0) + j) 0).toNat else unitScale
  let at' (line : Nat) : Num := scaleBy sc (decodeNum (fmtOf f) (elemAt (fmtBits f) (panel.drop (line * lb)) j))
  if sp then
    let w := bMeta f n panel j
    (List.range 16).map (fun x =>
      let g := x / 2
      (4 * g + (if x % 2 == 0 then fld w (4 * g + 1) (4 * g) else fld w (4 * g + 3) (4 * g + 2)), at' x))
  else (List.range 32).map (fun x => (x, at' x))

/-- The exact block sum of a row and a column (02 R35, R36); the positions of a sparse column that store nothing add +0 (02 R42). -/
def blockSum (ints sp : Bool) (row : List Num) (col : List (Nat × Num)) : Num :=
  let p := numSum (col.map (fun x => product ints (row.getD x.1 (Num.zero false)) x.2))
  if sp then numAdd p (Num.zero false) else p

/-- The region of an accumulator after a change at rows below `m` and columns below `n`. -/
def accMap (c : Core) (a m n : Nat) (f : Nat → Nat → W32 → W32) : Core :=
  { c with acc := (List.range m).foldl (fun x i => (List.range n).foldl (fun y j =>
      sMod 0 y (32768 * a + 256 * i + j) (f i j)) x) c.acc }

/-- What one K-block does to the region of the accumulator: none when it is skipped (02 R42). -/
def kBlock (sp : Bool) (fa fb n : Nat) (a b : List Byte) (i j : Nat) (acc : W32) : W32 :=
  accumulate acc (blockSum (isIntFmt fa) sp (aRow fa a i) (bColumn fb n sp b j))

/-- The panels of the K-blocks that an MMA does not skip, read and checked; a skipped block gives none (R91). -/
def readPanels (t : Nat) (sp : Bool) (fa fb m n ao bo : Nat) (skip : Nat → Bool) (kb : Nat) :
    Op (List (Option (List Byte × List Byte))) :=
  (List.range kb).mapM (fun k => do
    if skip k then return none
    let a ← spadRead t (ao + k * roundup64 (m * aRowBytes fa)) (m * aRowBytes fa)
    let bp := bo + k * roundup64 (bPanelBytes fb n sp)
    let b ← spadRead t bp (bPanelBytes fb n sp)
    (if sp then
      match (List.range n).find? (fun j => !metaValid (bMeta fb n b j)) with
      | some j => opFault fSparseMeta (some (bp + 16 * bLineBytes fb n + 4 * j))
      | none => pure ()
     else pure ())
    return some (a, b))

/-- The occupancy map of an MMA as a predicate: whether it skips block `k` (R91, 02 R41). -/
def readSkips (t : Nat) (e : QEntry) (kb : Nat) : Op (Nat → Bool) :=
  if wf' e.word 97 97 == 1 && kb != 0 then do
    let b ← spadOperand t (spadOff e (wf' e.word 102 98)) (8 * ceilDiv kb 64)
    let v := leNat b
    return (fun k => !bitAt v k)
  else pure (fun _ => false)

/-- MMA (R88–R91). DESIGN CHOICE (log entry 83): an instruction that breaks several checks faults with the first it comes to here:
FORMAT, the range of A, the range of B, the occupancy map, then each K-block's poison and metadata. -/
def mmaOp (t : Nat) (e : QEntry) : Op Unit := do
  let w := e.word
  let fa := wf' w 78 75
  let fb := wf' w 74 71
  let sp := wf' w 94 94 == 1
  let m := wf' w 93 87 + 1
  let n := wf' w 86 79 + 1
  let kb := if wf' w 70 70 == 1 then capL e (wf' w 69 67) else wf' w 66 51
  let ao := spadOff e (wf' w 112 108)
  let bo := spadOff e (wf' w 107 103)
  opCheck (mmaPair fa fb) fFormat (some (detail2 fa fb))
  (if kb == 0 then pure ()
   else do
    spadCheck ao ((kb - 1) * roundup64 (m * aRowBytes fa) + m * aRowBytes fa)
    spadCheck bo ((kb - 1) * roundup64 (bPanelBytes fb n sp) + bPanelBytes fb n sp))
  let skip ← readSkips t e kb
  let panels ← readPanels t sp fa fb m n ao bo skip kb
  opSet (fun s => updCore s t (fun c =>
    let c1 := if wf' w 95 95 == 1 then accMap c (accOf e) m n (fun _ _ _ => 0) else c
    let c2 := panels.foldl (fun x p => accMap x (accOf e) m n (fun i j v => match p with
      | some p => kBlock sp fa fb n p.1 p.2 i j v
      | none => accumulate v (Num.zero false))) c1
    if wf' w 96 96 == 1 then trayPush c2 (accOf e) else c2))

/-- MMA. -/
def execMma (t : Nat) (s : State) : Res :=
  runOp s t 0 0x00 (fun s e => mqReady t (wf' e.word 96 96 == 1) true s e) (mmaOp t)

/-- ACLR (R93). -/
def execAclr (t : Nat) (s : State) : Res :=
  runOp s t 0 0x08 (mqReady t false true) (fun e =>
    opSet (fun s => updCore s t (fun c => { c with acc := sDropRange c.acc (32768 * accOf e) (32768 * accOf e + 32768) })))

/-- MPUSH (R93). -/
def execMpush (t : Nat) (s : State) : Res :=
  runOp s t 0 0x09 (mqReady t true false) (fun e => opSet (fun s => updCore s t (fun c => trayPush c (accOf e))))

/-- The bytes that AST writes for one row of 256 values (R93, 02 R27, R38). -/
def astRow (f : Nat) (sat : Bool) (l : List Num) : List Byte :=
  if isMx f then
    let blocks := (List.range 8).map (fun b => (l.drop (32 * b)).take 32)
    let scales := blocks.map (mxScale f)
    let bits := (blocks.zip scales).flatMap (fun x => x.1.map (fun v => (mxElem f x.2 .rne sat v).1))
    (patch (fmtBits f) (bits.map some) (List.replicate (32 * fmtBits f) 0)).map (fun b => b.1) ++ scales.map (BitVec.ofNat 8)
  else l.flatMap (fun v => natLe (fmtBits f / 8) (roundTo (fmtOf f) .rne sat v).1)

/-- AST (R92, R93). -/
def astOp (t : Nat) (e : QEntry) : Op Unit := do
  let w := e.word
  let f := wf' w 107 104
  let row := wf' w 102 96
  let rows := wf' w 95 89 + 1
  let off := spadOff e (wf' w 112 108)
  opCheck (decide (row + rows ≤ 128)) fAccRange (some (detail2 row rows))
  opCheck (!isPacked f) fFormat (some (detail2 f 0))
  spadCheck off (rows * fmtBytes f 256)
  let c ← opCore t
  let out := (List.range rows).flatMap (fun i => astRow f (wf' w 103 103 == 1) ((accGet c (accOf e) (row + i) 256).map num32))
  opSet (fun s => spadPutBytes s t off out)

/-- AST. -/
def execAst (t : Nat) (s : State) : Res := runOp s t 0 0x10 (fun _ _ => true) (astOp t)

/-- ALD (R92, R93). -/
def aldOp (t : Nat) (e : QEntry) : Op Unit := do
  let w := e.word
  let row := wf' w 102 96
  let rows := wf' w 95 89 + 1
  opCheck (decide (row + rows ≤ 128)) fAccRange (some (detail2 row rows))
  opCheck (wf' w 107 104 == 0) fFormat (some (detail2 0 (wf' w 107 104)))
  let b ← spadOperand t (spadOff e (wf' w 112 108)) (rows * 1024)
  opSet (fun s => updCore s t (fun c =>
    { c with acc := sSetMany 0 c.acc (32768 * accOf e + 256 * row) ((elems 32 (256 * rows) b).map (BitVec.ofNat 32)) }))

/-- ALD. -/
def execAld (t : Nat) (s : State) : Res := runOp s t 0 0x11 (mqReady t false true) (aldOp t)

end Sys2Proof.Machine
end

