-- ==== Sys2Proof/Machine/Dispatch.lean ====
section
/-! DEFINITION. One arm for every command: a direct call of its meaning. -/

namespace Sys2Proof.Machine

open Sys2Proof

/-- The effect of a command on everything but the queue of waiting commands. -/
def exec (i : Instr) (s : State) : Host.Outcome State Fault Refusal :=
  match i with
  | .coldStart env => Sys2Proof.Machine.execColdStart env s
  | .resetAssert ns => Sys2Proof.Machine.execResetAssert ns s
  | .railOutOfRange rail ns => Sys2Proof.Machine.execRailOutOfRange rail ns s
  | .hotReset kind env => Sys2Proof.Machine.execHotReset kind env s
  | .firmwareTrialTimeout ms => Sys2Proof.Machine.execFirmwareTrialTimeout ms s
  | .issue t => Sys2Proof.Machine.execIssue t s
  | .mov t => Sys2Proof.Machine.execMov t s
  | .movi t => Sys2Proof.Machine.execMovi t s
  | .add t => Sys2Proof.Machine.execAdd t s
  | .addi t => Sys2Proof.Machine.execAddi t s
  | .sub t => Sys2Proof.Machine.execSub t s
  | .shl t => Sys2Proof.Machine.execShl t s
  | .shli t => Sys2Proof.Machine.execShli t s
  | .shr t => Sys2Proof.Machine.execShr t s
  | .shri t => Sys2Proof.Machine.execShri t s
  | .and t => Sys2Proof.Machine.execAnd t s
  | .andi t => Sys2Proof.Machine.execAndi t s
  | .or t => Sys2Proof.Machine.execOr t s
  | .ori t => Sys2Proof.Machine.execOri t s
  | .nop t => Sys2Proof.Machine.execNop t s
  | .loop t => Sys2Proof.Machine.execLoop t s
  | .barrier t => Sys2Proof.Machine.execBarrier t s
  | .barrierMarkerRelease t q => Sys2Proof.Machine.execBarrierMarkerRelease t q s
  | .endKernel t => Sys2Proof.Machine.execEndKernel t s
  | .kernelEnd t => Sys2Proof.Machine.execKernelEnd t s
  | .stallLimit t q => Sys2Proof.Machine.execStallLimit t q s
  | .workPacket t sc packet => Sys2Proof.Machine.execWorkPacket t sc packet s
  | .packetStart t => Sys2Proof.Machine.execPacketStart t s
  | .kernelAbort t => Sys2Proof.Machine.execKernelAbort t s
  | .mma t => Sys2Proof.Machine.execMma t s
  | .aclr t => Sys2Proof.Machine.execAclr t s
  | .mpush t => Sys2Proof.Machine.execMpush t s
  | .ast t => Sys2Proof.Machine.execAst t s
  | .ald t => Sys2Proof.Machine.execAld t s
  | .vmov t => Sys2Proof.Machine.execVmov t s
  | .vadd t => Sys2Proof.Machine.execVadd t s
  | .vmul t => Sys2Proof.Machine.execVmul t s
  | .vfma t => Sys2Proof.Machine.execVfma t s
  | .vmin t => Sys2Proof.Machine.execVmin t s
  | .vmax t => Sys2Proof.Machine.execVmax t s
  | .vcmp t => Sys2Proof.Machine.execVcmp t s
  | .vsel t => Sys2Proof.Machine.execVsel t s
  | .vcvt t => Sys2Proof.Machine.execVcvt t s
  | .mlogic t => Sys2Proof.Machine.execMlogic t s
  | .vtget t => Sys2Proof.Machine.execVtget t s
  | .vexp2 t => Sys2Proof.Machine.execVexp2 t s
  | .vlog2 t => Sys2Proof.Machine.execVlog2 t s
  | .vrcp t => Sys2Proof.Machine.execVrcp t s
  | .vrsqrt t => Sys2Proof.Machine.execVrsqrt t s
  | .vocc t => Sys2Proof.Machine.execVocc t s
  | .vtwr t => Sys2Proof.Machine.execVtwr t s
  | .vtrd t => Sys2Proof.Machine.execVtrd t s
  | .traypopVq t => Sys2Proof.Machine.execTraypopVq t s
  | .vflagsVq t => Sys2Proof.Machine.execVflagsVq t s
  | .tsum t => Sys2Proof.Machine.execTsum t s
  | .tsumsq t => Sys2Proof.Machine.execTsumsq t s
  | .tmax t => Sys2Proof.Machine.execTmax t s
  | .tmin t => Sys2Proof.Machine.execTmin t s
  | .targmax t => Sys2Proof.Machine.execTargmax t s
  | .targmin t => Sys2Proof.Machine.execTargmin t s
  | .rowstat t => Sys2Proof.Machine.execRowstat t s
  | .rsmerge t => Sys2Proof.Machine.execRsmerge t s
  | .traypopTq t => Sys2Proof.Machine.execTraypopTq t s
  | .ttwr t => Sys2Proof.Machine.execTtwr t s
  | .ttrd t => Sys2Proof.Machine.execTtrd t s
  | .vflagsTq t => Sys2Proof.Machine.execVflagsTq t s
  | .xld t => Sys2Proof.Machine.execXld t s
  | .xst t => Sys2Proof.Machine.execXst t s
  | .xsend t => Sys2Proof.Machine.execXsend t s
  | .inval t => Sys2Proof.Machine.execInval t s
  | .wb t => Sys2Proof.Machine.execWb t s
  | .wbinv t => Sys2Proof.Machine.execWbinv t s
  | .badd t => Sys2Proof.Machine.execBadd t s
  | .bset t => Sys2Proof.Machine.execBset t s
  | .bwait t => Sys2Proof.Machine.execBwait t s
  | .brd t => Sys2Proof.Machine.execBrd t s
  | .watchMessage target => Sys2Proof.Machine.execWatchMessage target s
  | .watchTimeout die => Sys2Proof.Machine.execWatchTimeout die s
  | .lend t => Sys2Proof.Machine.execLend t s
  | .lendReclaim t => Sys2Proof.Machine.execLendReclaim t s
  | .reckoning p => Sys2Proof.Machine.execReckoning p s
  | .svuAdd u c => Sys2Proof.Machine.execSvuAdd u c s
  | .svuMul u c => Sys2Proof.Machine.execSvuMul u c s
  | .svuFma u c => Sys2Proof.Machine.execSvuFma u c s
  | .svuMin u c => Sys2Proof.Machine.execSvuMin u c s
  | .svuMax u c => Sys2Proof.Machine.execSvuMax u c s
  | .svuCmp u c => Sys2Proof.Machine.execSvuCmp u c s
  | .svuSel u c => Sys2Proof.Machine.execSvuSel u c s
  | .svuCvt u c => Sys2Proof.Machine.execSvuCvt u c s
  | .svuExp2 u c => Sys2Proof.Machine.execSvuExp2 u c s
  | .svuLog2 u c => Sys2Proof.Machine.execSvuLog2 u c s
  | .svuRcp u c => Sys2Proof.Machine.execSvuRcp u c s
  | .svuRsqrt u c => Sys2Proof.Machine.execSvuRsqrt u c s
  | .svuSum u c => Sys2Proof.Machine.execSvuSum u c s
  | .svuSumsq u c => Sys2Proof.Machine.execSvuSumsq u c s
  | .svuReduceMax u c => Sys2Proof.Machine.execSvuReduceMax u c s
  | .svuReduceMin u c => Sys2Proof.Machine.execSvuReduceMin u c s
  | .svuArgmax u c => Sys2Proof.Machine.execSvuArgmax u c s
  | .svuArgmin u c => Sys2Proof.Machine.execSvuArgmin u c s
  | .svuRowstat u c => Sys2Proof.Machine.execSvuRowstat u c s
  | .svuRand u c => Sys2Proof.Machine.execSvuRand u c s
  | .svuTopk u c => Sys2Proof.Machine.execSvuTopk u c s
  | .svuSort u c => Sys2Proof.Machine.execSvuSort u c s
  | .svuTopp u c => Sys2Proof.Machine.execSvuTopp u c s
  | .svuSample u c => Sys2Proof.Machine.execSvuSample u c s
  | .programLoad k q0 q1 image p => Sys2Proof.Machine.execProgramLoad k q0 q1 image p s
  | .launch record sc => Sys2Proof.Machine.execLaunch record sc s
  | .launchStart k => Sys2Proof.Machine.execLaunchStart k s
  | .launchComplete k => Sys2Proof.Machine.execLaunchComplete k s
  | .launchAbort k => Sys2Proof.Machine.execLaunchAbort k s
  | .runLimit k q => Sys2Proof.Machine.execRunLimit k q s
  | .beMov k q => Sys2Proof.Machine.execBeMov k q s
  | .beMovi k q => Sys2Proof.Machine.execBeMovi k q s
  | .beAdd k q => Sys2Proof.Machine.execBeAdd k q s
  | .beAddi k q => Sys2Proof.Machine.execBeAddi k q s
  | .beSub k q => Sys2Proof.Machine.execBeSub k q s
  | .beAnd k q => Sys2Proof.Machine.execBeAnd k q s
  | .beAndi k q => Sys2Proof.Machine.execBeAndi k q s
  | .beOr k q => Sys2Proof.Machine.execBeOr k q s
  | .beOri k q => Sys2Proof.Machine.execBeOri k q s
  | .beShl k q => Sys2Proof.Machine.execBeShl k q s
  | .beShli k q => Sys2Proof.Machine.execBeShli k q s
  | .beShr k q => Sys2Proof.Machine.execBeShr k q s
  | .beShri k q => Sys2Proof.Machine.execBeShri k q s
  | .beNop k q => Sys2Proof.Machine.execBeNop k q s
  | .beLoop k q => Sys2Proof.Machine.execBeLoop k q s
  | .ldw k q => Sys2Proof.Machine.execLdw k q s
  | .stw k q => Sys2Proof.Machine.execStw k q s
  | .astl k q => Sys2Proof.Machine.execAstl k q s
  | .aldl k q => Sys2Proof.Machine.execAldl k q s
  | .wst k q => Sys2Proof.Machine.execWst k q s
  | .wld k q => Sys2Proof.Machine.execWld k q s
  | .ropen k q => Sys2Proof.Machine.execRopen k q s
  | .crd k q => Sys2Proof.Machine.execCrd k q s
  | .zsk k q => Sys2Proof.Machine.execZsk k q s
  | .mac k q => Sys2Proof.Machine.execMac k q s
  | .fold k q => Sys2Proof.Machine.execFold k q s
  | .beAclr k q => Sys2Proof.Machine.execBeAclr k q s
  | .push k q => Sys2Proof.Machine.execPush k q s
  | .halt k q => Sys2Proof.Machine.execHalt k q s
  | .refresh k q => Sys2Proof.Machine.execRefresh k q s
  | .forcedRefresh k q => Sys2Proof.Machine.execForcedRefresh k q s
  | .seal k => Sys2Proof.Machine.execSeal k s
  | .unseal k => Sys2Proof.Machine.execUnseal k s
  | .stripOperationComplete k badBurst => Sys2Proof.Machine.execStripOperationComplete k badBurst s
  | .channelDeclaredFailing k c => Sys2Proof.Machine.execChannelDeclaredFailing k c s
  | .stackRefreshDoubled k dram base => Sys2Proof.Machine.execStackRefreshDoubled k dram base s
  | .stackRefreshNormal k dram base => Sys2Proof.Machine.execStackRefreshNormal k dram base s
  | .stackThrottle k dram base => Sys2Proof.Machine.execStackThrottle k dram base s
  | .stackThrottleRelease k dram base => Sys2Proof.Machine.execStackThrottleRelease k dram base s
  | .stackTrip k dram base => Sys2Proof.Machine.execStackTrip k dram base s
  | .stackTripRelease k dram base => Sys2Proof.Machine.execStackTripRelease k dram base s
  | .dieThrottle d temp => Sys2Proof.Machine.execDieThrottle d temp s
  | .dieThrottleRelease d temp => Sys2Proof.Machine.execDieThrottleRelease d temp s
  | .dieTrip d temp => Sys2Proof.Machine.execDieTrip d temp s
  | .dieTripRelease d temp => Sys2Proof.Machine.execDieTripRelease d temp s
  | .dieShutdown d temp => Sys2Proof.Machine.execDieShutdown d temp s
  | .coolantFault us => Sys2Proof.Machine.execCoolantFault us s
  | .coolantFaultRelease us => Sys2Proof.Machine.execCoolantFaultRelease us s
  | .patrolScrub => Sys2Proof.Machine.execPatrolScrub s
  | .regulatorFault => Sys2Proof.Machine.execRegulatorFault s
  | .hostCxlMemRead dpa len => Sys2Proof.Machine.execHostCxlMemRead dpa len s
  | .hostCxlMemWrite dpa bytes poison => Sys2Proof.Machine.execHostCxlMemWrite dpa bytes poison s
  | .beadWindowWrite die off acc => Sys2Proof.Machine.execBeadWindowWrite die off acc s
  | .scratchpadWindowAccess t off acc => Sys2Proof.Machine.execScratchpadWindowAccess t off acc s
  | .faultsumClear v => Sys2Proof.Machine.execFaultsumClear v s
  | .lreset p v => Sys2Proof.Machine.execLreset p v s
  | .intakeSlotWrite p off bytes => Sys2Proof.Machine.execIntakeSlotWrite p off bytes s
  | .tornPacketTimeout p lane => Sys2Proof.Machine.execTornPacketTimeout p lane s
  | .intakeQueueRoom p => Sys2Proof.Machine.execIntakeQueueRoom p s
  | .cmdOpen p => Sys2Proof.Machine.execCmdOpen p s
  | .append p => Sys2Proof.Machine.execAppend p s
  | .cancel p => Sys2Proof.Machine.execCancel p s
  | .close p => Sys2Proof.Machine.execClose p s
  | .park p => Sys2Proof.Machine.execPark p s
  | .resume p => Sys2Proof.Machine.execResume p s
  | .adopt p => Sys2Proof.Machine.execAdopt p s
  | .setdue p => Sys2Proof.Machine.execSetdue p s
  | .adapterLoad p => Sys2Proof.Machine.execAdapterLoad p s
  | .adapterRetire p => Sys2Proof.Machine.execAdapterRetire p s
  | .negPin p => Sys2Proof.Machine.execNegPin p s
  | .negUnpin p => Sys2Proof.Machine.execNegUnpin p s
  | .train p => Sys2Proof.Machine.execTrain p s
  | .fence p => Sys2Proof.Machine.execFence p s
  | .unknownOpcode p => Sys2Proof.Machine.execUnknownOpcode p s
  | .adapterLoadComplete p slot => Sys2Proof.Machine.execAdapterLoadComplete p slot s
  | .printComplete p handle => Sys2Proof.Machine.execPrintComplete p handle s
  | .receiveTimeout p handle => Sys2Proof.Machine.execReceiveTimeout p handle s
  | .pagePacketHoldExpiry p handle => Sys2Proof.Machine.execPagePacketHoldExpiry p handle s
  | .stepStart p drafts => Sys2Proof.Machine.execStepStart p drafts s
  | .stepComplete p r => Sys2Proof.Machine.execStepComplete p r s
  | .statusOnlyRecord p => Sys2Proof.Machine.execStatusOnlyRecord p s
  | .partitionResume p => Sys2Proof.Machine.execPartitionResume p s
  | .ringControlWrite p off bytes => Sys2Proof.Machine.execRingControlWrite p off bytes s
  | .controlBlockPoll p => Sys2Proof.Machine.execControlBlockPoll p s
  | .ringModerationTimer p => Sys2Proof.Machine.execRingModerationTimer p s
  | .linkTrained l => Sys2Proof.Machine.execLinkTrained l s
  | .linkDown => Sys2Proof.Machine.execLinkDown s
  | .linkDownLimit => Sys2Proof.Machine.execLinkDownLimit s
  | .cadenceTick => Sys2Proof.Machine.execCadenceTick s
  | .ptpMessage clock m => Sys2Proof.Machine.execPtpMessage clock m s
  | .cadencePulse u => Sys2Proof.Machine.execCadencePulse u s
  | .sourceLost => Sys2Proof.Machine.execSourceLost s
  | .lockLost why => Sys2Proof.Machine.execLockLost why s
  | .powerLeaseRenewal m => Sys2Proof.Machine.execPowerLeaseRenewal m s
  | .regulatorRefill => Sys2Proof.Machine.execRegulatorRefill s
  | .regulatedTrafficStart p k size => Sys2Proof.Machine.execRegulatedTrafficStart p k size s
  | .stopEntry scope n => Sys2Proof.Machine.execStopEntry scope n s
  | .stopExit scope why => Sys2Proof.Machine.execStopExit scope why s
  | .latencyToleranceWrite p v => Sys2Proof.Machine.execLatencyToleranceWrite p v s
  | .stop6Request tr msg => Sys2Proof.Machine.execStop6Request tr msg s
  | .powerDownReady => Sys2Proof.Machine.execPowerDownReady s
  | .telemetrySample m => Sys2Proof.Machine.execTelemetrySample m s
  | .commitRequest tr msg => Sys2Proof.Machine.execCommitRequest tr msg s
  | .commitTick => Sys2Proof.Machine.execCommitTick s
  | .partitionHold p => Sys2Proof.Machine.execPartitionHold p s
  | .phasedCommitApply => Sys2Proof.Machine.execPhasedCommitApply s
  | .phaseComplete e => Sys2Proof.Machine.execPhaseComplete e s
  | .holdLimit p => Sys2Proof.Machine.execHoldLimit p s
  | .rollbackComplete => Sys2Proof.Machine.execRollbackComplete s
  | .shadowClear tr msg => Sys2Proof.Machine.execShadowClear tr msg s
  | .ebRead tr msg => Sys2Proof.Machine.execEbRead tr msg s
  | .ebWrite tr msg => Sys2Proof.Machine.execEbWrite tr msg s
  | .segRead tr msg => Sys2Proof.Machine.execSegRead tr msg s
  | .segBegin tr msg => Sys2Proof.Machine.execSegBegin tr msg s
  | .segWrite tr msg => Sys2Proof.Machine.execSegWrite tr msg s
  | .segEnd tr msg => Sys2Proof.Machine.execSegEnd tr msg s
  | .segAbort tr msg => Sys2Proof.Machine.execSegAbort tr msg s
  | .describe tr msg => Sys2Proof.Machine.execDescribe tr msg s
  | .unknownOp tr msg => Sys2Proof.Machine.execUnknownOp tr msg s
  | .segmentTimeout handle => Sys2Proof.Machine.execSegmentTimeout handle s
  | .hmacKeyWrite tr msg => Sys2Proof.Machine.execHmacKeyWrite tr msg s
  | .stackLogClear tr msg => Sys2Proof.Machine.execStackLogClear tr msg s
  | .dieLogClear tr msg => Sys2Proof.Machine.execDieLogClear tr msg s
  | .firmwareWrite => Sys2Proof.Machine.execFirmwareWrite s
  | .firmwareActivate => Sys2Proof.Machine.execFirmwareActivate s
  | .firmwareCancel => Sys2Proof.Machine.execFirmwareCancel s
  | .flashWriteComplete => Sys2Proof.Machine.execFlashWriteComplete s
  | .firmwareVerifyComplete => Sys2Proof.Machine.execFirmwareVerifyComplete s
  | .spanFrame n f => Sys2Proof.Machine.execSpanFrame n f s
  | .spanPacketSend n => Sys2Proof.Machine.execSpanPacketSend n s
  | .spanWrite n k => Sys2Proof.Machine.execSpanWrite n k s
  | .spanRead n k => Sys2Proof.Machine.execSpanRead n k s
  | .spanPage n k => Sys2Proof.Machine.execSpanPage n k s
  | .spanAck n k => Sys2Proof.Machine.execSpanAck n k s
  | .spanIdle n => Sys2Proof.Machine.execSpanIdle n s
  | .trainingComplete n width peer caps => Sys2Proof.Machine.execTrainingComplete n width peer caps s
  | .trainingTimeout n => Sys2Proof.Machine.execTrainingTimeout n s
  | .downRetry n => Sys2Proof.Machine.execDownRetry n s
  | .blockLockLoss n => Sys2Proof.Machine.execBlockLockLoss n s
  | .portLoss n => Sys2Proof.Machine.execPortLoss n s
  | .spanHoldExpiry device => Sys2Proof.Machine.execSpanHoldExpiry device s
  | .doeDiscovery index => Sys2Proof.Machine.execDoeDiscovery index s
  | .cdatTableAccess handle => Sys2Proof.Machine.execCdatTableAccess handle s
  | .getVersion tr msg => Sys2Proof.Machine.execGetVersion tr msg s
  | .getCapabilities tr msg => Sys2Proof.Machine.execGetCapabilities tr msg s
  | .negotiateAlgorithms tr msg => Sys2Proof.Machine.execNegotiateAlgorithms tr msg s
  | .getDigests tr msg => Sys2Proof.Machine.execGetDigests tr msg s
  | .getCertificate tr msg => Sys2Proof.Machine.execGetCertificate tr msg s
  | .challenge tr msg => Sys2Proof.Machine.execChallenge tr msg s
  | .getMeasurements tr msg => Sys2Proof.Machine.execGetMeasurements tr msg s
  | .configurationRequest addr => Sys2Proof.Machine.execConfigurationRequest addr s

end Sys2Proof.Machine
end

