-- ==== Sys2Proof/Safety.lean ====
section
/-! DEFINITION. What a safe step is: one that answers a next state in which every store keeps its canonical form. -/

namespace Sys2Proof.Machine

open Sys2Proof

/-- The canonical form of the memory: addresses strictly rising, and no byte listed that reads as an unlisted one. -/
abbrev Memory.wf (m : Store Byte) : Bool := sWf (0 : Byte) m

/-- The canonical form of the shared cache: lines strictly rising, 128 bytes in each. -/
def Lines.wf (m : Store Line) : Prop := (m.map Prod.fst).Pairwise (· < ·) ∧ ∀ e ∈ m, e.2.data.length = 128

/-- The memory of the block keeps its canonical form: its bytes, its poison marks and the lines of the shared cache. -/
def State.memWf (s : State) : Prop :=
  Memory.wf s.mem = true ∧ sWf false s.poison = true ∧ Lines.wf s.cache

/-- The answer is a next state. -/
def Completes (r : Res) : Prop := ∃ t, r = .next t

end Sys2Proof.Machine
end

