-- ==== Sys2Proof/Certificates/Slice0/Obligations.lean ====
section
/-! DEFINITION. The statements about the block, for the provers: what each row of the table does when it takes its effect, what it
leaves as it was, and what every step keeps. -/

/-! ### Words that the statements share -/

namespace Sys2Proof.Says

open Sys2Proof Sys2Proof.Machine

/-- The issue stage of core `t`, whose kernel is `k`, is about to handle the word `w`: the device serves, the kernel goes on, no
barrier holds the issue stage, the image goes on, the fetch does not wait for the host link or a tripped stack, and the word reads without
an error. -/
structure Issuing (s : State) (t : Nat) (k : Kernel) (w : BitVec 128) : Prop where
  ready : isReady s = true
  present : corePresent s t = true
  kernel : (getCore s t).kernel = some k
  goesOn : k.ended = false
  released : ∀ x, k.stall = some x → waitsMet (getCore s t) x = true
  inside : k.next < k.count
  linked : fetchHeld s t (k.pkt.image + 64 + 16 * k.next) = false
  parity : sGet false (getCore s t).parityErr 0xF = false
  word : (fetchWord s t (k.pkt.image + 64 + 16 * k.next)).2.1 = w
  sound : (fetchWord s t (k.pkt.image + 64 + 16 * k.next)).2.2 = false

/-- The state after the fetch of that word, with the core as `f` makes it of what it was. -/
def issued (s : State) (t : Nat) (k : Kernel) (f : Core → Core) : State :=
  updCore (fetchWord s t (k.pkt.image + 64 + 16 * k.next)).1 t f

/-- The kernel past the word it handled, no barrier holding it. -/
def past (k : Kernel) : Kernel := advance { k with stall := none }

/-- A scalar row: a word of opcode `op` with its queue code, whose specifiers in use name registers, writes `f x y imm` to its
destination, `x` and `y` being the sources it uses. -/
def ScalarWrites (row : Nat → Instr) (op : Nat) (usesX usesY : Bool) (f : Nat → Nat → Nat → Nat) : Prop :=
  ∀ s t k w, Issuing s t k w → wOp w = op → wf' w 119 116 = 0xF → wf' w 115 110 < 40 →
    ∀ x y, (if usesX then specRead (getCore s t) (wf' w 109 104) else some 0) = some x →
      (if usesY then specRead (getCore s t) (wf' w 103 98) else some 0) = some y →
      exec (row t) s = .next (issued s t k (fun c =>
        let c1 := specWrite c (wf' w 115 110) (f x y (wf' w 63 0))
        { c1 with kernel := some (past k) }))

/-- The same row with a reserved specifier in a field that it uses faults with ILLEGAL_OP (R53). -/
def ScalarFaults (row : Nat → Instr) (op : Nat) (usesX usesY : Bool) : Prop :=
  ∀ s t k w, Issuing s t k w → wOp w = op → wf' w 119 116 = 0xF →
    (40 ≤ wf' w 115 110 ∨ (usesX = true ∧ 40 ≤ wf' w 109 104) ∨ (usesY = true ∧ 40 ≤ wf' w 103 98)) →
    exec (row t) s = .next (issueFault (issued s t k (fun c => { c with kernel := some { k with stall := none } })) t
      { k with stall := none } 0x0101)

/-- At the head of queue `q` of core `t` stands the instruction `e` of opcode `op`, the core runs a kernel, no parity error waits at that
queue, and a core that lends its budget keeps its matrix and vector queues gated (09 R244). -/
structure AtHead (s : State) (t q op : Nat) (e : QEntry) : Prop where
  ready : isReady s = true
  present : corePresent s t = true
  kernel : (getCore s t).kernel.isSome = true
  head : (queueOf (getCore s t) q).head? = some e
  instr : e.marker = false
  opcode : wOp e.word = op
  parity : sGet false (getCore s t).parityErr q = false
  unlent : q < 2 → (getCore s t).lent = false

/-- The head of a queue complete: it leaves the queue, and one more instruction of the queue counts as complete (R62). -/
def headDone (now t q : Nat) (s : State) : State := updCore s t (fun c => completeOne (popQueue now c q) q)

/-- No byte of a range of a scratchpad reads as poisoned or hides an error. -/
def SpadSound (s : State) (t off n : Nat) : Prop :=
  ∀ b, b < n → sGet false s.poison ((spadBase t + off + b) / 64 * 64) = false ∧
    s.errs.find? (fun x => x.1 == (spadBase t + off + b) / 64 * 64) = none

/-- A scratchpad operand: aligned to 64 bytes and within 6 MiB (R86). -/
def SpadFits (off n : Nat) : Prop := off % 64 = 0 ∧ off + n ≤ 6291456

/-- A packet `p` at the head of core `t`'s pending packets that nothing keeps from starting: the device and the partition's cores
are awake, no kernel runs, and every check of R76 passes, its image header reading as `h` and its preset block as `b` (zeros where
it has none). -/
structure PacketReady (s : State) (t : Nat) (p : WorkPkt) (rest : List WorkPkt) (h b : List Byte) : Prop where
  ready : isReady s = true
  present : corePresent s t = true
  owner : ownerOfCore s t = some p.partition
  awake : (getPart s p.partition).stop = 0 ∧ (getCore s t).gated = false
  idle : (getCore s t).kernel = none
  front : (getCore s t).pend = p :: rest
  link : accessHeld s p.image 64 = false ∧ accessHeld s p.record 64 = false ∧
    (bitAt p.flags 0 = true → accessHeld s p.presets 304 = false)
  record : p.record ≠ 0 ∧ p.record % 64 = 0
  unit : locAbsent s (locate p.image) = false
  aligned : p.image % 64 = 0
  header : ∀ x y, readWord wPartition (updCore s t (fun c => { c with pend := rest })) = x → (unitRead x p.image 64 (.core t)).1 = y →
    imagePlace x p.partition p.image 64 = true ∧ (unitRead x p.image 64 (.core t)).2 = (h, false) ∧
    imagePlace y p.partition p.image (64 + 16 * bytesAt h 8 4) = true ∧
    (bitAt p.flags 0 = true → p.presets ≠ 0 →
      p.presets % 16 = 0 ∧ imagePlace y p.partition p.presets 304 = true ∧ (unitRead y p.presets 304 (.core t)).2 = (b, false)) ∧
    (bitAt p.flags 0 = false ∨ p.presets = 0 → b = List.replicate 304 0)
  format : bytesAt h 0 4 = 0x31494B54 ∧ bytesAt h 4 2 = 1 ∧ 0 < bytesAt h 8 4 ∧ bytesAt h 8 4 ≤ 1048576 ∧
    bytesAt h 12 4 < bytesAt h 8 4 ∧ bytesAt h 16 4 ≤ 6291456

end Sys2Proof.Says

open Sys2Proof Sys2Proof.Machine Sys2Proof.Says

/-! ### The queue of commands, the block as a whole -/

/-- A step takes the command at the front of the queue and answers what exec answers on the rest of the queue; with no command
waiting the state stays as it is (the model's own form of a step, log entry 4). -/
def Obligations.StepRunsTheFrontCommand : Prop :=
  (∀ (c : Instr) (rest : List Instr) (s : State), step { s with pending := c :: rest } = exec c { s with pending := rest }) ∧
  (∀ s : State, s.pending = [] → step s = .next s)

/-- Every command answers a next state, in every state: none ends in a fault or a refusal (a property of the model: the spec
describes every error as a record, a count, a report or a state of the device). -/
def Obligations.NoCommandStopsTheBlock : Prop := ∀ (c : Instr) (s : State), ∃ t, exec c s = .next t

/-- No command reads or changes the queue of commands that wait behind it (log entry 4). -/
def Obligations.NoCommandTouchesTheQueue : Prop :=
  ∀ (c : Instr) (s t : State), exec c s = .next t → t.pending = s.pending

/-- Every step keeps the memory's canonical form: addresses strictly rise and no listed byte is the one an unlisted address reads
as; the poison marks likewise. -/
def Obligations.EveryStepKeepsTheMemoryCanonical : Prop :=
  ∀ s t : State, s.memWf → step s = .next t → t.memWf

/-- The memory at reset has that form, and reset holds what the spec gives a device that is ready after a cold start: memory of the device 0,
every region protected (06 R153), every object at its default and every counter 0 (16 R440, 17 R459), the cadence FREE (10 R255), no commit
(16 R457), every port OFF (15 R419), no stop, no error flag, no session and no lane stopped. That host memory reads 0, and that reset is that
state of the device, are the model's choice (log entries 1 and 3). -/
def Obligations.ResetIsCanonicalAndHoldsTheSpecsValues : Prop :=
  State.reset.memWf ∧ (∀ a, rawByte State.reset a = 0) ∧ (∀ n, (getStack State.reset n).prot = 0xFFFF) ∧
  (∀ index sub, objBytes State.reset index sub = objDefault State.reset index sub ∧ counter State.reset index sub = 0) ∧
  State.reset.cad.lock = 0 ∧ State.reset.commit.state = 0 ∧ State.reset.staged = [] ∧ (∀ n, (getPort State.reset n).state = 0) ∧
  State.reset.power.stop = 0 ∧ State.reset.faultsum = 0 ∧ State.reset.boot = .ready ∧ State.reset.pending = [] ∧
  ∀ p, (getPart State.reset p).sessions = [] ∧ (getPart State.reset p).stop = 0 ∧ (getPart State.reset p).contained = none ∧
    (getPart State.reset p).ring.lastseq = none ∧
    ∀ l, (laneOf State.reset p l).expected = 0 ∧ (laneOf State.reset p l).stopped = false

/-! ### Tensor cores: kernels and the issue stage (03) -/

/-- R57: the thirteen scalar instructions that write a register, and NOP, which writes none; A registers hold 64 bits, an L register
reads zero-extended and keeps the low 32 bits; a reserved specifier in use faults, and nothing but the destination and the kernel's place
changes. -/
def Obligations.ScalarInstructionsWriteTheirResult : Prop :=
  (∀ c r, r < 32 → specRead c r = some (sGet 0 c.a r).toNat) ∧
  (∀ c r, r < 8 → specRead c (32 + r) = some (sGet 0 c.l r).toNat) ∧
  (∀ c r v, r < 32 → (∀ x, sGet 0 (specWrite c r v).a x = if x = r then BitVec.ofNat 64 v else sGet 0 c.a x) ∧
    specWrite c r v = { c with a := (specWrite c r v).a }) ∧
  (∀ c r v, r < 8 → (∀ x, sGet 0 (specWrite c (32 + r) v).l x = if x = r then BitVec.ofNat 32 v else sGet 0 c.l x) ∧
    specWrite c (32 + r) v = { c with l := (specWrite c (32 + r) v).l }) ∧
  (∀ s t k w, Issuing s t k w → wOp w = 0xF2 → wf' w 119 116 = 0xF →
    exec (.nop t) s = .next (issued s t k (fun c => { c with kernel := some (past k) }))) ∧
  ScalarFaults .mov 0xE0 true false ∧ ScalarFaults .movi 0xE1 false false ∧ ScalarFaults .add 0xE2 true true ∧
  ScalarFaults .addi 0xE3 true false ∧ ScalarFaults .sub 0xE4 true true ∧ ScalarFaults .shl 0xE6 true true ∧
  ScalarFaults .shli 0xE7 true false ∧ ScalarFaults .shr 0xE8 true true ∧ ScalarFaults .shri 0xE9 true false ∧
  ScalarFaults .and 0xEA true true ∧ ScalarFaults .andi 0xEB true false ∧ ScalarFaults .or 0xEC true true ∧
  ScalarFaults .ori 0xED true false ∧
  ScalarWrites .mov 0xE0 true false (fun x _ _ => x) ∧
  ScalarWrites .movi 0xE1 false false (fun _ _ i => i) ∧
  ScalarWrites .add 0xE2 true true (fun x y _ => (x + y) % 2 ^ 64) ∧
  ScalarWrites .addi 0xE3 true false (fun x _ i => (x + i) % 2 ^ 64) ∧
  ScalarWrites .sub 0xE4 true true (fun x y _ => (x + 2 ^ 64 - y) % 2 ^ 64) ∧
  ScalarWrites .shl 0xE6 true true (fun x y _ => x * 2 ^ (y % 64) % 2 ^ 64) ∧
  ScalarWrites .shli 0xE7 true false (fun x _ i => x * 2 ^ (i % 64) % 2 ^ 64) ∧
  ScalarWrites .shr 0xE8 true true (fun x y _ => x / 2 ^ (y % 64)) ∧
  ScalarWrites .shri 0xE9 true false (fun x _ i => x / 2 ^ (i % 64)) ∧
  ScalarWrites .and 0xEA true true (fun x y _ => x &&& y) ∧
  ScalarWrites .andi 0xEB true false (fun x _ i => x &&& i) ∧
  ScalarWrites .or 0xEC true true (fun x y _ => x ||| y) ∧
  ScalarWrites .ori 0xED true false (fun x _ i => x ||| i)

/-- R49, R51, R57–R60, R64, R78: what the issue stage does with NOP, END, LOOP and BARRIER, and with an instruction of a queue. -/
def Obligations.IssueStageHandlesControlAndQueuesTheRest : Prop :=
  ∀ s t k w, Issuing s t k w →
    (wOp w = 0xF2 → wf' w 119 116 = 0xF →
      exec (.nop t) s = .next (issued s t k (fun c => { c with kernel := some (past k) }))) ∧
    (wOp w = 0xF3 → wf' w 119 116 = 0xF →
      exec (.endKernel t) s = .next (issued s t k (fun c => { c with kernel := some { k with stall := none, ended := true } }))) ∧
    (wOp w = 0xF0 → wf' w 119 116 = 0xF → ∀ body count, wf' w 112 101 = body →
      (sGet 0 (getCore s t).l (wf' w 115 113)).toNat = count →
      0 < body → k.loops.length < 4 → k.next + 1 + body ≤ k.count → (∀ f, k.loops.head? = some f → k.next + 1 + body ≤ f.last) →
      exec (.loop t) s = .next (issued s t k (fun c =>
        let after := nextIndex k.loops (k.next + 1 + body)
        let frame : LoopFrame := { first := k.next + 1, last := k.next + 1 + body, left := count, iter := 0 }
        let skips : Kernel := { k with stall := none, loops := after.1, next := after.2 }
        let enters : Kernel := { k with stall := none, loops := frame :: k.loops, next := k.next + 1 }
        { c with kernel := some (if count = 0 then skips else enters) }))) ∧
    (wOp w = 0xF1 → wf' w 119 116 = 0xF → ∀ hold, wf' w 109 103 = hold → hold ≠ 0 → wf' w 115 110 ≠ 0 →
      (∀ q, q < 6 → bitAt hold q = true → (queueOf (getCore s t) q).length < 16) →
      exec (.barrier t) s = .next (issued s t k (fun c =>
        let waits := barrierWaits (getCore s t) (wf' w 115 110)
        let c1 := (bitsOf 6 hold).foldl (fun x q => setQueue x q (stampHead s.now (queueOf x q ++ [markerEntry k.next (iterOf k) waits])))
          { c with restSince := s.now }
        { c1 with kernel := some { past k with stall := if bitAt hold 6 then some waits else none, stallSince := s.now } }))) ∧
    (∀ q, q < 6 → opQueue (wOp w) = some q → wf' w 119 116 = q → issueIllegal w = false →
      (queueOf (getCore s t) q).length < 16 →
      exec (.issue t) s = .next (issued s t k (fun c =>
        let e : QEntry := { marker := false, word := w, a := c.a, l := c.l, index := k.next, iter := iterOf k, waits := [],
                            started := false, since := none, send := none, desc := none }
        let c1 := setQueue c q (stampHead s.now (queueOf c q ++ [e]))
        { c1 with issued := sSet 0 c1.issued q (sGet 0 c1.issued q + 1), restSince := s.now, kernel := some (past k) })))

/-- R64, R73, R78, R79, R82, R83: a released marker leaves its queue; a packet waits, or is counted as dropped when four wait; a
kernel that has ended and whose queues are done writes its record; an abort and the stall limit stop the kernel. -/
def Obligations.KernelEventsTakeTheirEffect : Prop :=
  ∀ (s : State) (t : Nat), isReady s = true →
    (corePresent s t = false → ∀ sc b, exec (.workPacket t sc b) s = .next (report s sc 0x0001 t)) ∧
    (corePresent s t = true →
    (∀ q e, q < 6 → (queueOf (getCore s t) q).head? = some e → e.marker = true → waitsMet (getCore s t) e.waits = true →
      exec (.barrierMarkerRelease t q) s = .next (updCore s t (fun c => popMarker s.now c q))) ∧
    (∀ sc b, exec (.workPacket t sc b) s = .next (
      if 4 ≤ (getCore s t).pend.length then updCore s t (fun c => { c with dropped := c.dropped + 1 })
      else stirCore (updCore s t (fun c => { c with pend := c.pend ++ [parseWork (padTo 64 b) sc] })) t)) ∧
    (∀ k, (getCore s t).kernel = some k → k.ended = true → accessHeld s k.pkt.record 64 = false →
      (∀ q e, q < 6 → e ∈ queueOf (getCore s t) q → e.marker = true) →
      exec (.kernelEnd t) s = .next (updCore (writeRecord s t k) t (fun c => { c with kernel := none, queues := [] }))) ∧
    (∀ k, (getCore s t).kernel = some k → k.fault = none → k.aborted = false →
      ∃ u, exec (.kernelAbort t) s = .next u ∧ (getCore u t).tray = [] ∧
        (∃ k', (getCore u t).kernel = some k' ∧ k'.ended = true ∧ k'.aborted = true ∧ k'.fault = none ∧ k'.pkt = k.pkt) ∧
        (∀ q, q < 6 → queueOf (getCore u t) q = (queueOf (getCore s t) q).filter keepsRunning) ∧
        (∀ w, w ∈ u.watches ↔ w ∈ s.watches ∧ w.target ≠ .xq t)) ∧
    (∀ k ms e rest q since, q < 6 → (getCore s t).kernel = some k → k.fault = none → k.aborted = false →
      queueOf (getCore s t) q = ms ++ e :: rest → (∀ m ∈ ms, m.marker = true) → e.marker = false →
      (ms ≠ [] → ∃ m ∈ ms, waitsMet (getCore s t) m.waits = false) → (ms = [] → stalls (getCore s t) q e = true) →
      e.since = some since → objNat s (0x3000 + k.pkt.partition) 0xB ≠ 0 →
      since + objNat s (0x3000 + k.pkt.partition) 0xB < s.now →
      ∃ u k', exec (.stallLimit t q) s = .next u ∧ (getCore u t).kernel = some k' ∧
        k'.fault.map (fun f => (f.queue, f.code, f.index, f.iter)) = some (q, 0x0105, e.index, e.iter)))

/-- R71, R72, R74–R76: a packet whose image, presets and record pass the checks starts its kernel, with A0, A1, L0 and L1 of the
packet, the other registers from the preset block where its masks name them and else 0, and the files R74 keeps kept. -/
def Obligations.PacketStartLoadsTheRegisters : Prop :=
  ∀ (s : State) (t : Nat) (p : WorkPkt) (rest : List WorkPkt) (h b : List Byte), PacketReady s t p rest h b →
    ∃ u k, exec (.packetStart t) s = .next u ∧ (getCore u t).kernel = some k ∧
      k.pkt = p ∧ k.count = bytesAt h 8 4 ∧ k.next = bytesAt h 12 4 ∧ k.start = s.now ∧ k.ended = false ∧ k.fault = none ∧
      k.loops = [] ∧ k.stall = none ∧
      (∀ r, r < 32 → sGet 0 (getCore u t).a r =
        if r = 0 then p.a0 else if r = 1 then p.a1
        else if bitAt (bytesAt b 0 4) r then BitVec.ofNat 64 (bytesAt b (16 + 8 * r) 8) else 0) ∧
      (∀ r, r < 8 → sGet 0 (getCore u t).l r =
        if r = 0 then p.l0 else if r = 1 then p.l1
        else if bitAt (bytesAt b 4 1) r then BitVec.ofNat 32 (bytesAt b (272 + 4 * r) 4) else 0) ∧
      (getCore u t).tray = [] ∧ (getCore u t).nextPush = 0 ∧ (getCore u t).vstatVq = 0 ∧ (getCore u t).vstatTq = 0 ∧
      (getCore u t).pend = rest ∧
      (getCore u t).acc = (getCore s t).acc ∧ (getCore u t).v = (getCore s t).v ∧ (getCore u t).m = (getCore s t).m ∧
      (getCore u t).t = (getCore s t).t ∧ (getCore u t).tile = (getCore s t).tile

namespace Sys2Proof.Says

/-! ### Operands of vector, tally and matrix instructions -/

/-- The first source of `n` elements can be read: a V group within the registers, a scratchpad operand that fits and is sound, or
elements within an accumulator (R86, R87, R95, R96). -/
def FirstOk (s : State) (t : Nat) (e : QEntry) (n : Nat) : Prop :=
  (skOf e = 0 ∧ isMx (sfmtOf e) = false ∧ s1Of e + vSpan (sfmtOf e) n ≤ 32) ∨
  (skOf e = 1 ∧ (isMx (sfmtOf e) = true → n % 32 = 0) ∧ SpadFits (spadOff e (s1Of e)) (fmtBytes (sfmtOf e) n) ∧
    SpadSound s t (spadOff e (s1Of e)) (fmtBytes (sfmtOf e) n)) ∨
  (2 ≤ skOf e ∧ 256 * wf' e.word 71 65 + n ≤ 32768)

/-- The first source: elements of a V group, of a scratchpad operand, or of an accumulator from its row on. -/
def firstSrc (s : State) (t : Nat) (e : QEntry) (n : Nat) : Src :=
  if skOf e = 0 then mkSrc (sfmtOf e) (vGet (getCore s t) (s1Of e) (sfmtOf e) n)
  else if skOf e = 1 then
    let b := spadHeld s t (spadOff e (s1Of e)) (fmtBytes (sfmtOf e) n)
    if isMx (sfmtOf e) then mxSrc (sfmtOf e) n b else mkSrc (sfmtOf e) (elems (fmtBits (sfmtOf e)) n b)
  else mkSrc 0 ((accGet (getCore s t) (srcAcc (getCore s t) e) (wf' e.word 71 65) n).map BitVec.toNat)

/-- A V group in the source format can be read. -/
def GroupOk (e : QEntry) (r n : Nat) : Prop := isMx (sfmtOf e) = false ∧ r + vSpan (sfmtOf e) n ≤ 32

/-- The elements of such a group. -/
def groupSrc (s : State) (t : Nat) (e : QEntry) (r n : Nat) : Src := mkSrc (sfmtOf e) (vGet (getCore s t) r (sfmtOf e) n)

/-- The second source can be read: the scalar of imm, or a V group (R94). -/
def SecondOk (e : QEntry) (n : Nat) : Prop := wf' e.word 58 58 = 1 ∨ GroupOk e (wf' e.word 63 59) n

/-- The second source. -/
def secondSrc (s : State) (t : Nat) (e : QEntry) (n : Nat) : Src :=
  if wf' e.word 58 58 = 1 then mkSrc 0 (List.replicate n (wf' e.word 31 0)) else groupSrc s t e (wf' e.word 63 59) n

/-- The destination of `n` elements of a format can be written: a V group or a scratchpad operand. -/
def DestOk (e : QEntry) (fmt n : Nat) : Prop :=
  if dkOf e = 0 then isMx fmt = false ∧ dOf e + vSpan fmt n ≤ 32 else SpadFits (spadOff e (dOf e)) (fmtBytes fmt n)

/-- Elements written to the destination, every other bit of it kept. -/
def put (t : Nat) (e : QEntry) (fmt : Nat) (new : List (Option Nat)) (s : State) : State :=
  if dkOf e = 0 then updCore s t (fun c => vPut c (dOf e) fmt new)
  else spadPut s t (spadOff e (dOf e)) (patch (fmtBits fmt) new (spadHeld s t (spadOff e (dOf e)) (fmtBytes fmt new.length)))

/-- The tray slot that the instruction names emptied when its pop bit is set (R69); the other consumer's instruction may have started
while the slot was full. -/
def popped (t : Nat) (e : QEntry) (s : State) : State :=
  match slotNamed e with
  | some i => if wf' e.word 64 64 = 1 then updCore (startRival t (wf' e.word 119 116) i s) t (fun c => trayPop c i) else s
  | none => s

/-- A vector or tally instruction at the head of queue `q` whose tray slot, if it names one, is full, with its count of 1 to 8,192
elements. -/
structure Counted (s : State) (t q op : Nat) (e : QEntry) (n : Nat) : Prop where
  head : AtHead s t q op e
  slot : ∀ i, slotNamed e = some i → (slotAcc (getCore s t) i).isSome = true
  count : countOf e = n
  some : 0 < n
  few : n ≤ 8192

/-- An elementwise row of VQ: where its formats are `ok` and its operands can be read and written, every lane that `on` enables
takes the pattern that `lane` gives, the flags of those lanes are gathered into VSTAT of VQ, and every other lane keeps its value. -/
def VqComputes (row : Nat → Instr) (op : Nat) (ok : State → Nat → QEntry → Nat → Prop) (on : Core → QEntry → Nat → Bool)
    (lane : State → Nat → QEntry → Nat → Nat → Nat × Flags) : Prop :=
  ∀ s t e n, Counted s t 1 op e n → ok s t e n → DestOk e (dfmtOf e) n →
    exec (row t) s = .next (headDone s.now t 1 (popped t e
      (put t e (dfmtOf e) (laneBits (lanes n (on (getCore s t) e) (lane s t e n)))
        (raiseVq s t (laneFlags (lanes n (on (getCore s t) e) (lane s t e n)))))))

/-- The formats of the arithmetic instructions: FP32, BF16 and FP16 (R97). -/
def Arith (e : QEntry) (f g : Nat) : Prop := dfmtOf e ≤ 2 ∧ f ≤ 2 ∧ g ≤ 2

/-- The formats of MIN, MAX, compare and select (R97, and log entry 18 for their destination). -/
def Exact (e : QEntry) (f g : Nat) : Prop :=
  (f ≤ 2 ∧ g ≤ 2 ∧ dfmtOf e ≤ 2) ∨ (3 ≤ f ∧ f ≤ 9 ∧ f = g ∧ (dfmtOf e ≤ 2 ∨ dfmtOf e = f))

/-- A lane of two sources: the exact result rounded once, with the flags of its operation and of reading its inputs. -/
def binLane (f : Machine.Num → Machine.Num → Machine.Num) (s : State) (t : Nat) (e : QEntry) (n i : Nat) : Nat × Flags :=
  let a := firstSrc s t e n
  let b := secondSrc s t e n
  let x := f (a.val i) (b.val i)
  let r := roundTo (fmtOf (dfmtOf e)) .rne false x
  (r.1, gather [flagsOr r.2 (opFlags [a.val i, b.val i] x), a.flags i, b.flags i])

/-- Both sources of an instruction of two can be read, in formats that `fmts` allows. -/
def TwoOk (fmts : QEntry → Nat → Nat → Prop) (s : State) (t : Nat) (e : QEntry) (n : Nat) : Prop :=
  fmts e (srcFmt e) (secondFmt e) ∧ FirstOk s t e n ∧ SecondOk e n

/-- A curve row: its exact value is `f` of a draw and the source, rounded once more to the destination (R100, 02 R46). -/
def CurveComputes (row : Nat → Instr) (op : Nat) (f : Nat → Machine.Num → W32 × Flags) : Prop :=
  ∀ s t e n, Counted s t 1 op e n → dfmtOf e ≤ 2 → srcFmt e ≤ 2 → FirstOk s t e n → DestOk e (dfmtOf e) n →
    ∀ l, l = lanes n (vOn (getCore s t) e) (fun i =>
      let r := f (s.free + i) ((firstSrc s t e n).val i)
      let q := roundTo (fmtOf (dfmtOf e)) .rne false (num32 r.1)
      (q.1, gather [r.2, q.2, (firstSrc s t e n).flags i])) →
    exec (row t) s = .next (headDone s.now t 1 (popped t e (put t e (dfmtOf e) (laneBits l)
      (raiseVq { s with free := s.free + n } t (laneFlags l)))))

/-- The byte ranges, as offset and length in its core's scratchpad, that a matrix, vector, tally or exchange instruction stores to. -/
def storedTo (e : QEntry) : List (Nat × Nat) :=
  let op := wOp e.word
  let at' (n : Nat) : List (Nat × Nat) := [(spadOff e (dOf e), n)]
  if op = 0x10 then [(spadOff e (wf' e.word 112 108), (wf' e.word 95 89 + 1) * fmtBytes (wf' e.word 107 104) 256)]
  else if op = 0x7F ∨ op = 0x9F then at' 64
  else if op = 0xC9 then [(spadOff e (wf' e.word 92 88), 64)]
  else if op = 0x58 then at' (8 * ceilDiv (wf' e.word 31 0 / 32) 64)
  else if op = 0x47 ∨ op = 0x4C ∨ dkOf e = 0 then
    (if op = 0x87 ∧ wf' e.word 44 44 = 1 then [(spadOff e (wf' e.word 43 39), 4 * wf' e.word 31 0 * (countOf e / lenOf e))] else [])
  else if 0x40 ≤ op ∧ op < 0x60 ∨ op = 0x61 ∨ op = 0x99 then at' (fmtBytes (dfmtOf e) (countOf e))
  else if op = 0x87 then
    at' (8 * (countOf e / lenOf e)) ++
      (if wf' e.word 44 44 = 1 then [(spadOff e (wf' e.word 43 39), 4 * wf' e.word 31 0 * (countOf e / lenOf e))] else [])
  else if 0x80 ≤ op ∧ op < 0x87 then at' (8 * (countOf e / lenOf e))
  else []

/-- The rows of MQ, VQ and TQ, with their queues. -/
def computeRows : List ((Nat → Instr) × Nat) :=
  [(.mma, 0), (.aclr, 0), (.mpush, 0), (.ast, 0), (.ald, 0),
   (.vmov, 1), (.vadd, 1), (.vmul, 1), (.vfma, 1), (.vmin, 1), (.vmax, 1), (.vcmp, 1), (.vsel, 1), (.vcvt, 1), (.mlogic, 1),
   (.vtget, 1), (.vexp2, 1), (.vlog2, 1), (.vrcp, 1), (.vrsqrt, 1), (.vocc, 1), (.vtwr, 1), (.vtrd, 1), (.traypopVq, 1), (.vflagsVq, 1),
   (.tsum, 2), (.tsumsq, 2), (.tmax, 2), (.tmin, 2), (.targmax, 2), (.targmin, 2), (.rowstat, 2), (.rsmerge, 2), (.traypopTq, 2),
   (.ttwr, 2), (.ttrd, 2), (.vflagsTq, 2)]

/-- The panels of block `k` of an MMA: the bytes of A and of B (05 R131, R132). -/
def panelA (s : State) (t : Nat) (e : QEntry) (k : Nat) : List Byte :=
  let n := (wf' e.word 93 87 + 1) * aRowBytes (wf' e.word 78 75)
  spadHeld s t (spadOff e (wf' e.word 112 108) + k * roundup64 n) n

/-- The B panel of block `k`. -/
def panelB (s : State) (t : Nat) (e : QEntry) (k : Nat) : List Byte :=
  let n := bPanelBytes (wf' e.word 74 71) (wf' e.word 86 79 + 1) (wf' e.word 94 94 == 1)
  spadHeld s t (spadOff e (wf' e.word 107 103) + k * roundup64 n) n

/-- How many K-blocks an MMA takes. -/
def blocksOf (e : QEntry) : Nat := if wf' e.word 70 70 = 1 then capL e (wf' e.word 69 67) else wf' e.word 66 51

/-- Whether an MMA skips block `k`: its occupancy map is in use and holds 0 for it (02 R41, R42). -/
def skips (s : State) (t : Nat) (e : QEntry) (k : Nat) : Bool :=
  wf' e.word 97 97 == 1 && !bitAt (leNat (spadHeld s t (spadOff e (wf' e.word 102 98)) (8 * ceilDiv (blocksOf e) 64))) k

/-- The operands of an MMA can be read, and its formats go together. -/
structure MmaOk (s : State) (t : Nat) (e : QEntry) : Prop where
  formats : mmaPair (wf' e.word 78 75) (wf' e.word 74 71) = true
  map : wf' e.word 97 97 = 1 → blocksOf e ≠ 0 →
    SpadFits (spadOff e (wf' e.word 102 98)) (8 * ceilDiv (blocksOf e) 64) ∧
    SpadSound s t (spadOff e (wf' e.word 102 98)) (8 * ceilDiv (blocksOf e) 64)
  fits : blocksOf e ≠ 0 →
    (∀ a, a = (wf' e.word 93 87 + 1) * aRowBytes (wf' e.word 78 75) →
      SpadFits (spadOff e (wf' e.word 112 108)) ((blocksOf e - 1) * roundup64 a + a)) ∧
    (∀ b, b = bPanelBytes (wf' e.word 74 71) (wf' e.word 86 79 + 1) (wf' e.word 94 94 == 1) →
      SpadFits (spadOff e (wf' e.word 107 103)) ((blocksOf e - 1) * roundup64 b + b))
  sound : ∀ k, k < blocksOf e → skips s t e k = false →
    (∀ a, a = (wf' e.word 93 87 + 1) * aRowBytes (wf' e.word 78 75) →
      SpadSound s t (spadOff e (wf' e.word 112 108) + k * roundup64 a) a) ∧
    (∀ b, b = bPanelBytes (wf' e.word 74 71) (wf' e.word 86 79 + 1) (wf' e.word 94 94 == 1) →
      SpadSound s t (spadOff e (wf' e.word 107 103) + k * roundup64 b) b) ∧
    (wf' e.word 94 94 = 1 → ∀ j, j < wf' e.word 86 79 + 1 →
      metaValid (bMeta (wf' e.word 74 71) (wf' e.word 86 79 + 1) (panelB s t e k) j) = true)

/-- What the K-blocks of an MMA make of one element of the accumulator, in block order (02 R35–R42). -/
def mmaElem (s : State) (t : Nat) (e : QEntry) (i j : Nat) (old : W32) : W32 :=
  (List.range (blocksOf e)).foldl (fun v k =>
    if skips s t e k then accumulate v (Machine.Num.zero false)
    else kBlock (wf' e.word 94 94 == 1) (wf' e.word 78 75) (wf' e.word 74 71) (wf' e.word 86 79 + 1) (panelA s t e k)
      (panelB s t e k) i j v)
    (if wf' e.word 95 95 = 1 then 0 else old)

end Sys2Proof.Says

/-! ### The matrix, vector and tally queues (02, 04, 05) -/

/-- R88–R92, 02 R35–R42: MMA adds its K-blocks to every element of the region and to no other, and pushes the accumulator when
asked. The accumulator's elements are read after; no memory changes. -/
def Obligations.MmaAccumulatesItsBlocks : Prop :=
  ∀ s t e, AtHead s t 0 0x00 e → mqReady t (wf' e.word 96 96 == 1) true s e = true → MmaOk s t e →
    ∃ u, exec (.mma t) s = .next u ∧ u.mem = s.mem ∧
      (∀ a r c, a < 8 → r < 128 → c < 256 → sGet 0 (getCore u t).acc (32768 * a + 256 * r + c) =
        if a = accOf e ∧ r ≤ wf' e.word 93 87 ∧ c ≤ wf' e.word 86 79 then
          mmaElem s t e r c (sGet 0 (getCore s t).acc (32768 * a + 256 * r + c))
        else sGet 0 (getCore s t).acc (32768 * a + 256 * r + c)) ∧
      (∀ i, i < 8 → slotAcc (getCore u t) i =
        if wf' e.word 96 96 = 1 ∧ i = (getCore s t).nextPush then some (accOf e) else slotAcc (getCore s t) i) ∧
      queueOf (getCore u t) 0 = stampHead s.now ((queueOf (getCore s t) 0).drop 1)

/-- R67, R70, R92, R93: ACLR, MPUSH, AST and ALD. -/
def Obligations.AccumulatorInstructionsMoveWholeRows : Prop :=
  (∀ s t e, AtHead s t 0 0x08 e → mqReady t false true s e = true →
    ∃ u, exec (.aclr t) s = .next u ∧ u.mem = s.mem ∧
      (∀ x, sGet 0 (getCore u t).acc x = if x / 32768 = accOf e then 0 else sGet 0 (getCore s t).acc x)) ∧
  (∀ s t e, AtHead s t 0 0x09 e → mqReady t true false s e = true →
    exec (.mpush t) s = .next (headDone s.now t 0 (updCore s t (fun c => trayPush c (accOf e))))) ∧
  (∀ s t e, AtHead s t 0 0x10 e → wf' e.word 102 96 + (wf' e.word 95 89 + 1) ≤ 128 → isPacked (wf' e.word 107 104) = false →
    SpadFits (spadOff e (wf' e.word 112 108)) ((wf' e.word 95 89 + 1) * fmtBytes (wf' e.word 107 104) 256) →
    exec (.ast t) s = .next (headDone s.now t 0 (spadPutBytes s t (spadOff e (wf' e.word 112 108))
      ((List.range (wf' e.word 95 89 + 1)).flatMap (fun i => astRow (wf' e.word 107 104) (wf' e.word 103 103 == 1)
        ((accGet (getCore s t) (accOf e) (wf' e.word 102 96 + i) 256).map num32)))))) ∧
  (∀ s t e, AtHead s t 0 0x11 e → mqReady t false true s e = true → wf' e.word 102 96 + (wf' e.word 95 89 + 1) ≤ 128 →
    wf' e.word 107 104 = 0 → SpadFits (spadOff e (wf' e.word 112 108)) ((wf' e.word 95 89 + 1) * 1024) →
    SpadSound s t (spadOff e (wf' e.word 112 108)) ((wf' e.word 95 89 + 1) * 1024) →
    ∃ u, exec (.ald t) s = .next u ∧ u.mem = s.mem ∧
      (∀ x, sGet 0 (getCore u t).acc x =
        if 32768 * accOf e + 256 * wf' e.word 102 96 ≤ x ∧
            x < 32768 * accOf e + 256 * wf' e.word 102 96 + 256 * (wf' e.word 95 89 + 1) then
          BitVec.ofNat 32 (leNat (spadHeld s t
            (spadOff e (wf' e.word 112 108) + 4 * (x - (32768 * accOf e + 256 * wf' e.word 102 96))) 4))
        else sGet 0 (getCore s t).acc x))

/-- R94–R97, R99 (without block scales), 02 R29–R34: the elementwise instructions round each exact result once. -/
def Obligations.VectorLanesRoundTheExactResult : Prop :=
  VqComputes .vmov 0x40 (fun s t e n => holdsAll (dfmtOf e) (srcFmt e) = true ∧ FirstOk s t e n) vOn (fun s t e n i =>
    ((roundTo (fmtOf (dfmtOf e)) .rne false ((firstSrc s t e n).val i)).1, (firstSrc s t e n).flags i)) ∧
  VqComputes .vadd 0x41 (TwoOk Arith) vOn (binLane numAdd) ∧
  VqComputes .vmul 0x43 (TwoOk Arith) vOn (binLane numMul) ∧
  VqComputes .vmin 0x45 (TwoOk Exact) vOn (binLane numMin) ∧
  VqComputes .vmax 0x46 (TwoOk Exact) vOn (binLane numMax) ∧
  VqComputes .vfma 0x44 (fun s t e n => TwoOk Arith s t e n ∧ GroupOk e (wf' e.word 57 53) n ∧ sfmtOf e ≤ 2) vOn (fun s t e n i =>
    let a := firstSrc s t e n
    let b := secondSrc s t e n
    let d := groupSrc s t e (wf' e.word 57 53) n
    let r := fmaLane (dfmtOf e) (a.val i) (b.val i) (d.val i)
    (r.1, gather [r.2, a.flags i, b.flags i, d.flags i])) ∧
  VqComputes .vsel 0x48 (TwoOk Exact) (fun _ _ _ => true) (fun s t e n i =>
    let a := firstSrc s t e n
    let b := secondSrc s t e n
    let r := roundTo (fmtOf (dfmtOf e)) .rne false (if maskBit (getCore s t) (wf' e.word 52 50) i then a.val i else b.val i)
    (r.1, gather [r.2, a.flags i, b.flags i])) ∧
  VqComputes .vcvt 0x49 (fun s t e n => isMx (dfmtOf e) = false ∧ (wf' e.word 48 48 = 1 → srcFmt e = 0) ∧ FirstOk s t e n) vOn
    (fun s t e n i =>
      let a := firstSrc s t e n
      let r := roundTo (fmtOf (dfmtOf e)) (cvtRnd (wf' e.word 48 48 == 1) (capA e (wf' e.word 63 59)) (capA e (wf' e.word 57 53)) i)
        (wf' e.word 47 47 == 1) (a.val i)
      (r.1, flagsOr r.2 (a.flags i)))

/-- R99, 02 R27: VCVT to an MX format writes, for each block with an enabled lane, the scale of the block's 32 values (the source's in
the enabled lanes, the present ones in the others) and every element under it; a block with none keeps its bytes. -/
def Obligations.ConversionToMxWritesScaleAndElements : Prop :=
  ∀ s t e n, Counted s t 1 0x49 e n → isMx (dfmtOf e) = true → dkOf e = 1 → n % 32 = 0 →
    (wf' e.word 48 48 = 1 → srcFmt e = 0) → FirstOk s t e n → SpadFits (spadOff e (dOf e)) (fmtBytes (dfmtOf e) n) →
    SpadSound s t (spadOff e (dOf e)) (fmtBytes (dfmtOf e) n) →
    ∃ u, exec (.vcvt t) s = .next u ∧
      ∀ b i, b < n / 32 → i < 32 →
        let on := fun j => vOn (getCore s t) e (32 * b + j)
        let old := spadHeld s t (spadOff e (dOf e)) (fmtBytes (dfmtOf e) n)
        let out := spadHeld u t (spadOff e (dOf e)) (fmtBytes (dfmtOf e) n)
        let vals := (List.range 32).map (fun j => if on j then (firstSrc s t e n).val (32 * b + j)
          else scaleBy (mxScaleAt (dfmtOf e) n old b)
            (decodeNum (fmtOf (dfmtOf e)) (elemAt (fmtBits (dfmtOf e)) old (32 * b + j))))
        let scale := mxScale (dfmtOf e) vals
        let rnd := if on i then cvtRnd (wf' e.word 48 48 == 1) (capA e (wf' e.word 63 59)) (capA e (wf' e.word 57 53)) (32 * b + i)
          else .rne
        if (List.range 32).any on = true then
          mxScaleAt (dfmtOf e) n out b = scale ∧
          elemAt (fmtBits (dfmtOf e)) out (32 * b + i) =
            (mxElem (dfmtOf e) scale rnd (wf' e.word 47 47 == 1) (vals.getD i (Machine.Num.zero false))).1 % 2 ^ fmtBits (dfmtOf e)
        else
          mxScaleAt (dfmtOf e) n out b = mxScaleAt (dfmtOf e) n old b ∧
          elemAt (fmtBits (dfmtOf e)) out (32 * b + i) = elemAt (fmtBits (dfmtOf e)) old (32 * b + i)

/-- R100: the four curve instructions deliver a value of 02 R46, rounded once more to the destination; which value within the bound
is free (log entries 7 and 15). -/
def Obligations.CurveInstructionsDeliverTheirValue : Prop :=
  CurveComputes .vexp2 0x50 exp2Op ∧ CurveComputes .vlog2 0x51 log2Op ∧ CurveComputes .vrcp 0x52 rcpOp ∧
  CurveComputes .vrsqrt 0x53 rsqrtOp

/-- R98: compare and mask logic write one mask bit for each enabled element and keep every other one. -/
def Obligations.MaskInstructionsWriteMaskBits : Prop :=
  (∀ s t e n, Counted s t 1 0x47 e n →
    ((srcFmt e ≤ 2 ∧ secondFmt e ≤ 2) ∨ (3 ≤ srcFmt e ∧ srcFmt e ≤ 9 ∧ srcFmt e = secondFmt e)) → FirstOk s t e n → SecondOk e n →
    ∃ u, exec (.vcmp t) s = .next u ∧ u.mem = s.mem ∧ (getCore u t).v = (getCore s t).v ∧
      ∀ k i, k < 8 → i < 8192 → maskBit (getCore u t) k i =
        if k = dOf e % 8 ∧ i < n ∧ vOn (getCore s t) e i = true then
          condHolds (wf' e.word 46 44) ((firstSrc s t e n).val i) ((secondSrc s t e n).val i)
        else maskBit (getCore s t) k i) ∧
  (∀ s t e n, Counted s t 1 0x4C e n →
    ∃ u, exec (.mlogic t) s = .next u ∧ u.mem = s.mem ∧ (getCore u t).v = (getCore s t).v ∧
      ∀ k i, k < 8 → i < 8192 → maskBit (getCore u t) k i =
        if k = dOf e % 8 ∧ i < n ∧ vOn (getCore s t) e i = true then
          maskLogic (wf' e.word 46 44) (maskBit (getCore s t) (s1Of e % 8) i) (maskBit (getCore s t) (wf' e.word 63 59 % 8) i)
        else maskBit (getCore s t) k i)

/-- R33, R69, R97, R101, R102, R108: the transpose tile, tally words, occupancy maps, flag words and tray pops of VQ and TQ. -/
def Obligations.TileTallyWordAndFlagInstructions : Prop :=
  (∀ s t e n, Counted s t 1 0x4E e n → n ≤ 128 → dfmtOf e = 0 → DestOk e 0 n →
    exec (.vtget t) s = .next (headDone s.now t 1 (popped t e (put t e 0 (lanes n (vOn (getCore s t) e) (fun i =>
      let x := (tEntry (getCore s t) (s1Of e % 16) i).toNat
      if wf' e.word 44 44 = 1 then x / 2 ^ 32 % 2 ^ 32 else x % 2 ^ 32)) s)))) ∧
  (∀ s t e n w, Counted s t 1 0x58 e n → wf' e.word 31 0 = w → w % 32 = 0 → 32 ≤ w → w ≤ 8192 → n % w = 0 → FirstOk s t e n →
    SpadFits (spadOff e (dOf e)) (8 * ceilDiv (w / 32) 64) →
    exec (.vocc t) s = .next (headDone s.now t 1 (popped t e (spadPutBytes s t (spadOff e (dOf e))
      (natLe (8 * ceilDiv (w / 32) 64) (occupancy w (firstSrc s t e n).vals)))))) ∧
  (∀ (r : (Nat → Instr) × Nat × Nat × (Core → QEntry → Nat → Bool)), r = (.vtwr, 1, 0x60, vOn) ∨ r = (.ttwr, 2, 0x98, tOn) →
    ∀ s t e n, Counted s t r.2.1 r.2.2.1 e n → n % 32 = 0 → dOf e + n / 32 ≤ 32 → isMx (srcFmt e) = false → FirstOk s t e n →
    ∃ u, exec (r.1 t) s = .next u ∧ u.mem = s.mem ∧
      ∀ i c, i < 32 → c < 32 → tileGet (getCore u t) i c =
        if dOf e ≤ i ∧ 32 * (i - dOf e) + c < n ∧ r.2.2.2 (getCore s t) e (32 * (i - dOf e) + c) = true then
          BitVec.ofNat 32 ((firstSrc s t e n).bits.getD (32 * (i - dOf e) + c) 0)
        else tileGet (getCore s t) i c) ∧
  (∀ (r : (Nat → Instr) × Nat × Nat × (Core → QEntry → Nat → Bool)), r = (.vtrd, 1, 0x61, vOn) ∨ r = (.ttrd, 2, 0x99, tOn) →
    ∀ s t e n, Counted s t r.2.1 r.2.2.1 e n → n % 32 = 0 → s1Of e + n / 32 ≤ 32 → isMx (dfmtOf e) = false → DestOk e (dfmtOf e) n →
    exec (r.1 t) s = .next (headDone s.now t r.2.1 (popped t e (put t e (dfmtOf e) (lanes n (r.2.2.2 (getCore s t) e) (fun i =>
      (tileGet (getCore s t) (i % 32) (s1Of e + i / 32)).toNat % 2 ^ fmtBits (dfmtOf e))) s)))) ∧
  (∀ (r : (Nat → Instr) × Nat × Nat), r = (.traypopVq, 1, 0x7E) ∨ r = (.traypopTq, 2, 0x88) →
    ∀ s t e i, AtHead s t r.2.1 r.2.2 e → slotNamed e = some i → (slotAcc (getCore s t) i).isSome = true →
    exec (r.1 t) s = .next (headDone s.now t r.2.1 (updCore (startRival t (wf' e.word 119 116) i s) t (fun c => trayPop c i)))) ∧
  (∀ s t e, AtHead s t 1 0x7F e → SpadFits (spadOff e (dOf e)) 64 →
    exec (.vflagsVq t) s = .next (headDone s.now t 1 (updCore (spadPutBytes s t (spadOff e (dOf e))
      (natLe 4 (getCore s t).vstatVq.toNat ++ List.replicate 60 0)) t (fun c => { c with vstatVq := 0 })))) ∧
  (∀ s t e, AtHead s t 2 0x9F e → SpadFits (spadOff e (dOf e)) 64 →
    exec (.vflagsTq t) s = .next (headDone s.now t 2 (updCore (spadPutBytes s t (spadOff e (dOf e))
      (natLe 4 (getCore s t).vstatTq.toNat ++ List.replicate 60 0)) t (fun c => { c with vstatTq := 0 }))))

namespace Sys2Proof.Says

/-! ### Tally instructions -/

/-- The rows of a tally instruction fit, and its destination of one 64-bit entry a row can be read and written (R104, R106). -/
structure RowsOk (s : State) (t : Nat) (e : QEntry) (n : Nat) : Prop where
  len : lenOf e ≠ 0
  whole : n % lenOf e = 0
  few : dkOf e = 0 → n / lenOf e ≤ 128
  dest : dkOf e ≠ 0 → SpadFits (spadOff e (dOf e)) (8 * (n / lenOf e))
  sound : dkOf e ≠ 0 → wf' e.word 45 45 ≠ 0 → SpadSound s t (spadOff e (dOf e)) (8 * (n / lenOf e))

/-- The entries at the destination. -/
def heldEntries (s : State) (t : Nat) (e : QEntry) (rows : Nat) : List W64 :=
  if dkOf e = 0 then (List.range rows).map (tEntry (getCore s t) (dOf e % 16))
  else (elems 64 rows (spadHeld s t (spadOff e (dOf e)) (8 * rows))).map (BitVec.ofNat 64)

/-- Results of rows delivered: combined with the entries held when acc asks (R106, the draws from `base` on), their flags gathered into
VSTAT of TQ, and written. -/
def delivered (s : State) (t op base : Nat) (e : QEntry) (l : List (W64 × Flags)) : State :=
  let out := if wf' e.word 45 45 = 0 then l
    else (indexed ((heldEntries s t e l.length).zip l)).map (fun x =>
      ((combine op (base + 3 * x.1) x.2.1 x.2.2.1).1, flagsOr (combine op (base + 3 * x.1) x.2.1 x.2.2.1).2 x.2.2.2))
  let s1 := raiseTq { s with free := base + 3 * l.length } t (gather (out.map (fun x => x.2)))
  let words := out.map (fun x => x.1)
  if dkOf e = 0 then updCore s1 t (fun c => { c with t := sSetMany 0 c.t (128 * (dOf e % 16)) words })
  else spadPutBytes s1 t (spadOff e (dOf e)) (words.flatMap (fun x => natLe 8 x.toNat))

/-- A reduction row of TQ: `f` gives the entry of a row from its first draw and its enabled elements with their places (R105). -/
def TallyReduces (row : Nat → Instr) (op : Nat) (f : QEntry → Nat → List (Nat × Machine.Num) → W64 × Flags) : Prop :=
  ∀ s t e n, Counted s t 2 op e n → RowsOk s t e n → FirstOk s t e n →
    ∀ l, l = (List.range (n / lenOf e)).map (fun r =>
      let on := (List.range (lenOf e)).filter (fun j => tOn (getCore s t) e (r * lenOf e + j))
      let x := f e (s.free + r * (lenOf e + 1)) (on.map (fun j => (j, (firstSrc s t e n).val (r * lenOf e + j))))
      (x.1, flagsOr x.2 (gather (on.map (fun j => (firstSrc s t e n).flags (r * lenOf e + j)))))) →
    exec (row t) s = .next (headDone s.now t 2 (popped t e (delivered s t op (s.free + (n / lenOf e) * (lenOf e + 1)) e l)))

/-! ### Transfers, beads, streams -/

/-- No byte of a range of memory below the caches reads as poisoned or hides an error. -/
def RawSound (s : State) (a n : Nat) : Prop :=
  ∀ b, b < n → sGet false s.poison ((a + b) / 64 * 64) = false ∧ s.errs.find? (fun x => x.1 == (a + b) / 64 * 64) = none

/-- A transfer of one row of `n` elements of `w` whole bytes, the same format on both sides, without padding or reduction: the source
at `src`, the destination at `dst`. -/
structure PlainRow (x : Xfer) (n w : Nat) (src dst : Int) : Prop where
  code : x.src.code = x.dst.code
  bytes : wholeBytes x.src.code = w ∧ 0 < w
  step : x.src.rawSt 0 = w ∧ x.dst.rawSt 0 = w
  src : x.src.base = src ∧ x.src.ext = [n, 1, 1, 1, 1]
  dst : x.dst.base = dst ∧ x.dst.ext = [n, 1, 1, 1, 1]
  perm : x.perm = [0, 1, 2, 3, 4]
  lo : x.lo = [0, 0, 0, 0, 0]
  mode : x.padw = false ∧ x.reduce = 0 ∧ x.rnd = false

/-- An address lies in a channel that is declared failing (06 R160). -/
def channelDown (s : State) (a : Nat) : Bool :=
  match locate a with | .stack n off => bitAt (getStack s n).failing (chanOf (getStack s n) off) | _ => false

/-- The 16 bytes of a watch message (R241): bead and die, status, flags, value, stamp. -/
def messageBytes (m : Msg) : List Byte :=
  natLe 2 (m.bead % 4096 + 4096 * (m.die % 2)) ++ natLe 1 m.status ++
    natLe 1 ((if m.poison then 1 else 0) + (if m.reclaimed then 2 else 0)) ++ natLe 4 m.value.toNat ++ natLe 8 m.stamp

/-- A watch as a reckoning of a pair by `c` leaves it (R246). -/
def loweredWatch (x : Pair) (c : W32) (w : Watch) : Watch :=
  if (w.die, w.bead) = x.producer ∨ (w.die, w.bead) = x.consumer then { w with value := w.value - c } else w

/-- No latent error waits in a bead. -/
def BeadSound (s : State) (d n : Nat) : Prop := s.errs.find? (fun x => x.1 == beadAddr d (4 * n)) = none

/-- The instruction of an exchange row stands at the head of XQ and names a bead that its partition has. -/
structure BeadHead (s : State) (t op : Nat) (e : QEntry) (d n : Nat) : Prop where
  head : AtHead s t 5 op e
  bead : xqBead e = (d, n)
  owned : beadOwned s (xqPart s t) d n = true
  sound : BeadSound s d n

/-- The 64 bytes `b` are a stream command of the operation `op` with the fields `c` (R110), and its unit runs it: the checks of R111 pass,
the memory it names can be reached, both sources read without poison, and the destination is apart from each source or is it. -/
structure SvuRuns (s : State) (i op : Nat) (b : List Byte) (c : SvuCmd) (len1 len2 lenD draws : Nat) (b1 b2 : List Byte) (r1 r2 : State) :
    Prop where
  ready : isReady s = true
  present : stewardPresent s i = true
  operation : bytesAt b 0 1 = op
  fields : parseStream b = c
  count : 0 < c.count ∧ c.count ≤ 16777216
  place1 : len1 ≠ 0 → streamPlace s i c.src1 len1 = true
  place2 : len2 ≠ 0 → streamPlace s i c.src2 len2 = true
  placeD : streamPlace s i c.dst lenD = true
  open1 : accessHeld s c.src1 len1 = false
  open2 : accessHeld s c.src2 len2 = false
  openD : accessHeld s c.dst lenD = false
  read1 : unitRead { s with free := s.free + draws } c.src1 len1 .steward = (r1, b1, false)
  read2 : unitRead r1 c.src2 len2 .steward = (r2, b2, false)
  apart1 : len1 = 0 ∨ c.src1 = c.dst ∨ overlaps c.src1 len1 c.dst lenD = false
  apart2 : len2 = 0 ∨ c.src2 = c.dst ∨ overlaps c.src2 len2 c.dst lenD = false

/-- What a stream leaves: its bytes at dst, its flags in VSTAT of its unit, and one stream more counted. -/
def streamed (i : Nat) (c : SvuCmd) (out : List Byte × Flags) (s : State) : State :=
  updSteward (unitWrite (raiseSvu s i out.2) .home c.dst out.1 false .steward).1 i (fun y => { y with streams := y.streams + 1 })

/-- A source stream of a command: its format and its elements. -/
abbrev Stretch := SvuCmd → Nat × Nat

/-- No source. -/
def noSrc : Stretch := fun _ => (0, 0)

/-- A source of the command's count of elements in its source format. -/
def wholeSrc : Stretch := fun c => (c.sfmt, c.count)

/-- A row of the stream vector unit: from its two sources and its draws it writes the bytes that `out` gives to dst, gathers their
flags into VSTAT, and counts one stream (R111, R112). -/
def SvuWrites (row : Nat → List Byte → Instr) (op : Nat) (ok : SvuCmd → Prop) (src1 src2 : Stretch) (lenD draws : SvuCmd → Nat)
    (out : SvuCmd → Nat → Src → Src → List Byte × Flags) : Prop :=
  ∀ s i b c b1 b2 r1 r2, SvuRuns s i op b c (fmtBytes (src1 c).1 (src1 c).2) (fmtBytes (src2 c).1 (src2 c).2) (lenD c) (draws c) b1 b2 r1 r2 →
    ok c → exec (row i b) s = .next (streamed i c
      (out c s.free (streamSrc (src1 c).1 (src1 c).2 b1) (streamSrc (src2 c).1 (src2 c).2 b2)) r2)

/-- Bytes of a command's destination elements. -/
def dBytes (c : SvuCmd) : Nat := fmtBytes c.dfmt c.count

/-- The count of a command cuts no MX block of its source (R110, log entry 35). -/
def srcWhole (c : SvuCmd) : Prop := isMx c.sfmt = true → c.count % 32 = 0

/-- The count of a command cuts no MX block of its source or its destination. -/
def bothWhole (c : SvuCmd) : Prop := srcWhole c ∧ (isMx c.dfmt = true → c.count % 32 = 0)

/-- The operands of an arithmetic stream: FP32, BF16 or FP16 (02 R34). -/
def arithOk (c : SvuCmd) : Prop := c.sfmt ≤ 2 ∧ (isMx c.dfmt = true → c.count % 32 = 0)

/-- The elements of a destination stream, each exact result rounded once to the destination format, with their flags. -/
def rounded (c : SvuCmd) (sat : Bool) (rnd : Nat → Rnd) (val : Nat → Machine.Num × Flags) : List Byte × Flags :=
  (chunkBytes (dBytes c) (streamConvert c.dfmt c.count sat rnd val), chunkFlags (streamConvert c.dfmt c.count sat rnd val))

/-- An elementwise stream of `f` over one source. -/
def oneOut (f : SvuCmd → Nat → Machine.Num → Machine.Num × Flags) (c : SvuCmd) (base : Nat) (x _ : Src) : List Byte × Flags :=
  rounded c false (fun _ => .rne) (fun k => ((f c (base + k) (x.val k)).1, gather [(f c (base + k) (x.val k)).2, x.flags k, noFlags]))

/-- An elementwise stream of `f` over two sources. -/
def twoOut (f : SvuCmd → Machine.Num → Machine.Num → Machine.Num × Flags) (c : SvuCmd) (_ : Nat) (x y : Src) : List Byte × Flags :=
  rounded c false (fun _ => .rne) (fun k => ((f c (x.val k) (y.val k)).1, gather [(f c (x.val k) (y.val k)).2, x.flags k, y.flags k]))

/-- A reduction of a stream to one entry. -/
def foldOut (f : SvuCmd → Nat → List Machine.Num → W64 × Flags) (c : SvuCmd) (base : Nat) (x _ : Src) : List Byte × Flags :=
  (natLe 8 (f c base x.vals).1.toNat, flagsOr (f c base x.vals).2 (srcFlags x))

/-- The rows of the stream vector unit, with their operations (R112). -/
def svuRows : List ((Nat → List Byte → Instr) × Nat) :=
  [(.svuAdd, 0x01), (.svuMul, 0x02), (.svuFma, 0x03), (.svuMin, 0x04), (.svuMax, 0x05), (.svuCmp, 0x06), (.svuSel, 0x07), (.svuCvt, 0x08),
   (.svuExp2, 0x09), (.svuLog2, 0x0A), (.svuRcp, 0x0B), (.svuRsqrt, 0x0C), (.svuSum, 0x10), (.svuSumsq, 0x11), (.svuReduceMax, 0x12),
   (.svuReduceMin, 0x13), (.svuArgmax, 0x14), (.svuArgmin, 0x15), (.svuRowstat, 0x16), (.svuRand, 0x20), (.svuTopk, 0x21), (.svuTopp, 0x22),
   (.svuSample, 0x23), (.svuSort, 0x24)]

end Sys2Proof.Says

/-- 02 R43–R45, R103–R106: the seven reductions of TQ, one entry a row, over the elements that the mask enables; sums and exponentials
within their bound are free values (log entry 15). R107: RSMERGE merges k pairs a
row from the scratchpad, and with wout writes each pair's weight. -/
def Obligations.TallyReductionsDeliverOneEntryARow : Prop :=
  TallyReduces .tsum 0x80 (fun _ b l => sumRow b (l.map Prod.snd)) ∧
  TallyReduces .tsumsq 0x81 (fun _ b l => sumsqRow b (l.map Prod.snd)) ∧
  TallyReduces .tmax 0x82 (fun _ _ l => extremeRow true (l.map Prod.snd)) ∧
  TallyReduces .tmin 0x83 (fun _ _ l => extremeRow false (l.map Prod.snd)) ∧
  TallyReduces .targmax 0x84 (fun e _ l => argRow true (wf' e.word 31 0) l) ∧
  TallyReduces .targmin 0x85 (fun e _ l => argRow false (wf' e.word 31 0) l) ∧
  TallyReduces .rowstat 0x86 (fun e b l => rowstat b (decodeNum fp32 (wf' e.word 31 0)) (l.map Prod.snd)) ∧
  ∀ s t e n k rows, Counted s t 2 0x87 e n → RowsOk s t e n → n / lenOf e = rows → wf' e.word 31 0 = k → 1 ≤ k → k ≤ 64 →
    SpadFits (spadOff e (s1Of e)) (8 * k * rows) → SpadSound s t (spadOff e (s1Of e)) (8 * k * rows) →
    (wf' e.word 44 44 = 1 → SpadFits (spadOff e (wf' e.word 43 39)) (4 * k * rows)) →
    ∀ pairs : Nat → List W64, (∀ r, pairs r = (List.range k).map (fun i =>
      BitVec.ofNat 64 (leNat (spadHeld s t (spadOff e (s1Of e) + 8 * (i * rows + r)) 8)))) →
    ∀ out, out = (List.range rows).map (fun r => mergePairs (s.free + r * (2 * k + 1)) (pairs r)) →
    ∀ term : Nat → Nat → Machine.Num, (∀ i r, term i r = (mergeTerms (pairs r)).2.getD i (Machine.Num.zero false)) →
    ∀ weight : Nat → Nat → W32, (∀ i r, weight i r = mergeWeight (s.free + r * (2 * k + 1) + k + 1 + i) (term i r)
      (secondary (out.getD r (0, noFlags)).1)) →
    let read := gather ((List.range rows).flatMap (fun r => (pairs r).map (entryFlags true)))
    let s1 := delivered s t 0x87 (s.free + rows * (2 * k + 1)) e (out.map (fun x => (x.1, flagsOr x.2 read)))
    exec (.rsmerge t) s = .next (headDone s.now t 2 (popped t e (if wf' e.word 44 44 = 1 then
      spadPutBytes
        (raiseTq s1 t (gather ((List.range k).flatMap (fun i => (List.range rows).map (fun r =>
          weightFlags (term i r) (secondary (out.getD r (0, noFlags)).1) (weight i r))))))
        t (spadOff e (wf' e.word 43 39))
        ((List.range k).flatMap (fun i => (List.range rows).flatMap (fun r => natLe 4 (weight i r).toNat)))
      else s1)))

/-- R95, R103: a vector or tally instruction with a count of 0 does nothing but leave its queue, and its slot when it pops one. -/
def Obligations.CountZeroOnlyPops : Prop :=
  ∀ r, r ∈ ([(.vmov, 1, 0x40), (.vadd, 1, 0x41), (.vmul, 1, 0x43), (.vfma, 1, 0x44), (.vmin, 1, 0x45), (.vmax, 1, 0x46),
      (.vcmp, 1, 0x47), (.vsel, 1, 0x48), (.vcvt, 1, 0x49), (.mlogic, 1, 0x4C), (.vtget, 1, 0x4E), (.vexp2, 1, 0x50),
      (.vlog2, 1, 0x51), (.vrcp, 1, 0x52), (.vrsqrt, 1, 0x53), (.vocc, 1, 0x58), (.vtwr, 1, 0x60), (.vtrd, 1, 0x61),
      (.tsum, 2, 0x80), (.tsumsq, 2, 0x81), (.tmax, 2, 0x82), (.tmin, 2, 0x83), (.targmax, 2, 0x84), (.targmin, 2, 0x85),
      (.rowstat, 2, 0x86), (.rsmerge, 2, 0x87), (.ttwr, 2, 0x98), (.ttrd, 2, 0x99)] : List ((Nat → Instr) × Nat × Nat)) →
    ∀ s t e, AtHead s t r.2.1 r.2.2 e → (∀ i, slotNamed e = some i → (slotAcc (getCore s t) i).isSome = true) → countOf e = 0 →
      exec (r.1 t) s = .next (headDone s.now t r.2.1 (popped t e s))

/-- 03 R52, R61, 04 R86: what an instruction of MQ, VQ or TQ leaves as it was, whatever becomes of it: A and L registers, other cores,
stacks, beads, stewards, partitions, ports, objects, commits and the link; and every byte of memory outside what it stores to. -/
def Obligations.ComputeInstructionsTouchOnlyTheirCore : Prop :=
  ∀ r, r ∈ computeRows → ∀ s t u, exec (r.1 t) s = .next u →
    (∀ x, x ≠ t → getCore u x = getCore s x) ∧ (getCore u t).a = (getCore s t).a ∧ (getCore u t).l = (getCore s t).l ∧
    (getCore u t).pend = (getCore s t).pend ∧ (getCore u t).issued = (getCore s t).issued ∧
    u.beads = s.beads ∧ u.stewards = s.stewards ∧ u.parts = s.parts ∧ u.ports = s.ports ∧ u.objs = s.objs ∧ u.staged = s.staged ∧
    u.commit = s.commit ∧ u.boot = s.boot ∧ u.now = s.now ∧ u.cad = s.cad ∧ u.power = s.power ∧ u.link = s.link ∧ u.cache = s.cache ∧
    (∀ n, (getStack u n).engines = (getStack s n).engines) ∧
    (∀ e, (queueOf (getCore s t) r.2).head? = some e → ∀ a,
      (∀ g, g ∈ storedTo e → a < spadBase t + g.1 ∨ spadBase t + g.1 + g.2 ≤ a) → rawByte u a = rawByte s a) ∧
    ((queueOf (getCore s t) r.2).head? = none → u = s)

/-! ### Transfers and cache maintenance (05, 08) -/

/-- R115–R136: XLD and XST of one row of whole-byte elements between host memory and the core's scratchpad, the link up and the
regulator open, copy every byte and complete; a valid signal of XST is applied after. -/
def Obligations.TransfersCopyBetweenHostMemoryAndScratchpad : Prop :=
  (∀ s s1 t e x d n w src (off : Nat), AtHead s t 3 0xA0 e → e.desc = none → accessHeld s (descAddr e) 128 = false →
    (startXfer t true e).run s = .ok (x, d) s1 → PlainRow x n w src ((spadBase t + off : Nat) : Int) →
    0 < n → (0x8000000000000 : Int) ≤ src → src + n * w ≤ 2 ^ 52 → accessHeld s1 src.toNat (n * w) = false → regOpen s1 (kernelPart s t) .hostLink = true →
    RawSound s1 src.toNat (n * w) →
    ∃ u, exec (.xld t) s = .next u ∧ (∀ b, b < n * w → rawByte u (spadBase t + off + b) = rawByte s1 (src.toNat + b)) ∧
      sGet 0 (getCore u t).completed 3 = sGet 0 (getCore s t).completed 3 + 1) ∧
  (∀ s s1 t e x d n w dst (off : Nat), AtHead s t 4 0xA8 e → e.desc = none → accessHeld s (descAddr e) 128 = false →
    (startXfer t false e).run s = .ok (x, d) s1 → PlainRow x n w ((spadBase t + off : Nat) : Int) dst →
    0 < n → (0x8000000000000 : Int) ≤ dst → dst + n * w ≤ 2 ^ 52 → accessHeld s1 dst.toNat (n * w) = false → regOpen s1 (kernelPart s t) .hostLink = true →
    SpadSound s1 t off (n * w) →
    ∃ u, exec (.xst t) s = .next u ∧ (∀ b, b < n * w → rawByte u (dst.toNat + b) = rawByte s1 (spadBase t + off + b)) ∧
      sGet 0 (getCore u t).completed 4 = sGet 0 (getCore s t).completed 4 + 1 ∧
      (wf' e.word 88 88 = 0 → sigValid x.signal = true → BeadSound s1 (sigDie x.signal) (sigBead x.signal) →
        beadOwned s (kernelPart s t) (sigDie x.signal) (sigBead x.signal) = true →
        (getBead u (sigDie x.signal) (sigBead x.signal)).value =
          (getBead s (sigDie x.signal) (sigBead x.signal)).value + BitVec.ofNat 32 (sigInc x.signal)))

/-- 08 R215–R217: INVAL drops, WB cleans and WBINV cleans and drops every cached line that its range touches, and no other line; WB and
WBINV write the dirty ones to memory first, and apply their signal after. Memory outside the lines of the range is as it was. The host holds
no copy of a line of the range, no dirty line of it lies in a tripped stack, and the cache is in its canonical form (which every step
keeps). -/
def Obligations.MaintenanceActsOnTheLinesOfItsRange : Prop :=
  ∀ s t q op e a n, AtHead s t q op e → capA e (wf' e.word 115 111) % 2 ^ 52 = a → capA e (wf' e.word 110 106) = n → 0 < n →
    absentIn s a (a + n) = none → isCached a = true → firstOutside s a (a + n) = none → fenced s (kernelPart s t) a n = false →
    s.memWf → (s.link.level = 3 → ∀ h, h ∈ s.link.tracked → inMaint (a, n) (h / 128) = false) → (op ≠ 0xB0 → maintReady s e = true) →
    ∀ row, (row, q, op) ∈ ([(.inval, 3, 0xB0), (.wb, 4, 0xB8), (.wbinv, 4, 0xB9)] : List ((Nat → Instr) × Nat × Nat)) →
      ∃ u, exec (row t) s = .next u ∧
      (∀ k, a / 128 ≤ k → k * 128 < a + n → lineOf u (128 * k) =
        if op = 0xB8 then (lineOf s (128 * k)).map (fun l => { l with dirty := false }) else none) ∧
      (∀ k, k < a / 128 ∨ a + n ≤ k * 128 → lineOf u (128 * k) = lineOf s (128 * k)) ∧
      (∀ k b, k < a / 128 ∨ a + n ≤ k * 128 → b < 128 → rawByte u (128 * k + b) = rawByte s (128 * k + b)) ∧
      (op ≠ 0xB0 → ∀ k l b, a / 128 ≤ k → k * 128 < a + n → lineOf s (128 * k) = some l → b < 128 →
        rawByte u (128 * k + b) =
          if l.dirty = true ∧ channelDown s (128 * k) = false then l.data.getD b 0 else rawByte s (128 * k + b)) ∧
      (op = 0xB0 ∨ wf' e.word 105 105 = 0 → u.beads = s.beads) ∧
      (op ≠ 0xB0 → wf' e.word 105 105 = 1 → ∀ w, w = BitVec.ofNat 32 (capA e (wf' e.word 104 100)) → sigValid w = true →
        BeadSound s (sigDie w) (sigBead w) → beadOwned s (kernelPart s t) (sigDie w) (sigBead w) = true →
        (getBead u (sigDie w) (sigBead w)).value = (getBead s (sigDie w) (sigBead w)).value + BitVec.ofNat 32 (sigInc w)) ∧
      sGet 0 (getCore u t).completed q = sGet 0 (getCore s t).completed q + 1

/-! ### Beads, watches, lending, reckoning (09) -/

/-- R231–R233, R236, R237, R239: BADD adds modulo 2^32 and keeps the poison bit, BSET sets and clears it, BRD stores both, and no
other bead changes. -/
def Obligations.BeadInstructionsUpdateTheirBead : Prop :=
  (∀ s t e d n, BeadHead s t 0xC0 e d n → ∃ u, exec (.badd t) s = .next u ∧
    getBead u d n = ⟨(getBead s d n).value + xqOperand e, (getBead s d n).poison⟩ ∧
    (∀ d' n', d' * 4096 + n' ≠ d * 4096 + n → getBead u d' n' = getBead s d' n') ∧ u.mem = s.mem ∧
    (∀ w, w ∈ u.watches ↔ w ∈ s.watches ∧ ¬(w.die = d ∧ w.bead = n ∧ watchHolds w.cond (getBead u d n).value w.value = true))) ∧
  (∀ s t e d n, BeadHead s t 0xC1 e d n → ∃ u, exec (.bset t) s = .next u ∧ getBead u d n = ⟨xqOperand e, false⟩ ∧
    (∀ d' n', d' * 4096 + n' ≠ d * 4096 + n → getBead u d' n' = getBead s d' n') ∧ u.mem = s.mem ∧
    (∀ w, w ∈ u.watches ↔ w ∈ s.watches ∧ ¬(w.die = d ∧ w.bead = n ∧ watchHolds w.cond (getBead u d n).value w.value = true))) ∧
  (∀ s t e d n, BeadHead s t 0xC9 e d n → SpadFits (spadOff e (wf' e.word 92 88)) 64 →
    exec (.brd t) s = .next (headDone s.now t 5 (spadPutBytes s t (spadOff e (wf' e.word 92 88))
      (natLe 4 (getBead s d n).value.toNat ++ [if (getBead s d n).poison then 1 else 0] ++ List.replicate 59 0))))

/-- R238–R242: a BWAIT whose condition holds sends its message at once, another leaves its watch pending; either stays at the head;
its message completes it, or goes out to a steward; a watch past its time is answered with status 1. -/
def Obligations.WatchesAreRegisteredAnsweredAndTimedOut : Prop :=
  (∀ s t e d n, BeadHead s t 0xC8 e d n → e.started = false → ∃ u, exec (.bwait t) s = .next u ∧
    (queueOf (getCore u t) 5).head? = some { e with started := true } ∧
    (if watchHolds (wf' e.word 98 97) (getBead s d n).value (xqOperand e) = true then
      u.watches = s.watches ∧ u.msgs.length = s.msgs.length + 1 ∧
        (∀ m, u.msgs.getLast? = some m → m.target = .xq t ∧ m.status = 0 ∧ m.value = (getBead s d n).value ∧ m.stamp = s.now)
     else u.msgs = s.msgs ∧ u.watches = s.watches ++ [watchOf e t s.now])) ∧
  (∀ s t e m, AtHead s t 5 0xC8 e → e.started = true → s.msgs.find? (fun x => x.target == .xq t) = some m → m.held = false →
    m.status = 0 → (m.poison = false ∨ wf' e.word 87 87 = 1) →
    exec (.watchMessage (.xq t)) s = .next (headDone s.now t 5 (emit { s with msgs := s.msgs.erase m } (.watch (.xq t) (messageBytes m))))) ∧
  (∀ s i m, s.msgs.find? (fun x => x.target == .steward i) = some m → m.held = false →
    exec (.watchMessage (.steward i)) s = .next (emit { s with msgs := s.msgs.erase m } (.watch (.steward i) (messageBytes m)))) ∧
  (∀ s die w, s.watches.find? (fun x => x.die == die && x.timeout != 0 && decide (x.reg + x.timeout ≤ s.now)) = some w → s.order ≤ 3 →
    ∃ u, exec (.watchTimeout die) s = .next u ∧ u.watches = s.watches.erase w ∧ u.order = 3 ∧ u.msgs.length = s.msgs.length + 1 ∧
      (∀ m, u.msgs.getLast? = some m → m.target = w.target ∧ m.status = 1 ∧ m.stamp = s.now))

/-- 09 R244–R248, 10 R274: a core whose BWAIT has waited past the threshold lends its budget but for its clock-gated draw, in equal parts to
the cores of its partition that take it, and is counted; a lent core that has a held message gets its share back, and the message is
released, marked as reclaimed. At a boundary where a period has passed, the partition's pairs are reckoned in list order; a pair of the
partition's own beads within its limit has both beads, and the watches on them, lowered by the consumer's value, and one outside it is
counted, reported and contained. That a pair outside the range is left as it is, is the model's choice (log entry 89). -/
def Obligations.LendingAndReckoningTakeTheirEffect : Prop :=
  (∀ s t p e since u, isReady s = true → corePresent s t = true → (getCore s t).lent = false → ownerOfCore s t = some p →
    waiting (getCore s t) = true → (queueOf (getCore s t) 5).head? = some e → e.since = some since → objNat s 0x2040 1 ≠ 0 →
    since + objNat s 0x2040 1 < s.now → u < 64 → u ≠ t → ownerOfCore s u = some p → (getCore s u).lent = false →
    waiting (getCore s u) = false → (∀ q, q < 5 → queueIdle (getCore s t) q = true) → (∃ w, w ∈ s.watches ∧ w.target = .xq t) →
    ∃ v, v = bump (updCore s t (fun c => { c with lent := true, lends := c.lends + 1 })) (0x3000 + p) 0x12 1 ∧ exec (.lend t) s = .next v ∧
      ((∀ y, y ∈ coresOf s p → (getCore s y).lent = false) → t < 64 → ∀ x, x ∈ takers v p →
        coreBudgetOf v t = min (getCore s t).share s.power.gatedDraw ∧
        coreBudgetOf v x = (getCore s x).share + ((getCore s t).share - s.power.gatedDraw) / (takers v p).length)) ∧
  (∀ s t m, (getCore s t).lent = true → m ∈ s.msgs → m.target = .xq t → m.held = true → ∃ u, exec (.lendReclaim t) s = .next u ∧
    (getCore u t).lent = false ∧
    (∀ p, ownerOfCore s t = some p → (∀ y, y ∈ coresOf s p → y ≠ t → (getCore s y).lent = false) →
      coreBudgetOf u t = (getCore s t).share) ∧
    (∀ x, x ∈ u.msgs → x.target = .xq t → x.held = false ∧ x.reclaimed = true) ∧
    u.msgs.length = s.msgs.length ∧ u.beads = s.beads) ∧
  (∀ s p, isReady s = true → p < 16 → objNat s 0x3010 4 ≠ 0 →
    (getPart s p).reckoned / objNat s 0x3010 4 < s.now / objNat s 0x3010 4 → (getPart s p).flight = none → s.order < partPlace p 1 →
    ∀ s0, commitsUpTo s p = s0 →
    exec (.reckoning p) s = .next (atPlace (updPart ((pairsOf s0 p).foldl (fun x y => reckonPair x p y) s0) p
      (fun x => { x with reckoned := s.now })) (partPlace p 1))) ∧
  (∀ s p x v c d, beadOwned s p x.producer.1 x.producer.2 = true → beadOwned s p x.consumer.1 x.consumer.2 = true →
    BeadSound s x.producer.1 x.producer.2 → BeadSound s x.consumer.1 x.consumer.2 →
    x.producer.1 * 4096 + x.producer.2 ≠ x.consumer.1 * 4096 + x.consumer.2 →
    getBead s x.producer.1 x.producer.2 = v → getBead s x.consumer.1 x.consumer.2 = c → v.value - c.value = d →
    (0 ≤ d.toInt → (x.limit = 0 ∨ d.toNat ≤ x.limit) →
      getBead (reckonPair s p x) x.producer.1 x.producer.2 = ⟨d, v.poison⟩ ∧
      getBead (reckonPair s p x) x.consumer.1 x.consumer.2 = ⟨0, c.poison⟩ ∧
      (reckonPair s p x).watches = s.watches.map (loweredWatch x c.value) ∧ (reckonPair s p x).msgs = s.msgs) ∧
    (d.toInt < 0 ∨ (x.limit ≠ 0 ∧ x.limit < d.toNat) →
      reckonPair s p x = contain (reportDrift (bump s (0x3000 + p) 0x11 1) p x v.value c.value) p none 4 0x0504))

/-! ### The stream vector unit (04 R110–R114, R540) -/

/-- R110–R112, 02 R34: the elementwise streams; and of every stream, a count above 16,777,216 faults with SVU_COUNT and writes nothing, and a
count of 0 has no effect. -/
def Obligations.ElementwiseStreamsWriteTheirResults : Prop :=
  (∀ r, r ∈ svuRows → ∀ s i b, isReady s = true → stewardPresent s i = true → bytesAt b 0 1 = r.2 →
    (16777216 < bytesAt b 4 4 % 2 ^ 25 → exec (r.1 i b) s = .next (svuFault s i 0x020A none)) ∧
    (bytesAt b 4 4 % 2 ^ 25 = 0 → exec (r.1 i b) s = .next s)) ∧
  SvuWrites .svuAdd 0x01 arithOk wholeSrc wholeSrc dBytes SvuCmd.count (twoOut (fun _ a b => (numAdd a b, opFlags [a, b] (numAdd a b)))) ∧
  SvuWrites .svuMul 0x02 (fun c => arithOk c ∧ c.src2 = 0) wholeSrc noSrc dBytes SvuCmd.count (oneOut (fun c _ a =>
    (numMul a (scalarOf c), opFlags [a, scalarOf c] (numMul a (scalarOf c))))) ∧
  SvuWrites .svuMul 0x02 (fun c => arithOk c ∧ c.src2 ≠ 0) wholeSrc wholeSrc dBytes SvuCmd.count (twoOut (fun _ a b =>
    (numMul a b, opFlags [a, b] (numMul a b)))) ∧
  SvuWrites .svuFma 0x03 arithOk wholeSrc wholeSrc dBytes SvuCmd.count (twoOut (fun c a b =>
    (numAdd (numMul a (scalarOf c)) b, flagsOr (opFlags [a, scalarOf c] (numMul a (scalarOf c)))
      (opFlags [numMul a (scalarOf c), b] (numAdd (numMul a (scalarOf c)) b))))) ∧
  SvuWrites .svuMin 0x04 bothWhole wholeSrc wholeSrc dBytes SvuCmd.count (twoOut (fun _ a b => (numMin a b, noFlags))) ∧
  SvuWrites .svuMax 0x05 bothWhole wholeSrc wholeSrc dBytes SvuCmd.count (twoOut (fun _ a b => (numMax a b, noFlags))) ∧
  SvuWrites .svuCmp 0x06 srcWhole wholeSrc wholeSrc SvuCmd.count (fun _ => 0) (fun c _ x y =>
    ((List.range c.count).map (fun k => if condHolds c.cond (x.val k) (y.val k) then 1#8 else 0#8),
     gather ((List.range c.count).map (fun k => flagsOr (x.flags k) (y.flags k))))) ∧
  SvuWrites .svuSel 0x07 bothWhole wholeSrc (fun c => (8, c.count)) dBytes (fun _ => 0) (fun c _ x y =>
    rounded c false (fun _ => .rne) (fun k => (if y.bits.getD k 0 ≠ 0 then x.val k else scalarOf c, x.flags k))) ∧
  SvuWrites .svuCvt 0x08 (fun c => (c.rnd = true → c.sfmt = 0) ∧ bothWhole c) wholeSrc noSrc dBytes (fun _ => 0) (fun c _ x _ =>
    rounded c c.sat (cvtRnd c.rnd c.key.toNat c.base.toNat) (fun k => (x.val k, x.flags k))) ∧
  SvuWrites .svuExp2 0x09 arithOk wholeSrc noSrc dBytes SvuCmd.count (oneOut (fun _ n a => (num32 (exp2Op n a).1, (exp2Op n a).2))) ∧
  SvuWrites .svuLog2 0x0A arithOk wholeSrc noSrc dBytes SvuCmd.count (oneOut (fun _ n a => (num32 (log2Op n a).1, (log2Op n a).2))) ∧
  SvuWrites .svuRcp 0x0B arithOk wholeSrc noSrc dBytes SvuCmd.count (oneOut (fun _ n a => (num32 (rcpOp n a).1, (rcpOp n a).2))) ∧
  SvuWrites .svuRsqrt 0x0C arithOk wholeSrc noSrc dBytes SvuCmd.count (oneOut (fun _ n a => (num32 (rsqrtOp n a).1, (rsqrtOp n a).2)))

/-- R104, R105, R112: the reductions of a stream to one entry. -/
def Obligations.StreamReductionsWriteOneEntry : Prop :=
  SvuWrites .svuSum 0x10 srcWhole wholeSrc noSrc (fun _ => 8) (fun c => c.count + 1) (foldOut (fun _ => sumRow)) ∧
  SvuWrites .svuSumsq 0x11 srcWhole wholeSrc noSrc (fun _ => 8) (fun c => c.count + 1) (foldOut (fun _ => sumsqRow)) ∧
  SvuWrites .svuReduceMax 0x12 srcWhole wholeSrc noSrc (fun _ => 8) (fun c => c.count + 1) (foldOut (fun _ _ l => extremeRow true l)) ∧
  SvuWrites .svuReduceMin 0x13 srcWhole wholeSrc noSrc (fun _ => 8) (fun c => c.count + 1) (foldOut (fun _ _ l => extremeRow false l)) ∧
  SvuWrites .svuArgmax 0x14 srcWhole wholeSrc noSrc (fun _ => 8) (fun c => c.count + 1)
    (foldOut (fun _ _ l => argRow true 0 (indexed l))) ∧
  SvuWrites .svuArgmin 0x15 srcWhole wholeSrc noSrc (fun _ => 8) (fun c => c.count + 1)
    (foldOut (fun _ _ l => argRow false 0 (indexed l))) ∧
  SvuWrites .svuRowstat 0x16 srcWhole wholeSrc noSrc (fun _ => 8) (fun c => c.count + 1) (foldOut (fun c n l => rowstat n (scalarOf c) l))

/-- R112–R114, R540: random draws, ranking and sampling. -/
def Obligations.StreamSelectionsWriteTheirChoice : Prop :=
  SvuWrites .svuRand 0x20 (fun _ => True) noSrc noSrc (fun c => 4 * c.count) (fun _ => 0) (fun c _ _ _ =>
    ((List.range c.count).flatMap (fun k => natLe 4 (uniform32 c.key.toNat c.base.toNat k).toNat), noFlags)) ∧
  (∀ r, r ∈ ([(.svuTopk, 0x21, fun c => c.k, fun c => 1 ≤ c.k ∧ c.k ≤ 1024), (.svuSort, 0x24, fun c => c.count, fun _ => True)] :
      List ((Nat → List Byte → Instr) × Nat × (SvuCmd → Nat) × (SvuCmd → Prop))) →
    SvuWrites r.1 r.2.1 (fun c => r.2.2.2 c ∧ srcWhole c) wholeSrc noSrc (fun c => 8 * min (r.2.2.1 c) c.count) (fun _ => 0) (fun c _ x _ =>
      (((ranked x.vals).take (r.2.2.1 c)).flatMap (fun y => natLe 4 (round32 y.2).toNat ++ natLe 4 y.1), srcFlags x))) ∧
  (∀ s i b c b1 b2 r1 r2 (op : Nat), SvuRuns s i op b c (8 * c.count) 0 4 0 b1 b2 r1 r2 →
    ∀ val idx : Nat → Nat, (∀ k, val k = elemAt 32 b1 (2 * k)) → (∀ k, idx k = elemAt 32 b1 (2 * k + 1)) →
    ∀ sums, (runningSums ((List.range c.count).map (fun k => BitVec.ofNat 32 (val k)))).1 = sums →
    (op = 0x22 → ∃ n fl, exec (.svuTopp i b) s = .next (streamed i c (natLe 4 n, fl) r2) ∧ 1 ≤ n ∧ n ≤ c.count ∧
      (∀ k, k + 1 < n → condHolds 5 (num32 (sums.getD k 0)) (rnd32 (numMul (scalarOf c) (num32 (sums.getLastD 0)))) = false) ∧
      (n < c.count → condHolds 5 (num32 (sums.getD (n - 1) 0)) (rnd32 (numMul (scalarOf c) (num32 (sums.getLastD 0)))) = true)) ∧
    (op = 0x23 → ∃ k fl, exec (.svuSample i b) s = .next (streamed i c (natLe 4 (idx k), fl) r2) ∧ k < c.count ∧
      (∀ j, j < k → condHolds 4 (num32 (sums.getD j 0))
        (rnd32 (numMul (num32 (uniform32 c.key.toNat c.base.toNat 0)) (num32 (sums.getLastD 0)))) = false) ∧
      (k + 1 < c.count → condHolds 4 (num32 (sums.getD k 0))
        (rnd32 (numMul (num32 (uniform32 c.key.toNat c.base.toNat 0)) (num32 (sums.getLastD 0)))) = true)))

namespace Sys2Proof.Says

/-! ### Bank engines -/

/-- Engine `q` of stack `n` runs and its next instruction is the legal word `w` of opcode `op`; its channel works and no error of its
memories or arrays waits. -/
structure EngineAt (s : State) (n q op : Nat) (w : W64) : Prop where
  ready : isReady s = true
  present : stackPresent s n = true
  inside : q < engineCount (getStack s n)
  running : (getEngine (getStack s n) q).running = true
  channel : bitAt (getStack s n).failing (chanOfBank (getStack s n) q) = false
  pc : (getEngine (getStack s n) q).pc < 512
  ecc : (getEngine (getStack s n) q).ecc = false
  parity : (getEngine (getStack s n) q).arrErr = []
  word : sGet 0 (getEngine (getStack s n) q).pm (getEngine (getStack s n) q).pc = w
  legal : engineLegal w = true
  opcode : fld w.toNat 63 56 = op

/-- An engine row completes: the engine becomes what `f` makes of it and goes on to the index that `next` gives. -/
def EngineDoes (row : Nat → Nat → Instr) (op : Nat) (ok : Engine → W64 → Prop) (f : W64 → Engine → Engine) (next : W64 → Engine → Nat) :
    Prop :=
  ∀ s n q w, EngineAt s n q op w → ok (getEngine (getStack s n) q) w →
    exec (row n q) s = .next (updEngine s n q (fun e => eAdvance (f w e) (next w e)))

/-- An integer row: `d` takes `f s1 s2 imm` (R172). -/
def EngineWrites (row : Nat → Nat → Instr) (op : Nat) (f : W32 → W32 → W32 → W32) : Prop :=
  EngineDoes row op (fun _ _ => True)
    (fun w e => { e with g := sSet 0 e.g (ew w 55 52) (f (eReg e (ew w 51 48)) (eReg e (ew w 47 44)) (BitVec.ofNat 32 (ew w 31 0))) })
    (fun _ e => e.pc + 1)

/-- A local access is aligned and within data memory (R174). -/
def Local (a align size : Nat) : Prop := a % align = 0 ∧ a + size ≤ 12288

/-- The accumulator of an engine has no products waiting in lanes `first` to `first + n - 1`. -/
def Settled (e : Engine) (acc first n : Nat) : Prop := ∀ l, l < n → hasProducts e (256 * acc + first + l) = false

/-- The rows of the bank engines' instructions. -/
def engineRows : List (Nat → Nat → Instr) :=
  [.beMov, .beMovi, .beAdd, .beAddi, .beSub, .beAnd, .beAndi, .beOr, .beOri, .beShl, .beShli, .beShr, .beShri, .beNop, .beLoop,
   .ldw, .stw, .astl, .aldl, .wst, .wld, .ropen, .crd, .zsk, .mac, .fold, .beAclr, .push, .halt]

/-- A stack's sequencer has nothing to do. -/
def SequencerIdle (s : State) (n : Nat) : Prop :=
  (getStack s n).launch = none ∧ (getStack s n).ready = none ∧ (getStack s n).seq = [] ∧ (getStack s n).reload = []

/-- The state as an idle sequencer has taken up an order of partition `p`: the partition no longer rests, and nothing waits. -/
def taken (s : State) (n p : Nat) : State :=
  readWord wPartition (updStack (stir s p) n (fun k => { k with seq := [], reload := [] }))

/-- A program load passes its checks (R185, R186): the image at `image` lies where the partition may have it, its header `h` keeps the format,
the engines exist, and it reads as `img` without poison. -/
structure LoadOk (x : State) (n q0 q1 image p : Nat) (h img : List Byte) (y z : State) : Prop where
  engines : stackPresent x n = true ∧ hasEngines x = true
  place : imagePlace x p image 32 = true
  header : unitRead x image 32 = (y, h, false)
  format : bytesAt h 0 4 = 0x314B4E42 ∧ bytesAt h 4 2 = 1 ∧ 0 < bytesAt h 8 2 ∧ bytesAt h 6 2 + bytesAt h 8 2 ≤ 512 ∧
    bytesAt h 10 2 % 4 = 0 ∧ bytesAt h 12 2 % 4 = 0 ∧ bytesAt h 12 2 + bytesAt h 10 2 ≤ 12288
  whole : imagePlace y p image (32 + 8 * bytesAt h 8 2 + bytesAt h 10 2) = true
  range : q0 ≤ q1 ∧ q1 < engineCount (getStack y n)
  read : unitRead y image (32 + 8 * bytesAt h 8 2 + bytesAt h 10 2) = (z, img, false)
  same : img.take 32 = h ∧ img.length = 32 + 8 * bytesAt h 8 2 + bytesAt h 10 2

/-- A launch passes the checks of R188, and its group table reads as `gs`. -/
structure LaunchOk (x : State) (r : LaunchRec) (gs : List Group) (y : State) : Prop where
  engines : stackPresent x r.stack = true ∧ hasEngines x = true
  range : r.q0 ≤ r.q1 ∧ r.q1 < engineCount (getStack x r.stack)
  fields : r.entry < 512 ∧ r.xoff + r.vlen ≤ 2048 ∧ 0 < r.kwrap ∧ r.vfmt ∈ [1, 3, 4, 8] ∧ r.ngroups ≤ 256
  table : r.ngroups ≠ 0 → r.groups % 32 = 0 ∧ imagePlace x r.partition r.groups (32 * r.ngroups) = true
  read : ∃ b, unitRead x r.groups (32 * r.ngroups) = (y, b, false) ∧
    gs = (List.range r.ngroups).map (fun i => parseGroup (b.drop (32 * i)))
  dests : ∀ g, g ∈ gs → groupOk y r.partition g = true
  source : r.vec ≠ 0 → r.vlen ≠ 0 → ∀ j, j < vecSlices r → fenced y r.partition (sliceAddr r j) (r.vlen * vecBytes r) = false

/-- What a load of an image makes of an engine (R185): its entries and its bytes of data, and no other. -/
structure Loaded (img : List Byte) (e f : Engine) : Prop where
  rest : f = { e with pm := f.pm, dm := f.dm, dmPoison := f.dmPoison }
  program : ∀ i, sGet 0 f.pm i =
    if bytesAt img 6 2 ≤ i ∧ i < bytesAt img 6 2 + bytesAt img 8 2 then BitVec.ofNat 64 (bytesAt img (32 + 8 * (i - bytesAt img 6 2)) 8)
    else sGet 0 e.pm i
  data : ∀ a, sGet 0 f.dm a =
    if bytesAt img 12 2 ≤ a ∧ a < bytesAt img 12 2 + bytesAt img 10 2 then
      img.getD (32 + 8 * bytesAt img 8 2 + (a - bytesAt img 12 2)) 0
    else sGet 0 e.dm a

/-- The bytes that a SUM or MAX group writes (R195), in ascending order of the pushing engines. -/
def groupBytes (g : Group) (got : List Push) : List Byte :=
  (List.range g.width).flatMap (reducedLane g (got.foldl (fun l p => insertPush p l) []))

/-- A sensor event of a stack is heard: the device serves, the stack is present, and the device is not in stops 4 or 5. -/
def StackHears (s : State) (n : Nat) : Prop := isReady s = true ∧ stackPresent s n = true ∧ s.power.stop < 4

end Sys2Proof.Says

/-! ### Bank engines (07) -/

/-- R169–R172: the fourteen integer instructions of a bank engine. -/
def Obligations.EngineIntegerInstructionsWriteTheirResult : Prop :=
  EngineWrites .beMov 0x01 (fun a _ _ => a) ∧ EngineWrites .beMovi 0x02 (fun _ _ i => i) ∧
  EngineWrites .beAdd 0x03 (fun a b _ => a + b) ∧ EngineWrites .beAddi 0x04 (fun a _ i => a + i) ∧
  EngineWrites .beSub 0x05 (fun a b _ => a - b) ∧ EngineWrites .beAnd 0x06 (fun a b _ => a &&& b) ∧
  EngineWrites .beAndi 0x07 (fun a _ i => a &&& i) ∧ EngineWrites .beOr 0x08 (fun a b _ => a ||| b) ∧
  EngineWrites .beOri 0x09 (fun a _ i => a ||| i) ∧ EngineWrites .beShl 0x0A (fun a b _ => a <<< (b.toNat % 32)) ∧
  EngineWrites .beShli 0x0B (fun a _ i => a <<< (i.toNat % 32)) ∧ EngineWrites .beShr 0x0C (fun a b _ => a >>> (b.toNat % 32)) ∧
  EngineWrites .beShri 0x0D (fun a _ i => a >>> (i.toNat % 32)) ∧
  EngineDoes .beNop 0x0E (fun _ _ => True) (fun _ e => e) (fun _ e => e.pc + 1)

/-- R173, R177: LOOP enters its body or skips it when its count is 0; ZSK sets the line-enable bits from Z, moves its base on, and
skips when every line is zero. -/
def Obligations.EngineLoopAndSkip : Prop :=
  (∀ body, 0 < body → EngineDoes .beLoop 0x40
    (fun e w => ew w 47 40 = body ∧ e.loops.length < 4 ∧ e.pc + 1 + body ≤ 512 ∧ (∀ f, e.loops.head? = some f → e.pc + 1 + body ≤ f.last))
    (fun w e => if eReg e (ew w 51 48) = 0 then e
      else
        let frame : LoopFrame := { first := e.pc + 1, last := e.pc + 1 + body, left := (eReg e (ew w 51 48)).toNat, iter := 0 }
        { e with loops := frame :: e.loops })
    (fun w e => if eReg e (ew w 51 48) = 0 then e.pc + 1 + body else e.pc + 1)) ∧
  (∀ s n q w i0 cnt, EngineAt s n q 0x38 w → (eReg (getEngine (getStack s n) q) (ew w 55 52)).toNat = i0 → ew w 51 47 + 1 = cnt →
    i0 + cnt ≤ 2048 → ∀ allZero, (List.range cnt).all (fun l => sGet false (getEngine (getStack s n) q).z (i0 + l)) = allZero →
    (allZero = true → ew w 46 43 ≠ 0 → (getEngine (getStack s n) q).pc + 1 + ew w 46 43 ≤
      (match (getEngine (getStack s n) q).loops with | f :: _ => f.last | [] => 512)) →
    ∃ u, exec (.zsk n q) s = .next u ∧
      (∀ l, l < 32 → bitAt (getEngine (getStack u n) q).le.toNat l =
        (decide (l < cnt) && !sGet false (getEngine (getStack s n) q).z (i0 + l))) ∧
      eReg (getEngine (getStack u n) q) (ew w 55 52) = (if ew w 42 42 = 1 then BitVec.ofNat 32 (i0 + cnt) else BitVec.ofNat 32 i0) ∧
      (getEngine (getStack u n) q).pc =
        (nextIndex (getEngine (getStack s n) q).loops ((getEngine (getStack s n) q).pc + 1 + (if allZero then ew w 46 43 else 0))).2)

/-- R174: the loads and stores of local memory, with the poison that each word or slot carries. -/
def Obligations.EngineLocalMemoryInstructions : Prop :=
  EngineDoes .ldw 0x10 (fun e w => Local (eAddr e w) 4 4 ∧ sGet false e.dmPoison (eAddr e w / 4) = false)
    (fun w e => { e with g := sSet 0 e.g (ew w 55 52) (BitVec.ofNat 32 (leNat (sGetMany 0 e.dm (eAddr e w) 4))) })
    (fun _ e => e.pc + 1) ∧
  EngineDoes .stw 0x11 (fun e w => Local (eAddr e w) 4 4)
    (fun w e => { e with dm := sSetMany 0 e.dm (eAddr e w) (natLe 4 (eReg e (ew w 47 44)).toNat),
                         dmPoison := sSet false e.dmPoison (eAddr e w / 4) false })
    (fun _ e => e.pc + 1) ∧
  EngineDoes .astl 0x12 (fun e w => Local (eAddr e w) 64 1024 ∧ Settled e (ew w 55 54) 0 256)
    (fun w e => { e with
      dm := sSetMany 0 e.dm (eAddr e w) ((sGetMany 0 e.acc (256 * ew w 55 54) 256).flatMap (fun v => natLe 4 v.toNat)),
      dmPoison := sSetMany false e.dmPoison (eAddr e w / 4) (sGetMany false e.accPoison (256 * ew w 55 54) 256) })
    (fun _ e => e.pc + 1) ∧
  EngineDoes .aldl 0x13 (fun e w => Local (eAddr e w) 64 1024)
    (fun w e => { e with
      acc := sSetMany 0 e.acc (256 * ew w 55 54)
        ((List.range 256).map (fun l => BitVec.ofNat 32 (leNat (sGetMany 0 e.dm (eAddr e w + 4 * l) 4)))),
      accPoison := sSetMany false e.accPoison (256 * ew w 55 54) (sGetMany false e.dmPoison (eAddr e w / 4) 256),
      stage := sDropRange e.stage (256 * ew w 55 54) (256 * ew w 55 54 + 256) })
    (fun _ e => e.pc + 1) ∧
  EngineDoes .wst 0x14 (fun e w => Local (eAddr e w) 32 (32 * (ew w 38 34 + 1)) ∧ ew w 43 39 + (ew w 38 34 + 1) ≤ 32)
    (fun w e => { e with
      dm := sSetMany 0 e.dm (eAddr e w) (sGetMany 0 e.w (32 * ew w 43 39) (32 * (ew w 38 34 + 1))),
      dmPoison := sSetMany false e.dmPoison (eAddr e w / 4)
        ((List.range (8 * (ew w 38 34 + 1))).map (fun i => sGet false e.wPoison (ew w 43 39 + i / 8))) })
    (fun _ e => e.pc + 1) ∧
  EngineDoes .wld 0x15 (fun e w => Local (eAddr e w) 32 (32 * (ew w 38 34 + 1)) ∧ ew w 43 39 + (ew w 38 34 + 1) ≤ 32)
    (fun w e => { e with
      w := sSetMany 0 e.w (32 * ew w 43 39) (sGetMany 0 e.dm (eAddr e w) (32 * (ew w 38 34 + 1))),
      wPoison := sSetMany false e.wPoison (ew w 43 39)
        ((List.range (ew w 38 34 + 1)).map (fun j => (sGetMany false e.dmPoison (eAddr e w / 4 + 8 * j) 8).any id)) })
    (fun _ e => e.pc + 1)

/-- R141, R168, R175, R176: a row of a compute strip of the launch's partition opens; its columns, where nothing in them is poisoned,
wrong or cached, fill the W slots of the enabled lines, and the others count as skipped. -/
def Obligations.EngineRowsOpenAndFillSlots : Prop :=
  (∀ s n q w r, EngineAt s n q 0x20 w → (eReg (getEngine (getStack s n) q) (ew w 51 48)).toNat = r → r ≤ 65535 →
    rowOpen s n (getEngine (getStack s n) q).partition r = true →
    exec (.ropen n q) s = .next (updEngine (readWord wStrips (readWord wPartition s)) n q
      (fun e => eAdvance { e with row := some r } (e.pc + 1)))) ∧
  (∀ s n q w row ws cnt lw lof col, EngineAt s n q 0x21 w → (getEngine (getStack s n) q).row = some row →
    rowOpen s n (getEngine (getStack s n) q).partition row = true → ew w 55 51 = ws → ew w 50 46 + 1 = cnt → 2 ^ ew w 34 33 = lw →
    ew w 31 27 = lof → ew w 45 40 + (if ew w 39 39 = 1 then (eReg (getEngine (getStack s n) q) (ew w 38 35)).toNat else 0) = col →
    col + cnt ≤ 64 → ws + cnt ≤ 32 → cnt % lw = 0 → lof + cnt / lw ≤ 32 →
    ∀ on : Nat → Bool, (∀ j, on j = (ew w 32 32 == 0 || bitAt (getEngine (getStack s n) q).le.toNat (lof + j / lw))) →
    ∀ at' : Nat → Nat, (∀ j, at' j = stackWindow n + bankAddr (getStack s n) q row (32 * (col + j))) →
    (∀ j, j < cnt → on j = true → lineOf s (at' j) = none ∧ granulePoison s (at' j) = false ∧
      s.errs.find? (fun x => x.1 == at' j) = none) →
    ∃ u, exec (.crd n q) s = .next u ∧ u.mem = s.mem ∧
      (∀ slot b, slot < 32 → b < 32 → sGet 0 (getEngine (getStack u n) q).w (32 * slot + b) =
        if ws ≤ slot ∧ slot < ws + cnt ∧ on (slot - ws) = true then rawByte s (at' (slot - ws) + b)
        else sGet 0 (getEngine (getStack s n) q).w (32 * slot + b)) ∧
      (∀ slot, slot < 32 → sGet false (getEngine (getStack u n) q).wPoison slot =
        if ws ≤ slot ∧ slot < ws + cnt ∧ on (slot - ws) = true then false
        else sGet false (getEngine (getStack s n) q).wPoison slot) ∧
      (getEngine (getStack u n) q).cols = (getEngine (getStack s n) q).cols + ((List.range cnt).filter on).length ∧
      (getEngine (getStack u n) q).skipped =
        (getEngine (getStack s n) q).skipped + (cnt - ((List.range cnt).filter on).length))

/-- 02 R42, R43, R178–R181: MAC adds exact products to the block stages of its lanes (OUTER), where a skipped line contributes +0, or one
rounded exact sum a slot to a lane (INNER); FOLD rounds each block into its accumulator lane under its scale; ACLR clears an accumulator. -/
def Obligations.EngineArithmeticAccumulates : Prop :=
  (∀ s n q w m cnt limit inner, EngineAt s n q 0x30 w → macArgs (getEngine (getStack s n) q) w = m →
    macPair m.wfmt (getEngine (getStack s n) q).xfmt = some (cnt, limit, inner) → (m.inner = true → inner = true) →
    m.n % m.lw = 0 → m.ws + m.n ≤ 32 → (m.inner = true → m.useLe = false) → (m.useLe = true → m.lof + m.n / m.lw ≤ 32) →
    (if m.inner then m.lb + m.lof + m.n / m.lw ≤ 256 else m.lb + m.lw * cnt ≤ 256) →
    ∀ act, macLines (getEngine (getStack s n) q) m = act →
    (act ≠ [] → (if m.inner then m.base + m.lw * cnt else m.base + m.lof + act.getLastD 0 + 1) ≤ 2048) →
    (m.inner = false → act ≠ [] → ∀ i, i < m.lw * cnt →
      (sGet { sum := Machine.Num.zero false, count := 0 } (getEngine (getStack s n) q).stage (256 * m.acc + m.lb + i)).count + act.length ≤ limit) →
    ∀ slots, act.flatMap (fun l => (List.range m.lw).map (fun k => (l, k))) = slots →
    ∀ bad, slots.any (fun x => sGet false (getEngine (getStack s n) q).wPoison (m.ws + x.1 * m.lw + x.2)) = bad →
    exec (.mac n q) s = .next (updEngine s n q (fun e =>
      let f := slots.foldl (fun e x => if m.inner then innerSlot m cnt bad e x.1 x.2 else outerSlot m cnt bad e x.1 x.2) e
      eAdvance (if act.length < m.n / m.lw then skipLanes m cnt f else f) (e.pc + 1)))) ∧
  (∀ s n q w acc ws sc, EngineAt s n q 0x31 w → ew w 55 54 = acc → ew w 53 49 = ws → (ew w 48 48 == 1) = sc →
    (sc = true → ∀ l, l < 256 → hasProducts (getEngine (getStack s n) q) (256 * acc + l) = true → ws + l / 32 ≤ 31) →
    ∃ u, exec (.fold n q) s = .next u ∧
      ∀ l, l < 256 → ∀ e0, e0 = getEngine (getStack s n) q →
        sGet 0 (getEngine (getStack u n) q).acc (256 * acc + l) =
          (if hasProducts e0 (256 * acc + l) = true then
            let sum := (sGet { sum := Machine.Num.zero false, count := 0 } e0.stage (256 * acc + l)).sum
            let v := if sc then scaleBy (sGet 0 e0.w (32 * (ws + l / 32) + l % 32)).toNat sum else sum
            round32 (numAdd (num32 (sGet 0 e0.acc (256 * acc + l))) v)
          else sGet 0 e0.acc (256 * acc + l)) ∧
        hasProducts (getEngine (getStack u n) q) (256 * acc + l) = false) ∧
  EngineDoes .beAclr 0x32 (fun _ _ => True)
    (fun w e => { e with acc := sDropRange e.acc (256 * ew w 55 54) (256 * ew w 55 54 + 256),
                         accPoison := sDropRange e.accPoison (256 * ew w 55 54) (256 * ew w 55 54 + 256),
                         stage := sDropRange e.stage (256 * ew w 55 54) (256 * ew w 55 54 + 256) })
    (fun _ e => e.pc + 1)

/-- R183, R184, R195, R196: PUSH hands lanes to a group that takes them; the last of its pushes writes the group, a SUM or MAX in a scratchpad
window as the reduced lanes; HALT ends the run. -/
def Obligations.EnginePushAndHalt : Prop :=
  (∀ s n q w l g slot off cnt first acc, EngineAt s n q 0x48 w → (getStack s n).launch = some l →
    (eReg (getEngine (getStack s n) q) (ew w 37 34)).toNat = slot → (eReg (getEngine (getStack s n) q) (ew w 33 30)).toNat = off →
    ew w 55 54 = acc → ew w 53 46 = first → ew w 45 38 + 1 = cnt → l.groups[slot]? = some g → groupTakes g q off cnt = true →
    first + cnt ≤ 256 → Settled (getEngine (getStack s n) q) acc first cnt → g.got.length + 1 < g.pushes →
    ∀ sent : Push, sent.q = q → sent.off = off →
    sent.lanes = sGetMany 0 (getEngine (getStack s n) q).acc (256 * acc + first) cnt →
    sent.poison = sGetMany false (getEngine (getStack s n) q).accPoison (256 * acc + first) cnt →
    ∃ u l', exec (.push n q) s = .next u ∧ u.mem = s.mem ∧ (getStack u n).launch = some l' ∧
      l'.groups[slot]?.map (fun x => x.got) = some (g.got ++ [sent]) ∧
      (∀ i, i ≠ slot → l'.groups[i]? = l.groups[i]?)) ∧
  (∀ s n q w l g slot off cnt first acc, EngineAt s n q 0x48 w → (getStack s n).launch = some l →
    (eReg (getEngine (getStack s n) q) (ew w 37 34)).toNat = slot → (eReg (getEngine (getStack s n) q) (ew w 33 30)).toNat = off →
    ew w 55 54 = acc → ew w 53 46 = first → ew w 45 38 + 1 = cnt → l.groups[slot]? = some g → groupTakes g q off cnt = true →
    first + cnt ≤ 256 → Settled (getEngine (getStack s n) q) acc first cnt → g.got.length + 1 = g.pushes →
    accessHeld s g.dst (groupSize g) = false →
    ∃ u l' g', exec (.push n q) s = .next u ∧ (getStack u n).launch = some l' ∧ l'.groups[slot]? = some g' ∧ g'.written = true ∧
      g'.got.length = g.pushes ∧ (∀ i, i ≠ slot → l'.groups[i]? = l.groups[i]?) ∧
      (∀ t o, g.op ≤ 1 → g.dst = spadBase t + o → t < 64 → o + groupSize g ≤ spadBytes → corePresent s t = true →
        windowShut s .other g.dst = false → inTransition s g.dst (groupSize g) = false →
        ∀ b, b < groupSize g → rawByte u (g.dst + b) = (groupBytes g g'.got).getD b 0)) ∧
  (∀ s n q w, EngineAt s n q 0x7F w → ∃ u, exec (.halt n q) s = .next u ∧ (getEngine (getStack u n) q).running = false ∧
    (getEngine (getStack u n) q).row = none ∧ (getEngine (getStack u n) q).acc = (getEngine (getStack s n) q).acc ∧
    (∀ l, (getStack s n).launch = some l → ∃ l', (getStack u n).launch = some l' ∧ l'.halted = l.halted + 1))

/-- 07 R167, R168: what an engine instruction leaves as it was, whatever becomes of it: other engines and stacks, cores, objects and
commits; and all of memory but for PUSH, which may write its group (its write is one more stall of an engine whose bank it reaches), and
CRD, which may send back a cached line of the row. -/
def Obligations.EngineInstructionsTouchOnlyTheirEngine : Prop :=
  ∀ row, row ∈ engineRows → ∀ s n q u, exec (row n q) s = .next u →
    (∀ m x, m ≠ n ∨ x ≠ q → getEngine (getStack u m) x =
      { getEngine (getStack s m) x with stallext := (getEngine (getStack u m) x).stallext }) ∧
    (∀ m, (getStack u m).prot = (getStack s m).prot) ∧
    ((∀ a b, row a b ≠ .push a b) → ∀ m x, m ≠ n ∨ x ≠ q → getEngine (getStack u m) x = getEngine (getStack s m) x) ∧
    (getEngine (getStack u n) q).pm = (getEngine (getStack s n) q).pm ∧ u.cores = s.cores ∧ u.stewards = s.stewards ∧ u.objs = s.objs ∧
    u.staged = s.staged ∧ u.commit = s.commit ∧ u.ports = s.ports ∧ u.boot = s.boot ∧ u.now = s.now ∧
    ((∀ a b, row a b ≠ .push a b ∧ row a b ≠ .crd a b) → u.mem = s.mem ∧ u.beads = s.beads ∧ u.parts = s.parts)

/-- R185–R189: an idle sequencer carries a load or a launch out at once, and a busy one keeps it in order; a load that passes its checks
changes the program and data of the engines it names alone, and one for an absent unit is reported; a launch that passes its checks waits
to start, and one that fails them writes its record and starts no engine. Engines that do not run are meant: an access of memory stalls a
running one. -/
def Obligations.SequencersTakeLoadsAndLaunches : Prop :=
  (∀ s n q0 q1 image p h img y z, isReady s = true → SequencerIdle s n → accessHeld s (image % 2 ^ 52) 32 = false →
    LoadOk (taken s n p) n q0 q1 (image % 2 ^ 52) p h img y z →
    ∃ u, exec (.programLoad n q0 q1 image p) s = .next u ∧ (.load q0 q1 (image % 2 ^ 52) p) ∈ (getStack u n).named ∧
      (∀ m q, (getEngine (getStack s m) q).running = false →
        if m = n ∧ q0 ≤ q ∧ q ≤ q1 then Loaded img (getEngine (getStack s m) q) (getEngine (getStack u m) q)
        else getEngine (getStack u m) q = getEngine (getStack s m) q)) ∧
  (∀ s n q0 q1 image p, isReady s = true → stackPresent s n = false ∨ hasEngines s = false →
    exec (.programLoad n q0 q1 image p) s = .next (workFailed s p (stewardOf s p) 0x0001)) ∧
  (∀ s n q0 q1 image p l, isReady s = true → stackPresent s n = true → hasEngines s = true → (getStack s n).launch = some l →
    (getStack s n).reload = [] → exec (.programLoad n q0 q1 image p) s =
      .next (updStack (stir s p) n (fun k => { k with seq := k.seq ++ [.load q0 q1 (image % 2 ^ 52) p] }))) ∧
  (∀ s s1 record sc b r, isReady s = true → stewardPresent s sc = true → accessHeld s (record % 2 ^ 52) 64 = false →
    unitRead (readWord wPartition s) (record % 2 ^ 52) 64 .steward = (s1, b, false) → parseLaunch b sc = r →
    r.record ≠ 0 → r.record % 64 = 0 → stackPresent s r.stack = true → SequencerIdle s1 r.stack → orderHeld s1 (.launch r) = false →
    (∀ gs y, LaunchOk (taken s1 r.stack r.partition) r gs y →
      ∃ u, exec (.launch record sc) s = .next u ∧ (getStack u r.stack).ready = some (newLaunch r gs s.now) ∧
        (∀ m q, (getEngine (getStack s m) q).running = false → getEngine (getStack u m) q = getEngine (getStack s m) q)) ∧
    (∀ s2 c, checkLaunch (taken s1 r.stack r.partition) r.stack r = (s2, .error c) →
      exec (.launch record sc) s = .next (failLaunch s2 r c.1 c.2)))

/-- R189–R191, R196: a launch that nothing keeps from starting starts every engine of its range at its entry, G13–G15 set; RUN_LIMIT stops an
engine that runs too long; an abort stops every engine of the launch, or ends a launch that waits to start; a launch whose engines have all
stopped completes, and where its groups are written its record follows. -/
def Obligations.LaunchesStartLimitAndAbort : Prop :=
  (∀ s n l, isReady s = true → stackPresent s n = true → stackTripped s n = false → (getStack s n).refresh ≤ 1 →
    (getStack s n).launch = none → (getStack s n).ready = some l → (getPart s l.record.partition).stop = 0 →
    (getStack s n).reload = [] → accessHeld s l.record.vec (l.record.vlen * vecBytes l.record) = false → launchOpen s n l.record = true →
    ∃ u, exec (.launchStart n) s = .next u ∧ (getStack u n).ready = none ∧
      (∃ l', (getStack u n).launch = some l' ∧ l' = { l with start := s.now, stallext := l'.stallext }) ∧
      ∀ q, l.record.q0 ≤ q → q ≤ l.record.q1 → ∀ e, getEngine (getStack u n) q = e →
        e.running = true ∧ e.pc = l.record.entry ∧ e.startAt = s.now ∧ e.partition = l.record.partition ∧ e.row = none ∧
        e.loops = [] ∧ e.stage = [] ∧ e.le = BitVec.allOnes 32 ∧ e.pm = (getEngine (getStack s n) q).pm ∧
        e.dm = (getEngine (getStack s n) q).dm ∧ e.acc = (getEngine (getStack s n) q).acc ∧
        (∀ r, r < 16 → eReg e r = if r = 13 then l.record.arg
          else if r = 14 then l.record.p0 + BitVec.ofNat 32 (q - l.record.q0) * l.record.pstride
          else if r = 15 then BitVec.ofNat 32 q else 0)) ∧
  (∀ s n q, isReady s = true → stackPresent s n = true → (getEngine (getStack s n) q).running = true →
    objNat s (0x3000 + (getEngine (getStack s n) q).partition) 0xC ≠ 0 →
    (getEngine (getStack s n) q).startAt + objNat s (0x3000 + (getEngine (getStack s n) q).partition) 0xC < s.now →
    ∃ u, exec (.runLimit n q) s = .next u ∧ (getEngine (getStack u n) q).running = false ∧
      (getEngine (getStack u n) q).lastCode = 0x0410 ∧ (getEngine (getStack u n) q).faults = (getEngine (getStack s n) q).faults + 1) ∧
  (∀ s n l, isReady s = true → stackPresent s n = true → (getStack s n).launch = some l →
    ∃ u l', exec (.launchAbort n) s = .next u ∧ (getStack u n).launch = some l' ∧ l'.aborted = true ∧ l'.record = l.record ∧
      ∀ q, l.record.q0 ≤ q → q ≤ l.record.q1 → (getEngine (getStack u n) q).running = false) ∧
  (∀ s n l, isReady s = true → stackPresent s n = true → (getStack s n).launch = none → (getStack s n).ready = some l →
    exec (.launchAbort n) s = .next (updStack s n (fun k =>
      { k with ready := none, launch := some { l with aborted := true, start := s.now } }))) ∧
  (∀ s n l, isReady s = true → (getStack s n).launch = some l → stillRunning (getStack s n) l.record = false → writesHeld s l = false →
    (getStack s n).ready = none → (getStack s n).seq = [] → (getStack s n).reload = [] →
    ∃ u, exec (.launchComplete n) s = .next u ∧ (getStack u n).launch = none) ∧
  (∀ s n l, isReady s = true → (getStack s n).launch = some l → stillRunning (getStack s n) l.record = false → writesHeld s l = false →
    (∀ g, g ∈ l.groups → g.written = true) →
    exec (.launchComplete n) s = .next (drainOrders (updStack
      (writeLaunch (debit (drew s) l.record.partition (.engineTime n) (l.time + freeNat s % (l.halted + l.faulted + 1))) l)
      n (fun k => { k with launch := none })) n))

/-! ### Stacks, temperature and errors (06, 10, 18, 20) -/

/-- 06 R157–R159, R163, 10 R275: a refresh that falls due is served with those owed or, fewer than four being owed, may be postponed
(which, is free: log entry 14), and four owed are served together and counted as forced; each sensor event of a stack records both readings
and, its condition holding, changes the refresh rate or the thermal state; each junction event of a die likewise; a trip raises THERMAL_ALERT
and at 120 °C the device loses its power. -/
def Obligations.RefreshAndSensorEventsTakeTheirEffect : Prop :=
  (∀ s n q owed, refreshable s n q = true → sGet 0 (getStack s n).owed q = owed → ∃ u, exec (.refresh n q) s = .next u ∧
    ((sGet 0 (getStack u n).owed q = 0 ∧ counter u (0x4000 + n) 9 = counter s (0x4000 + n) 9 + owed + 1 ∧
        counter u (0x4000 + n) 0xA = counter s (0x4000 + n) 0xA + (if 4 ≤ owed then 1 else 0)) ∨
     (owed < 4 ∧ sGet 0 (getStack u n).owed q = owed + 1 ∧ counter u (0x4000 + n) 9 = counter s (0x4000 + n) 9))) ∧
  (∀ s n q, refreshable s n q = true → sGet 0 (getStack s n).owed q = 4 → ∃ u, exec (.forcedRefresh n q) s = .next u ∧
    sGet 0 (getStack u n).owed q = 0 ∧ counter u (0x4000 + n) 9 = counter s (0x4000 + n) 9 + 4 ∧
    counter u (0x4000 + n) 0xA = counter s (0x4000 + n) 0xA + 1) ∧
  (∀ s n (dram base : Int), StackHears s n →
    (8500 < dram → (getStack s n).refresh = 0 → exec (.stackRefreshDoubled n dram base) s =
      .next (updStack s n (fun k => { k with dram := dram, base := base, refresh := 1, doubled := true }))) ∧
    (dram < 8300 → (getStack s n).refresh = 1 → exec (.stackRefreshNormal n dram base) s =
      .next (updStack s n (fun k => { k with dram := dram, base := base, refresh := 0, doubled := false }))) ∧
    (9500 ≤ max dram base → max dram base < 10000 → (getStack s n).thermal = 0 →
      ∃ u, exec (.stackThrottle n dram base) s = .next u ∧ (getStack u n).thermal = 1 ∧ (getStack u n).dram = dram) ∧
    (max dram base < 9300 → (getStack s n).thermal = 1 →
      ∃ u, exec (.stackThrottleRelease n dram base) s = .next u ∧ (getStack u n).thermal = 0 ∧ (getStack u n).dram = dram) ∧
    (10000 ≤ max dram base → (getStack s n).thermal ≠ 2 →
      ∃ u, exec (.stackTrip n dram base) s = .next u ∧ (getStack u n).thermal = 2 ∧ u.alert = true ∧
        ∀ p, p < 16 → regionsOwned s p n ≠ 0 → (getPart u p).cont.length = (getPart s p).cont.length + 1) ∧
    (max dram base < 9000 → (getStack s n).thermal = 2 →
      ∃ u, exec (.stackTripRelease n dram base) s = .next u ∧ (getStack u n).thermal = 0 ∧ (u.alert = s.alert ∨ u.alert = false))) ∧
  (∀ s d (temp : Int), isReady s = true → diePresent s d = true →
    (10500 ≤ temp → temp < 11200 → dieThermal s d = 0 →
      ∃ u, exec (.dieThrottle d temp) s = .next u ∧ dieThermal u d = 1 ∧ sGet 0 u.power.dieTemp d = temp) ∧
    (temp < 10300 → dieThermal s d = 1 →
      ∃ u, exec (.dieThrottleRelease d temp) s = .next u ∧ dieThermal u d = 0 ∧ sGet 0 u.power.dieTemp d = temp) ∧
    (11200 ≤ temp → temp < 12000 → dieThermal s d ≠ 2 →
      ∃ u, exec (.dieTrip d temp) s = .next u ∧ dieThermal u d = 2 ∧ u.alert = true ∧
        ∀ p, p < 16 → usesDie s p d = true → (getPart u p).cont.length = (getPart s p).cont.length + 1) ∧
    (temp < 10000 → dieThermal s d = 2 →
      ∃ u, exec (.dieTripRelease d temp) s = .next u ∧ dieThermal u d = 0 ∧ sGet 0 u.power.dieTemp d = temp) ∧
    (12000 ≤ temp → ∃ u, exec (.dieShutdown d temp) s = .next u ∧ u.boot = .off ∧ u.mem = [] ∧ u.cores = [] ∧ u.parts = []))

/-- R533, 18 R489, R477, R481, 06 R160: a coolant fault of 1 ms trips every unit, and 1 s of the input high with every unit cool ends it; a
regulator fault stops the device, and one before ready is Fatal then; a channel with more than four bad bursts is recorded as failing, and
its pages' holders are contained; at its interval the scrub rewrites every triplicated word that has two good copies, and one without a
majority is Fatal. -/
def Obligations.CoolantRegulatorChannelAndScrubEvents : Prop :=
  (∀ s us, isReady s = true → 1000 ≤ us → s.power.coolant = false → ∃ u, exec (.coolantFault us) s = .next u ∧
    u.power.coolant = true ∧ u.alert = true ∧ (∀ n, stackTripped u n = true) ∧ (∀ d, dieTripped u d = true)) ∧
  (∀ s us, isReady s = true → 1000000 ≤ us → s.power.coolant = true →
    (∀ d, d < 2 → diePresent s d = true → sGet 0 s.power.dieTemp d < 10000) →
    (∀ n, n < 12 → stackPresent s n = true → max (getStack s n).dram (getStack s n).base < 9000) →
    ∃ u, exec (.coolantFaultRelease us) s = .next u ∧ u.power.coolant = false ∧ u.coolantHigh = true ∧
    ((∀ n, (getStack s n).thermal ≠ 2) → (∀ d, dieThermal s d ≠ 2) → u.alert = false)) ∧
  (∀ s, isReady s = true → ∃ u, exec .regulatorFault s = .next u ∧ u.boot = .fatal none ∧ bitAt u.faultsum 3 = true ∧
    counter u 0x4800 0x14 = counter s 0x4800 0x14 + 1 ∧ (∀ n, n < 9 → (getPort u n).state = 0)) ∧
  (∀ s f, s.boot = .starting f → ∃ u, exec .regulatorFault s = .next u ∧ u.boot = .fatal (some f) ∧ bitAt u.faultsum 3 = true) ∧
  (∀ s n c, isReady s = true → stackPresent s n = true → c < 48 → bitAt (getStack s n).mapOut c = false →
    bitAt (getStack s n).failing c = false → 4 < recentBursts s n c → ∃ u, exec (.channelDeclaredFailing n c) s = .next u ∧
    bitAt (getStack u n).failing c = true ∧ bitAt (mapOutMask u.hw n) c = true ∧ (getStack u n).mapOut = (getStack s n).mapOut ∧
    (∀ p g y, p < 16 → g ∈ (getPart s p).pages → rowIn u n c g.2 = true → y ∈ (getPart s p).sessions → holds y g.1 = true →
      ∃ x, x ∈ (getPart u p).cont ∧ x.handle = some y.handle ∧ x.cause = 3)) ∧
  (∀ s, isReady s = true → dueEvery s (objNat s 0x4800 3) = true → s.order < 5 → s.power.stop < 4 →
    ((∀ e, e ∈ s.tripl → 2 ≤ (e.2.filter (fun b => b)).length) →
      ∃ u, exec .patrolScrub s = .next u ∧ u.boot = .ready ∧ u.order = 5 ∧ u.mem = s.mem ∧ u.tripl = [] ∧
        counter u 0x4800 0x15 = counter s 0x4800 0x15 + (s.tripl.filter (fun e => (e.2.filter (fun b => b)).length == 2)).length) ∧
    ((∃ e, e ∈ s.tripl ∧ (e.2.filter (fun b => b)).length < 2) →
      ∃ u, exec .patrolScrub s = .next u ∧ u.boot = .fatal none))

namespace Sys2Proof.Says

/-! ### The host's side -/

/-- An entry that answers the command packet `b` is owed, with its status and detail. -/
def Owes (s : State) (p : Nat) (b : List Byte) (status detail : Nat) : Prop :=
  ∃ e, e ∈ (getPart s p).owed ∧ e.status = status ∧ e.detail = detail ∧ e.opcode = bytesAt b 0 1 ∧ e.tag = bytesAt b 8 4 ∧
    e.handle = (if bytesAt b 0 1 = 0x20 then 0 else bytesAt b 16 4)

/-- The packet `b` stands at the head of the intake queue of partition `p`, with `rest` behind it, and the partition admits commands. -/
structure Queued (s : State) (p : Nat) (b : List Byte) (bad : Bool) (rest : List Accepted) : Prop where
  admits : admits s p = true
  front : (getPart s p).queue = { bytes := b, bad := bad } :: rest

/-- A well-formed packet of an opcode stands there, and neither a containment nor a coming stop 6 refuses it. -/
structure Head (s : State) (p op : Nat) (b : List Byte) (rest : List Accepted) : Prop where
  queued : Queued s p b false rest
  opcode : bytesAt b 0 1 = op
  clean : reservedSet b = false
  goesOn : (getPart s p).contained = none
  serves : s.power.draining = false

/-- A command about a session (R322): in a state that takes it, the session becomes what `f` makes of it and the command is ACCEPTED; in any
other state STATE_CONFLICT, and for a handle not in use NO_SESSION, with every session as it was. -/
def SessionRow (row : Nat → Instr) (op : Nat) (ok : Session → Bool) (f : List Byte → Session → Session) : Prop :=
  (∀ s p b rest y, Head s p op b rest → sessionOf (getPart s p) (bytesAt b 16 4) = some y → ok y = true →
    ∃ u, exec (row p) s = .next u ∧ (getPart u p).queue = rest ∧ Owes u p b 0x00 0 ∧
      sessionOf (getPart u p) (bytesAt b 16 4) = some (f b y) ∧
      ∀ h, h ≠ bytesAt b 16 4 → sessionOf (getPart u p) h = sessionOf (getPart s p) h) ∧
  (∀ s p b rest y, Head s p op b rest → sessionOf (getPart s p) (bytesAt b 16 4) = some y → ok y = false →
    ∃ u, exec (row p) s = .next u ∧ (getPart u p).queue = rest ∧ Owes u p b 0x21 0 ∧ (getPart u p).sessions = (getPart s p).sessions) ∧
  (∀ s p b rest, Head s p op b rest → sessionOf (getPart s p) (bytesAt b 16 4) = none →
    ∃ u, exec (row p) s = .next u ∧ (getPart u p).queue = rest ∧ Owes u p b 0x11 0 ∧ (getPart u p).sessions = (getPart s p).sessions)

/-- The rows that admit commands, with the packets that each names and whether the packet's reads wait for the link. -/
def commandRows : List ((Nat → Instr) × (List Byte → Bool) × (State → List Byte → Bool)) :=
  [(.cmdOpen, hasOp 0x01, promptWaits), (.append, hasOp 0x02, fun s b => waitsOn s 24 (4 * bytesAt b 20 4) b),
   (.cancel, hasOp 0x03, fun _ _ => false), (.close, hasOp 0x04, fun _ _ => false), (.park, hasOp 0x05, fun _ _ => false),
   (.resume, hasOp 0x06, fun _ _ => false), (.adopt, hasOp 0x07, fun s b => waitsOn s 24 128 b),
   (.setdue, hasOp 0x08, fun _ _ => false), (.adapterLoad, hasOp 0x10, fun _ _ => false),
   (.adapterRetire, hasOp 0x11, fun _ _ => false),
   (.negPin, fun b => hasOp 0x12 b && bytesAt b 20 1 % 2 == 1, fun _ _ => false),
   (.negUnpin, fun b => hasOp 0x12 b && bytesAt b 20 1 % 2 == 0, fun _ _ => false),
   (.train, hasOp 0x18, fun s b => waitsOn s 24 128 b), (.fence, hasOp 0x20, fun _ _ => false)]

/-- The packet that lane `l` of partition `p` waits for stands in its slot, sound, and the queue has room: expected sequence `e`. -/
structure LaneHolds (s : State) (p l e : Nat) (b : List Byte) : Prop where
  running : (laneOf s p l).stopped = false
  fresh : sGet false (laneOf s p l).fresh (e % 1024) = true
  expected : (laneOf s p l).expected = e
  bytes : slotBytes s p l (e % 1024) = b
  word : bytesAt b 4 4 / 2 ^ 28 = l ∧ bytesAt b 4 4 % 2 ^ 28 = e
  check : checkOk b = true
  sound : (meetSlot s p l (e % 1024)).2 = false
  room : (getPart s p).queue.length < 4096

end Sys2Proof.Says

/-! ### The host's windows and intake (08, 09, 14) -/

/-- 14 R389, R390, R409, R411, 08 R208, R213, 09 R232–R234: a host access within one line of exposed memory reads or writes the device address
that it names, a write by the home path or, in a cache-mode partition, direct, and waits for a tripped stack; beyond the exposed ranges a read
answers all ones with poison, a write is dropped, and both are counted. An aligned word written to a bead's address is added to it, a
steward's only in its partition's range; an aligned word read is its value. A scratchpad window that is open reads and writes the
scratchpad; one that is shut, absent or past its end answers all ones with poison and counts writes; one that is off answers all ones. A write to
FAULTSUM clears the bits it names of those that may be cleared. The filter of lines that the host may hold, and that a steward's write
outside its partition's range is counted as an inbound one, are the model's choices (log entries 9 and 91). -/
def Obligations.HostReachesExposedMemoryAndWindows : Prop :=
  (∀ s dpa len, isReady s = true → 2 ≤ s.link.level → hdmHeld s dpa len = false → 0 < len → dpa % 64 + len ≤ 64 →
    exec (.hostCxlMemRead dpa len) s = .next (match hdmFind (hdmList s) dpa with
      | none => emit (bump s 0x6800 0x13 1) (.hostRead (List.replicate len 0xFF) true)
      | some a =>
        let r := asHost (debitHost s a len false) (fun x => unitRead x a len)
        emit (trackLine r.1 (a / 64 * 64)) (.hostRead r.2.1 r.2.2))) ∧
  (∀ s dpa bytes poison, isReady s = true → 2 ≤ s.link.level → hdmHeld s dpa bytes.length = false → bytes ≠ [] →
    dpa % 64 + bytes.length ≤ 64 →
    exec (.hostCxlMemWrite dpa bytes poison) s = .next (match hdmFind (hdmList s) dpa with
      | none => bump s 0x6800 0x13 1
      | some a =>
        let path := match memOwner s a with
          | some p => if cacheMode s p then Path.direct else Path.home
          | none => Path.home
        (asHost (debitHost s a bytes.length true) (fun x => unitWrite x path a bytes poison)).1)) ∧
  (∀ s die off v, isReady s = true → linkUp s = true → s.power.stop < 4 → diePresent s die = true → die < 2 → off < 0x10000 →
    exec (.beadWindowWrite die off (.host (.write v))) s = .next
      (if v.length = 4 ∧ off % 4 = 0 ∧ off < 0x4000 then beadAdd s die (off / 4) (BitVec.ofNat 32 (leNat v)) false
       else bump s 0x4800 0x10 1)) ∧
  (∀ s die n, isReady s = true → linkUp s = true → s.power.stop < 4 → diePresent s die = true → die < 2 → n < 4096 → BeadSound s die n →
    exec (.beadWindowWrite die (4 * n) (.host (.read 4))) s = .next (emit s (.hostRead (natLe 4 (getBead s die n).value.toNat) false))) ∧
  (∀ s die off n, isReady s = true → linkUp s = true → die < 2 → off < 0x10000 → (4 ≤ s.power.stop ∨ n ≠ 4 ∨ off % 4 ≠ 0) →
    exec (.beadWindowWrite die off (.host (.read n))) s = .next (emit s (.hostRead (List.replicate n 0xFF) false))) ∧
  (∀ s i p die off v, isReady s = true → s.power.stop < 4 → stewardPresent s i = true → ownerOfSteward s i = some p →
    diePresent s die = true → die < 2 → off < 0x10000 →
    exec (.beadWindowWrite die off (.steward i (.write v))) s = .next
      (if v.length = 4 ∧ off % 4 = 0 ∧ off < 0x4000 then
        (if beadOwned s p die (off / 4) = true then beadAdd s die (off / 4) (BitVec.ofNat 32 (leNat v)) false
         else bump s (0x3000 + p) 0x10 1)
       else bump s 0x4800 0x10 1)) ∧
  (∀ s i die n, isReady s = true → s.power.stop < 4 → stewardPresent s i = true → die < 2 → n < 4096 → BeadSound s die n →
    exec (.beadWindowWrite die (4 * n) (.steward i (.read 4))) s = .next s) ∧
  (∀ s t off n, isReady s = true → linkUp s = true → corePresent s t = true → 0 < n → off % 64 + n ≤ 64 → off + n ≤ 6291456 →
    windowClosed s none (spadBase t) = false → spadOff' s t = false → SpadSound s t off n →
    exec (.scratchpadWindowAccess t off (.read n)) s = .next (emit s (.hostRead (peek s .direct (spadBase t + off) n) false))) ∧
  (∀ s t off v, isReady s = true → linkUp s = true → corePresent s t = true → v ≠ [] → off % 64 + v.length ≤ 64 →
    off + v.length ≤ 6291456 → windowClosed s none (spadBase t) = false → spadOff' s t = false →
    ∃ u, exec (.scratchpadWindowAccess t off (.write v)) s = .next u ∧
      ∀ a, rawByte u a = if spadBase t + off ≤ a ∧ a < spadBase t + off + v.length then v.getD (a - (spadBase t + off)) 0 else rawByte s a) ∧
  (∀ s t off n v, isReady s = true → linkUp s = true → t < 64 → 0 < n → v ≠ [] → off < 0x800000 →
    (off % 64 + n ≤ 64 → (windowClosed s none (spadBase t) = true ∨ corePresent s t = false ∨ 6291456 < off + n) →
      exec (.scratchpadWindowAccess t off (.read n)) s = .next (emit s (.hostRead (List.replicate n 0xFF) true))) ∧
    (off % 64 + v.length ≤ 64 → (windowClosed s none (spadBase t) = true ∨ corePresent s t = false ∨ 6291456 < off + v.length) →
      exec (.scratchpadWindowAccess t off (.write v)) s = .next (bump s 0x4800 0x10 1))) ∧
  (∀ s t off n v, isReady s = true → linkUp s = true → t < 64 → corePresent s t = true → windowClosed s none (spadBase t) = false →
    spadOff' s t = true → 0 < n → v ≠ [] →
    (off % 64 + n ≤ 64 → off + n ≤ 6291456 →
      exec (.scratchpadWindowAccess t off (.read n)) s = .next (emit s (.hostRead (List.replicate n 0xFF) false))) ∧
    (off % 64 + v.length ≤ 64 → off + v.length ≤ 6291456 → exec (.scratchpadWindowAccess t off (.write v)) s = .next s)) ∧
  (∀ s (v : W64), isReady s = true → linkUp s = true → ∃ u, exec (.faultsumClear v) s = .next u ∧ u = { s with faultsum := u.faultsum } ∧
    ∀ i, bitAt u.faultsum i = (bitAt s.faultsum i && !(bitAt v.toNat i && [0, 1, 2, 3, 5].contains i)))

/-- 14 R391–R399: a packet written whole into the slot of the expected sequence is accepted in order, marked when it names another partition;
a header for a later turn of that slot stops the lane, any other header is counted; a torn packet is accepted as it stands once it is late;
a waiting slot is taken when the queue has room; LRESET sets the lane anew, and no slot written before it counts. -/
def Obligations.IntakeLanesTakePacketsInOrder : Prop :=
  (∀ s p l i (b : List Byte), isReady s = true → linkUp s = true → s.power.stop = 0 → p < 16 → l < 16 → i < 1024 → b.length = 64 →
    (laneOf s p l).stopped = false → ∀ e, (laneOf s p l).expected = e → e < 2 ^ 28 →
    (bytesAt b 4 4 / 2 ^ 28 = l → bytesAt b 4 4 % 2 ^ 28 = e → i = e % 1024 → checkOk b = true → (getPart s p).queue.length < 4096 →
      ∃ u more, exec (.intakeSlotWrite p (l * 65536 + i * 64) b) s = .next u ∧ slotBytes u p l i = b ∧
        (getPart u p).queue = (getPart s p).queue ++ { bytes := b, bad := bytesAt b 1 1 % 16 != p } :: more ∧
        counter u (0x6810 + p) 9 = counter s (0x6810 + p) 9 + 1 + more.length ∧
        (sGet false (laneOf s p l).fresh ((e + 1) % 1024) = false → more = [] ∧ (laneOf u p l).expected = (e + 1) % 2 ^ 28)) ∧
    (bytesAt b 4 4 / 2 ^ 28 = l → bytesAt b 4 4 % 2 ^ 28 % 1024 = i → bytesAt b 4 4 % 2 ^ 28 ≠ e → i = e % 1024 →
      ∃ u, exec (.intakeSlotWrite p (l * 65536 + i * 64) b) s = .next u ∧ (laneOf u p l).stopped = true ∧
        (getPart u p).queue = (getPart s p).queue ∧ counter u (0x6810 + p) 0xA = counter s (0x6810 + p) 0xA + 1) ∧
    ((bytesAt b 4 4 / 2 ^ 28 ≠ l ∨ bytesAt b 4 4 % 2 ^ 28 % 1024 ≠ i ∨ i ≠ e % 1024) →
      ∃ u, exec (.intakeSlotWrite p (l * 65536 + i * 64) b) s = .next u ∧ (laneOf u p l).stopped = false ∧
        (getPart u p).queue = (getPart s p).queue ∧ counter u (0x6810 + p) 0xC = counter s (0x6810 + p) 0xC + 1)) ∧
  (∀ s p lane since, isReady s = true → p < 16 → lane < 16 → (laneOf s p lane).stopped = false → (laneOf s p lane).badSince = some since →
    since + objNat s 0x6800 6 ≤ s.now → (getPart s p).queue.length < 4096 →
    ∃ u more, exec (.tornPacketTimeout p lane) s = .next u ∧ counter u (0x6810 + p) 0xB = counter s (0x6810 + p) 0xB + 1 ∧
      (getPart u p).queue = (getPart s p).queue ++
        { bytes := slotBytes s p lane ((laneOf s p lane).expected % 1024), bad := true } :: more) ∧
  (∀ s p l e b, isReady s = true → p < 16 → (getPart s p).waits = [l] → LaneHolds s p l e b →
    ∃ u more, exec (.intakeQueueRoom p) s = .next u ∧
      (getPart u p).queue = (getPart s p).queue ++ { bytes := b, bad := bytesAt b 1 1 % 16 != p } :: more) ∧
  (∀ s p (v : W64) l, isReady s = true → linkUp s = true → p < 16 → fld v.toNat 3 0 = l →
    ∃ u, exec (.lreset p v) s = .next u ∧ (laneOf u p l).expected = fld v.toNat 35 8 ∧ (laneOf u p l).stopped = false ∧
      (∀ i header, ∃ x, evalSlot u p l i header = .other x ∧ (getPart x p).queue = (getPart u p).queue) ∧
      (getPart u p).queue = (getPart s p).queue ∧ ∀ k, k ≠ l → laneOf u p k = laneOf s p k)

/-! ### Serving commands (12, 11) -/

/-- 12 R314–R323, R349–R355: what the commands about sessions do in each state that takes them: OPEN and ADOPT start a session from its
request block, APPEND starts another turn with the pending token before the new ones (the model's reading, log entry 95), CANCEL waits for its deciding step or is decided at once, and CLOSE, PARK, RESUME and SETDUE
change the session named. A request that fails its checks is answered with its status, and changes no session. -/
def Obligations.SessionCommandsTakeTheirEffect : Prop :=
  (∀ s p b rest s1 q slot s2 toks m, Head s p 0x01 b rest → promptWaits s b = false → (getPart s p).model = some m →
    openChecks (takeHead s p b) p b false = (s1, .ok (q, slot)) →
    readTokens s1 p (bytesAt q 0 8) (bytesAt q 8 4) m.vocab = (s2, .ok toks) →
    ∃ u y, exec (.cmdOpen p) s = .next u ∧ (getPart u p).queue = rest ∧ Owes u p b 0x00 0 ∧
      sessionOf (getPart u p) (bytesAt b 16 4) = some y ∧ y.state = .admitted ∧ y.prompt = toks ∧ y.turn = 0 ∧ y.generated = 0 ∧
      y.maxnew = bytesAt q 12 4 ∧ y.due = bytesAt q 16 8 ∧ y.slot = slot ∧ y.register = bitAt (bytesAt q 30 1) 0 ∧
      y.keep = bitAt (bytesAt q 30 1) 1 ∧ y.proofs = bitAt (bytesAt q 30 1) 2 ∧ y.ship = bitAt (bytesAt q 30 1) 3 ∧
      (∀ h, h ≠ bytesAt b 16 4 → sessionOf (getPart u p) h = sessionOf (getPart s p) h)) ∧
  (∀ s p b rest s1 e, Head s p 0x01 b rest → promptWaits s b = false → openChecks (takeHead s p b) p b false = (s1, .error e) →
    ∃ u, exec (.cmdOpen p) s = .next u ∧ (getPart u p).queue = rest ∧ Owes u p b e 0 ∧ (getPart u p).sessions = (getPart s p).sessions) ∧
  (∀ s p b rest s1 q slot, Head s p 0x07 b rest → waitsOn s 24 128 b = false →
    openChecks (takeHead s p b) p b true = (s1, .ok (q, slot)) → (∀ e, e ∈ (getPart s p).heldPages → e.handle ≠ bytesAt b 16 4) →
    ∃ u y, exec (.adopt p) s = .next u ∧ (getPart u p).queue = rest ∧ Owes u p b 0x00 0 ∧
      sessionOf (getPart u p) (bytesAt b 16 4) = some y ∧ y.state = .receiving ∧ y.adopted = true ∧ y.ship = false ∧ y.prompt = [] ∧
      y.received = 0 ∧ y.slot = slot ∧ y.admittedAt = s.now) ∧
  (∀ s p b rest y m s1 toks, Head s p 0x02 b rest → waitsOn s 24 (4 * bytesAt b 20 4) b = false →
    sessionOf (getPart s p) (bytesAt b 16 4) = some y → y.state = .idle → (getPart s p).model = some m →
    readTokens (takeHead s p b) p (bytesAt b 24 8) (bytesAt b 20 4) m.vocab = (s1, .ok toks) →
    ∃ u z, exec (.append p) s = .next u ∧ (getPart u p).queue = rest ∧ Owes u p b 0x00 0 ∧
      sessionOf (getPart u p) (bytesAt b 16 4) = some z ∧ z.state = .prefill ∧ z.turn = y.turn + 1 ∧ z.prompt = y.pendingTok.toList ++ toks ∧ z.taken = 0 ∧
      z.generated = 0 ∧ z.due = bytesAt b 32 8 ∧ z.maxnew = bytesAt b 40 4 ∧ z.pages = y.pages ∧
      z.history = y.history ++ toks.map (fun t => (t, true))) ∧
  (∀ s p b rest s1 e, Head s p 0x07 b rest → waitsOn s 24 128 b = false → openChecks (takeHead s p b) p b true = (s1, .error e) →
    ∃ u, exec (.adopt p) s = .next u ∧ (getPart u p).queue = rest ∧ Owes u p b e 0 ∧ (getPart u p).sessions = (getPart s p).sessions) ∧
  (∀ s p b rest y, Head s p 0x02 b rest → waitsOn s 24 (4 * bytesAt b 20 4) b = false →
    sessionOf (getPart s p) (bytesAt b 16 4) = some y → y.state ≠ .idle →
    ∃ u, exec (.append p) s = .next u ∧ (getPart u p).queue = rest ∧ Owes u p b 0x21 0 ∧ (getPart u p).sessions = (getPart s p).sessions) ∧
  (∀ s p b rest y n, Head s p 0x03 b rest → sessionOf (getPart s p) (bytesAt b 16 4) = some y → cancellable y = true →
    decidingStep (getPart s p) = some n →
    ∃ u, exec (.cancel p) s = .next u ∧ (getPart u p).queue = rest ∧ (getPart u p).owed = (getPart s p).owed ∧
      sessionOf (getPart u p) (bytesAt b 16 4) =
        some { y with state := .draining, cancel := some (bytesAt b 8 4, n, (getPart s p).logNo + 1) }) ∧
  (∀ s p b rest y, Head s p 0x03 b rest → sessionOf (getPart s p) (bytesAt b 16 4) = some y → cancellable y = true →
    decidingStep (getPart s p) = none →
    ∃ u, exec (.cancel p) s = .next u ∧ (getPart u p).queue = rest ∧ Owes u p b 0x02 y.delivered ∧
      sessionOf (getPart u p) (bytesAt b 16 4) = some { y with state := .draining, ended := true, final := some 0x02 }) ∧
  SessionRow .close 0x04 (fun y => y.state == .idle || y.state == .parked) (fun _ y => { y with state := .draining, ended := true }) ∧
  SessionRow .park 0x05 (fun y => y.state == .idle) (fun _ y => { y with state := .parked, parking := true }) ∧
  SessionRow .resume 0x06 (fun y => y.state == .parked) (fun _ y => { y with state := .idle, parking := false }) ∧
  SessionRow .setdue 0x08 (fun y => [SessState.admitted, .prefill, .decode, .training, .receiving].contains y.state)
    (fun b y => { y with due := bytesAt b 24 8 })

/-- 11 R309, 12 R320, R356–R360: adapter loads take an EMPTY slot and are answered when it leaves LOADING; a retired version is
RETIRING; pins; a training job reserves the next version; FENCE is ACCEPTED and an unknown opcode is BAD_COMMAND. Which EMPTY slot is taken
is free (log entry 14). -/
def Obligations.AdapterPinTrainAndFenceCommandsTakeTheirEffect : Prop :=
  (∀ s p b rest a v, Head s p 0x10 b rest → bytesAt b 16 2 = a → bytesAt b 18 2 = v → a ≠ 0xFFFF → v ≠ 0xFFFF →
    (getPart s p).model.isSome = true → locAbsent s (locate (bytesAt b 24 8)) = false →
    locAbsent s (locate (bytesAt b 24 8 + (max 64 (bytesAt b 20 4) - 1))) = false →
    (∃ i, i < 64 ∧ (sGet Slot.init (getPart s p).adapters i).state = 0) →
    (∀ e, e ∈ slotsOf (getPart s p) a → e.2.version < v ∧ e.2.state ≠ 4) →
    ∃ u i, exec (.adapterLoad p) s = .next u ∧ (getPart u p).queue = rest ∧ (getPart u p).owed = (getPart s p).owed ∧
      i < 64 ∧ (sGet Slot.init (getPart s p).adapters i).state = 0 ∧ (∀ x, sGet Slot.init (getPart u p).adapters i = x →
        x.state = 1 ∧ x.id = a ∧ x.version = v ∧ x.tag = bytesAt b 8 4 ∧ x.image = bytesAt b 24 8 ∧ x.bytes = bytesAt b 20 4) ∧
      ∀ j, j ≠ i → sGet Slot.init (getPart u p).adapters j = sGet Slot.init (getPart s p).adapters j) ∧
  (∀ s p i v s1 b m, isReady s = true → p < 16 → (getPart s p).flight = none → sGet Slot.init (getPart s p).adapters i = v →
    v.state = 1 → accessHeld s v.image (max 64 v.bytes) = false → cmdRead s p v.image (max 64 v.bytes) = (s1, .ok b) →
    imageBad b v.bytes = false → (getPart s p).model = some m → bytesAt b 16 4 = m.identity →
    ∃ u e, exec (.adapterLoadComplete p i) s = .next u ∧
      (sGet Slot.init (getPart u p).adapters i).state =
        (if (getPart s p).adapters.any (fun e => e.2.state == 2 && e.2.id == v.id && decide (v.version < e.2.version)) then 3 else 2) ∧
      (sGet Slot.init (getPart u p).adapters i).rank = bytesAt b 6 2 ∧
      e ∈ (getPart u p).owed ∧ e.status = 0x01 ∧ e.opcode = 0x10 ∧ e.handle = v.id + 65536 * v.version ∧ e.tag = v.tag ∧
      e.detail = v.version) ∧
  (∀ s p i v s1 b, isReady s = true → p < 16 → (getPart s p).flight = none → sGet Slot.init (getPart s p).adapters i = v →
    v.state = 1 → accessHeld s v.image (max 64 v.bytes) = false → cmdRead s p v.image (max 64 v.bytes) = (s1, .ok b) →
    imageBad b v.bytes = true →
    ∃ u e, exec (.adapterLoadComplete p i) s = .next u ∧ (sGet Slot.init (getPart u p).adapters i).state = 0 ∧
      e ∈ (getPart u p).owed ∧ e.status = 0x14 ∧ e.opcode = 0x10 ∧ e.tag = v.tag) ∧
  (∀ s p b rest i v, Head s p 0x11 b rest →
    (slotsOf (getPart s p) (bytesAt b 16 2)).find? (fun e => e.2.version == bytesAt b 18 2) = some (i, v) → v.state = 2 →
    ∃ u, exec (.adapterRetire p) s = .next u ∧ (getPart u p).queue = rest ∧ Owes u p b 0x00 0 ∧
      sGet Slot.init (getPart u p).adapters i = { v with state := 3 }) ∧
  (∀ s p b rest n l, Head s p 0x12 b rest → bytesAt b 20 1 % 2 = 1 → pinTarget (getPart s p) b = .ok n →
    (ancestry (getPart s p) (getPart s p).negatives.length n).map (fun m => m.page) = l →
    ((getPart s p).negatives.filter (fun m => m.pinned || l.contains m.page)).length ≤ negCapacity s p →
    ∃ u, exec (.negPin p) s = .next u ∧ (getPart u p).queue = rest ∧ Owes u p b 0x00 0 ∧
      (getPart u p).negatives = (getPart s p).negatives.map (fun m => { m with pinned := m.pinned || l.contains m.page })) ∧
  (∀ s p b rest n, Head s p 0x12 b rest → bytesAt b 20 1 % 2 = 0 → pinTarget (getPart s p) b = .ok n →
    ∃ u, exec (.negUnpin p) s = .next u ∧ (getPart u p).queue = rest ∧ Owes u p b 0x00 0 ∧
      (getPart u p).negatives = (getPart s p).negatives.map (fun m => if m.page == n.page then { m with pinned := false } else m)) ∧
  (∀ s p b rest s1 q id v, Head s p 0x18 b rest → waitsOn s 24 128 b = false → handleOk (bytesAt b 16 4) = true →
    bytesAt b 24 8 % 64 = 0 → sessionOf (getPart s p) (bytesAt b 16 4) = none → (getPart s p).sessions.length < 4096 →
    (getPart s p).model.isSome = true → cmdRead (takeHead s p b) p (bytesAt b 24 8) 128 = (s1, .ok q) → trainBad q = false →
    locAbsent s (locate (bytesAt q 0 8)) = false → bytesAt q 16 2 = id → (bytesAt q 18 2 = 0xFFFF ∨ ∃ e, e ∈ slotsOf (getPart s p) id ∧ e.2.version = bytesAt q 18 2) →
    (∃ i, i < 64 ∧ (sGet Slot.init (getPart s p).adapters i).state = 0) →
    (∀ e, e ∈ slotsOf (getPart s p) id → e.2.state ≠ 1 ∧ e.2.state ≠ 4) → maxVersion (getPart s p) id + 1 = v → v ≠ 0xFFFF →
    ∃ u y j, exec (.train p) s = .next u ∧ (getPart u p).queue = rest ∧ Owes u p b 0x00 0 ∧
      sessionOf (getPart u p) (bytesAt b 16 4) = some y ∧ y.state = .training ∧ y.job = some j ∧ j.adapter = id ∧ j.version = v ∧
      j.steps = bytesAt q 12 4 ∧ j.batch = bytesAt q 44 4 ∧ j.done = 0 ∧
      (sGet Slot.init (getPart s p).adapters j.slot).state = 0 ∧ (∀ x, sGet Slot.init (getPart u p).adapters j.slot = x →
        x.state = 4 ∧ x.id = id ∧ x.version = v)) ∧
  (∀ s p b rest, Head s p 0x20 b rest → ∃ u, exec (.fence p) s = .next u ∧ (getPart u p).queue = rest ∧ Owes u p b 0x00 0) ∧
  (∀ s p b bad rest, Queued s p b bad rest → (getPart s p).contained = none → usedBytes (bytesAt b 0 1) = none →
    ∃ u, exec (.unknownOpcode p) s = .next u ∧ (getPart u p).queue = rest ∧ Owes u p b 0x10 0)

/-- 12 R319, R321, R323, 10 R268, 18 R488: while its partition is contained every command but FENCE is answered CONTAINED; a packet that
failed its check or has a reserved field set is answered BAD_COMMAND; once stop 6 is asked for a command is refused. -/
def Obligations.RefusedCommandsAreAnsweredAndChangeNothing : Prop :=
  ∀ row sel waits, (row, sel, waits) ∈ commandRows → ∀ s p b bad rest, Queued s p b bad rest → sel b = true →
    (waits s b = false ∨ bad = true) →
    (∀ d, (getPart s p).contained = some d → ∃ u, exec (row p) s = .next u ∧ (getPart u p).queue = rest ∧
      (getPart u p).sessions = (getPart s p).sessions ∧ (getPart u p).adapters = (getPart s p).adapters ∧
      (if bytesAt b 0 1 = 0x20 then Owes u p b 0x00 0 else Owes u p b 0x30 d)) ∧
    ((getPart s p).contained = none → bad = true ∨ reservedSet b = true → ∃ u, exec (row p) s = .next u ∧ (getPart u p).queue = rest ∧
      (getPart u p).sessions = (getPart s p).sessions ∧ (getPart u p).adapters = (getPart s p).adapters ∧ Owes u p b 0x10 0) ∧
    ((getPart s p).contained = none → bad = false → reservedSet b = false → s.power.draining = true →
      ∃ u, exec (row p) s = .next u ∧ (getPart u p).queue = rest ∧ (getPart u p).sessions = (getPart s p).sessions ∧
        (getPart u p).adapters = (getPart s p).adapters ∧ Owes u p b 0x21 0)

namespace Sys2Proof.Says

/-- A partition's step in flight can be completed: the device serves, the partition has a ring, and none of its work still runs (R324). -/
structure StepEnds (s : State) (p : Nat) (f : Flight) : Prop where
  ready : isReady s = true
  part : p < 16
  ring : hasRing s p = true
  rests : workRuns s p = false
  flight : (getPart s p).flight = some f

/-- The entries of the record of a step whose work came to `w`, in R344's order. -/
def recordEntries (p : Nat) (w : Work) : List (List Byte) :=
  (sortToks w.toks).map tokBytes ++ w.trains.map trainBytes ++ (getPart w.s p).owed.map statusBytes

/-- The state at a commit tick, its staged values moved into the commit. -/
def commitTaken (s : State) : State :=
  let c : Commit := { s.commit with
                        ticked := true, tick := s.now, values := s.staged, before := [], held := [], waits := [], saved := [],
                        stripped := [], phase := 0 }
  atPlace { s with staged := [], commit := c } 5

/-- A value of the commit that may not take effect (16 R454). -/
def refusedAtTick (s : State) (e : Nat × List Byte) : Bool :=
  valueConflict s (withValues s s.commit.values) (keyIndex e.1) (keySub e.1) || (e.1 == 0x7C0012 && updateConflict s (leNat e.2))

/-- A commit waits for its tick, and this is one at which it may happen. -/
structure AtCommitTick (s : State) : Prop where
  ready : isReady s = true
  waits : s.commit.state = 1 ∨ s.commit.state = 2
  fresh : s.commit.ticked = false
  later : s.commit.tick < s.now
  order : s.order ≤ 5

/-- A strip operation of kind `op` (1 seal, 2 unseal) waits in the commit for stack `n` with its value `x`, and the regions of the mask `m`
are those of its regions that may be rewritten now: the ones a partition owns in phase 3, the others from the tick after the commit
(06 R150). -/
structure StripDue (s : State) (n op x m : Nat) : Prop where
  ready : isReady s = true
  present : stackPresent s n = true
  idle : (getStack s n).stripOp = none
  ticked : s.commit.ticked = true
  value : ∃ v, s.commit.values.find? (fun e => e.1 == objKey 0x4040 (n + 1)) = some (objKey 0x4040 (n + 1), v) ∧ leNat v = x
  kind : fld x 31 30 = op
  regions : stripsDue s n (fld x 15 0) = m
  some' : m ≠ 0

/-- A seal or an unseal begins on the regions that are due: their cached lines go back, the rows open in them close, they are in
transition, and what is left of the operation still waits in the commit (06 R150). -/
def StripBegins (row : Nat → Instr) (op : Nat) : Prop :=
  ∀ s n x m, StripDue s n op x m → ∀ o : StripOp, o.isSeal = decide (op = 1) → o.clear = bitAt x 29 → o.regions = m → o.done = 0 →
    exec (row n) s = .next (updCommit
      (updStack (flushRegions s n m) n (fun k => { closeRows k m with trans := m, stripOp := some o }))
      (fun c => { c with values := if fld (x - m) 15 0 = 0 then sDel c.values (objKey 0x4040 (n + 1))
                                   else sIns c.values (objKey 0x4040 (n + 1)) (natLe 4 (x - m)) }))

/-- The length of the group of pulses that a pulse completes: the pulses before it and its own period. -/
def groupLength (s : State) (ps : Nat) : Nat := s.cad.groupPs + ps

/-- A pulse that the input accepts while pulses may be the source (10 R254). -/
def PulseHeard (s : State) (ps : Nat) : Prop :=
  isReady s = true ∧ (sourceSelected s = 0 ∨ sourceSelected s = 2) ∧ 100000 ≤ ps ∧ ps ≤ 1000000000

/-- A time from the best clock, heard while PTP may be the source (10 R254, R267). -/
def SyncHeard (s : State) (clock : Nat) : Prop :=
  ptpHeard s = true ∧ sourceSelected s ≤ 1 ∧ ∃ rank, s.cad.master = some (clock, rank)

/-- What a lease gives a partition: its reservation, and an equal share of what is left of the cap while it has a step in flight
(10 R272). -/
def leaseOf (s : State) (m : PowerEnv) (p : Nat) : Nat :=
  objNat s 0x2020 (p + 1) + (if (getPart s p).flight.isSome then capLeft s m.unowned / (stepping s).length else 0)

/-- No error that ECC cannot correct is latent. -/
def NoBadBurst (s : State) : Prop := ∀ a x, (a, ErrKind.uncorrectable x) ∉ s.errs

/-- A commit in force at a phase of R380. -/
def AtPhase (s : State) (k : Nat) : Prop := isReady s = true ∧ s.commit.state = 3 ∧ s.commit.phase = k

end Sys2Proof.Says

/-! ### Steps and their records (12, 18) -/

/-- 12 R324–R331, R339, R342, R345, 18 R488: a step that starts is the first committed, its trees have a root with no parent and their
ancestor words, and who does each part of its layers is planned (01 R14); with none committed, or while a dataset cannot be read, none
starts; a committed step stays within the token budget; a completed step leaves the flight and the partition's next boundary is the next
tick, and while its record does not fit the step is not complete; a status-only record takes every entry owed; a contained partition
resumes. A print that is back starts the prefill, an adopted session whose pages are late ends (15 R437), and page packets held too long
are freed and counted (R355). -/
def Obligations.StepsStartCompleteAndReport : Prop :=
  (∀ s p drafts s0 s1, mayStep s p = true → commitsUpTo s p = s0 → (if mayCommit s0 p then commitAll s0 p else s0) = s1 →
    ((getPart s1 p).committed = [] → exec (.stepStart p drafts) s = .next s1) ∧
    (∀ c rest, (getPart s1 p).committed = c :: rest → dataHeld s1 p c = true → exec (.stepStart p drafts) s = .next s1) ∧
    (∀ c rest, (getPart s1 p).committed = c :: rest → dataHeld s1 p c = false →
      ∃ u f, exec (.stepStart p drafts) s = .next u ∧ (getPart u p).flight = some f ∧ f.step = c ∧ f.start = s1.now ∧
        f.plan = planOf c.inStack ∧ (getPart u p).committed = rest ∧
        ∀ t, t ∈ f.trees → t.words = ancestorWords t.nodes ∧ ∃ root more, t.nodes = root :: more ∧ root.parent = 0xFFFF)) ∧
  (∀ s p c, (getPart (commitOne s p) p).committed = (getPart s p).committed ++ [c] →
    (c.shares.map (fun x => x.tokens)).sum ≤ objNat s (0x5200 + p) 3) ∧
  (∀ s p f r w, StepEnds s p f → completeWork s p f r = w → recordRoom s p (recordsSize (recordEntries p w)) = true →
    ∃ u, exec (.stepComplete p r) s = .next u ∧ (getPart u p).flight = none ∧ (getPart u p).doneNo = some f.step.number ∧
      (getPart u p).boundary = s.now + 1) ∧
  (∀ s p f r w, StepEnds s p f → completeWork s p f r = w → recordRoom s p (recordsSize (recordEntries p w)) = false →
    exec (.stepComplete p r) s = .next (countWait s p)) ∧
  (∀ s p, isReady s = true → p < 16 → hasRing s p = true → (getPart s p).flight = none → (getPart s p).owed ≠ [] →
    recordRoom s p (recordsSize ((getPart s p).owed.map statusBytes)) = true →
    ∃ u, exec (.statusOnlyRecord p) s = .next u ∧ (getPart u p).owed = [] ∧
      (getPart u p).ring.producer = (getPart s p).ring.producer + recordsSize ((getPart s p).owed.map statusBytes)) ∧
  (∀ s p d, isReady s = true → p < 16 → (getPart s p).contained = some d → (getPart s p).sessions = [] → workRuns s p = false →
    causeClear s p (fld d 23 16) = true →
    exec (.partitionResume p) s = .next (updPart s p (fun x => { x with contained := none }))) ∧
  (∀ s p h y s1, isReady s = true → p < 16 → sessionOf (getPart s p) h = some y → y.state = .admitted →
    returnPages s p h y.pages = (s1, true) →
    ∃ u, exec (.printComplete p h) s = .next u ∧ sessionOf (getPart u p) h = some { y with state := .prefill } ∧
      (getPart u p).owed = (getPart s p).owed) ∧
  (∀ s p h y, isReady s = true → p < 16 → sessionOf (getPart s p) h = some y → y.state = .receiving →
    y.admittedAt + objNat s 0x5000 8 ≤ s.now →
    ∃ u e, exec (.receiveTimeout p h) s = .next u ∧
      sessionOf (getPart u p) h = some { y with state := .draining, ended := true, final := some 0x17 } ∧
      e ∈ (getPart u p).owed ∧ e.status = 0x17 ∧ e.opcode = 0 ∧ e.handle = h ∧ e.detail = 0) ∧
  (∀ s p h, isReady s = true → p < 16 → ∃ u, exec (.pagePacketHoldExpiry p h) s = .next u ∧
    (∀ e, e ∈ (getPart u p).heldPages ↔ e ∈ (getPart s p).heldPages ∧ ¬(e.handle = h ∧ e.since + objNat s 0x5000 8 ≤ s.now)) ∧
    counter u (0x5200 + p) 0x10 + (getPart u p).heldPages.length = counter s (0x5200 + p) 0x10 + (getPart s p).heldPages.length)

/-! ### Rings and the host link (14) -/

/-- 14 R384–R386, R402, R404, R407: the host's words of the control block are seen at once over CXL and at a poll over PCIe; the ring's
message goes out when it is due; the link trains, is lost and counted, and at the limit of its loss every
partition not yet contained has a containment found. -/
def Obligations.RingsAndTheLinkTakeTheirEvents : Prop :=
  (∀ s p (b : List Byte), isReady s = true → p < 16 → hasRing s p = true → 2 ≤ s.link.level → b.length = 16 →
    ∃ u, exec (.ringControlWrite p 0 b) s = .next u ∧ (getPart u p).ring.consumer = leNat (b.take 8) ∧
      (getPart u p).ring.want = BitVec.ofNat 64 (leNat (b.drop 8)) ∧ (getPart u p).ring.producer = (getPart s p).ring.producer ∧
      (∀ a, rawByte u a = if ringControl s p + 64 ≤ a ∧ a < ringControl s p + 80 then b.getD (a - (ringControl s p + 64)) 0
        else rawByte s a)) ∧
  (∀ s p off b, isReady s = true → p < 16 → hasRing s p = true → s.link.level < 2 → off + b.length ≤ 64 →
    exec (.ringControlWrite p off b) s = .next (pokeRaw s (ringControl s p + 64 + off) b false)) ∧
  (∀ s p, isReady s = true → p < 16 → hasRing s p = true → s.link.level = 1 → dueEvery s 64 = true →
    ∃ u, exec (.controlBlockPoll p) s = .next u ∧
      (getPart u p).ring.consumer = bytesAt (peek s .direct (ringControl s p + 64) 16) 0 8 ∧
      (getPart u p).ring.want = BitVec.ofNat 64 (bytesAt (peek s .direct (ringControl s p + 64) 16) 8 8) ∧ u.mem = s.mem) ∧
  (∀ s p, isReady s = true → p < 16 → exec (.ringModerationTimer p) s = .next
    (if hasRing s p = true ∧ linkUp s = true ∧ wantFires s p = true then
      updRing (emit s (.msix (objNat s (0x6810 + p) 4))) p (fun r => { r with lastWant := r.want }) else s)) ∧
  (∀ s l, mayTrain s = true → linkOk l = true → ∃ u, exec (.linkTrained l) s = .next u ∧ u.link.level = l.level ∧
    u.link.width = l.width ∧ u.link.speed = l.speed ∧ u.link.since = s.now) ∧
  (∀ s, mayTrain s = true → linkUp s = true → ∃ u, exec .linkDown s = .next u ∧ linkUp u = false ∧ u.link.since = s.now ∧
    u.link.tracked = [] ∧ counter u 0x6800 0x16 = counter s 0x6800 0x16 + 1 ∧ u.parts = s.parts ∧ u.mem = s.mem) ∧
  (∀ s, isReady s = true → linkUp s = false → counter s 0x6800 0x16 ≠ 0 → s.link.since + objNat s 0x6800 7 ≤ s.now →
    ∃ u, exec .linkDownLimit s = .next u ∧ ∀ p, p < 16 →
      (getPart u p).cont = (getPart s p).cont ++
        (if (getPart s p).contained.isNone then [{ handle := none, cause := 6, code := 0 }] else []))

/-! ### The cadence, power and stops (10, 13, 17) -/

/-- 10 R252–R257: a tick advances the counter by 1, or by the whole error at a forward step, and while the counter follows pulses the tick
that ends a group comes with their edge; an announcement enters the choice of the best clock, and its times acquire, lock, take over or lose
the source; groups of N pulses do the same by their rates, and of a locked source advance the counter by D; a lost source returns to the
state it was acquired from, and a lost lock is holdover, counted. -/
def Obligations.TheCadenceCountsAndLocks : Prop :=
  (∀ s s0, isReady s = true → onPulses s = false ∨ s.now + 1 < groupEnd s → applyDue (commitsUpTo s 15) = s0 →
    ∃ u, exec .cadenceTick s = .next u ∧ u.now = s.now + 1 + s0.cad.stepBy ∧ u.prev = s.now) ∧
  (∀ s, onPulses s = true → groupEnd s ≤ s.now + 1 → exec .cadenceTick s = .next s) ∧
  (∀ s clock rank, ptpHeard s = true → sourceSelected s ≤ 1 → ∃ u, exec (.ptpMessage clock (.announce rank)) s = .next u ∧
    u.cad = { s.cad with master := bestMaster s.cad.master clock rank } ∧ u.now = s.now) ∧
  (∀ s clock timeNs off, SyncHeard s clock →
    (s.cad.lock = 0 ∨ s.cad.lock = 3 → ∃ u, exec (.ptpMessage clock (.sync timeNs off)) s = .next u ∧ u.cad.lock = 1 ∧ u.cad.source = 1 ∧
      u.cad.cameFrom = s.cad.lock ∧ u.cad.good = (if off.natAbs ≤ 1000 then 1 else 0)) ∧
    (s.cad.lock = 1 → s.cad.source = 1 → s.cad.good < 15 ∨ 1000 < off.natAbs →
      ∃ u, exec (.ptpMessage clock (.sync timeNs off)) s = .next u ∧ u.cad.lock = 1 ∧
        u.cad.good = (if off.natAbs ≤ 1000 then s.cad.good + 1 else 0)) ∧
    (s.cad.lock = 1 → s.cad.source = 1 → 15 ≤ s.cad.good → off.natAbs ≤ 1000 →
      ∃ u, exec (.ptpMessage clock (.sync timeNs off)) s = .next u ∧ u.cad.lock = 2 ∧ u.cad.source = 1 ∧
        (if (objNat s 0x2400 8 : Int) < ptpCount s timeNs - s.now then u.cad.stepBy = (ptpCount s timeNs - s.now).toNat
         else u.cad.stepBy = 0 ∧ u.cad.slew = ptpCount s timeNs - s.now)) ∧
    (s.cad.lock = 2 → s.cad.source = 1 → s.cad.bad < 3 ∨ off.natAbs ≤ 10000 →
      ∃ u, exec (.ptpMessage clock (.sync timeNs off)) s = .next u ∧ u.cad.lock = 2 ∧
        u.cad.bad = (if 10000 < off.natAbs then s.cad.bad + 1 else 0)) ∧
    (s.cad.lock = 2 → s.cad.source = 1 → 3 ≤ s.cad.bad → 10000 < off.natAbs →
      ∃ u, exec (.ptpMessage clock (.sync timeNs off)) s = .next u ∧ u.cad.lock = 3 ∧ counter u 0x2400 0xC = counter s 0x2400 0xC + 1) ∧
    (s.cad.lock = 2 → s.cad.source = 2 → sourceSelected s = 0 → 15 ≤ s.cad.ptpGood → off.natAbs ≤ 1000 →
      ∃ u, exec (.ptpMessage clock (.sync timeNs off)) s = .next u ∧ u.cad.lock = 2 ∧ u.cad.source = 1)) ∧
  (∀ s ps, PulseHeard s ps → s.cad.edges + 1 < pulsesN s →
    exec (.cadencePulse ps) s = .next { s with cad := { s.cad with edges := s.cad.edges + 1, groupPs := groupLength s ps } }) ∧
  (∀ s ps, PulseHeard s ps → pulsesN s ≤ s.cad.edges + 1 →
    (s.cad.lock = 0 ∨ s.cad.lock = 3 → rateOk s (groupLength s ps) = true → ∃ u, exec (.cadencePulse ps) s = .next u ∧ u.cad.lock = 1 ∧
      u.cad.source = 2 ∧ u.cad.cameFrom = s.cad.lock ∧ u.cad.groups = 1 ∧ u.cad.edges = 0) ∧
    (s.cad.lock = 1 → s.cad.source = 2 → rateOk s (groupLength s ps) = true → 63 ≤ s.cad.groups →
      (max s.cad.hi (groupLength s ps) - min s.cad.lo (groupLength s ps)) * 1000000 ≤ min s.cad.lo (groupLength s ps) →
      ∃ u, exec (.cadencePulse ps) s = .next u ∧ u.cad.lock = 2 ∧ u.cad.source = 2 ∧ u.cad.groupFrom = s.now) ∧
    (s.cad.lock = 1 → s.cad.source = 2 → rateOk s (groupLength s ps) = false →
      ∃ u, exec (.cadencePulse ps) s = .next u ∧ u.cad.lock = s.cad.cameFrom ∧ u.cad.source = 0) ∧
    (s.cad.lock = 2 → s.cad.source = 2 → rateOk s (groupLength s ps) = true → ∃ u, exec (.cadencePulse ps) s = .next u ∧
      u.now = max (s.cad.groupFrom + ticksD s) s.now ∧ u.cad.groupFrom = u.now) ∧
    (s.cad.lock = 2 → s.cad.source = 2 → rateOk s (groupLength s ps) = false → ∃ u, exec (.cadencePulse ps) s = .next u ∧ u.cad.lock = 3 ∧
      counter u 0x2400 0xC = counter s 0x2400 0xC + 1)) ∧
  (∀ s, isReady s = true → s.cad.lock = 1 → ∃ u, exec .sourceLost s = .next u ∧ u.cad.lock = s.cad.cameFrom ∧ u.cad.source = 0) ∧
  (∀ s why, isReady s = true → s.cad.lock = 2 → lossHolds s why = true → ∃ u, exec (.lockLost why) s = .next u ∧
    u.cad.lock = 3 ∧ u.cad.source = 0 ∧ counter u 0x2400 0xC = counter s 0x2400 0xC + 1 ∧ u.now = s.now)

/-- 10 R272, R273, 13 R375–R377, 17 R468–R470: a lease gives each partition its reservation and an equal share of what is left, its cores
what the draw of its other units leaves in equal shares to those that run, and the throttle cause says whether some core would exceed its
budget; a refill raises each regulated bucket to at most its depth; traffic debits an open bucket and waits at a shut one, and an unregulated
class is never shut; a sample is kept at its place in the ring. -/
def Obligations.LeasesRefillsTrafficAndSamples : Prop :=
  (∀ s m, isReady s = true → dueEvery s 64 = true → s.order < 1 → ∃ u, exec (.powerLeaseRenewal m) s = .next u ∧
    u.power.lastPower = m.package ∧ (s.now, m.peak) ∈ u.power.peaks ∧
    u.power.throttle = (if (List.range 64).any (coreThrottled u) then 1 else 0) ∧
    (∀ p, p < 16 → (getPart u p).budget = leaseOf s m p ∧ (getPart u p).coreBudget = leaseOf s m p - m.draws.getD p 0) ∧
    ∀ p t, p < 16 → t ∈ runningCores s p → (∀ q, q < 16 → t ∈ coresOf s q → q = p) →
      (getCore u t).share = (leaseOf s m p - m.draws.getD p 0) / (runningCores s p).length ∧ (getCore u t).draw = m.cores.getD t 0) ∧
  (∀ s s1, isReady s = true → dueEvery s 64 = true → s.order < 2 → applyRegulators (atPlace s 2) = s1 →
    ∃ u, exec .regulatorRefill s = .next u ∧ ∀ p k, p < 16 → k ∈ allRegs → bucket u p k =
      if objNat s1 (0x3400 + p) (regKey k).2 = 0xFFFFFFFF then bucket s1 p k
      else min (bucket s1 p k + ((objNat s1 (0x3400 + p) (regKey k).2 * regUnit k : Nat) : Int))
        ((objNat s1 (0x3400 + p) ((regKey k).2 + 1) * regUnit k : Nat) : Int)) ∧
  (∀ s p k n, isReady s = true → p < 16 → objNat s (0x3400 + p) (regKey k).2 ≠ 0xFFFFFFFF →
    (0 < bucket s p k → ∃ u, exec (.regulatedTrafficStart p k n) s = .next u ∧ bucket u p k = bucket s p k - n ∧ u.counters = s.counters) ∧
    (bucket s p k ≤ 0 → exec (.regulatedTrafficStart p k n) s = .next (bump s (0x3400 + p) 0xB 1))) ∧
  (∀ s p k n, isReady s = true → p < 16 → objNat s (0x3400 + p) (regKey k).2 = 0xFFFFFFFF →
    exec (.regulatedTrafficStart p k n) s = .next s) ∧
  (∀ s m, isReady s = true → dueEvery s (objNat s 0x7000 1) = true → s.order < 4 → s.power.stop < 4 →
    ∃ u, exec (.telemetrySample m) s = .next u ∧ counter u 0x7000 3 = counter s 0x7000 3 + 1 ∧
      sGet noSample u.samples (counter s 0x7000 3 % 4096) = sampleBytes s m (counter s 0x7000 3) ∧
      ∀ p, p < 16 → (getPart u p).tokensSince = 0)

/-- 10 R260–R268, 09 R249, 06 R157: a core, a partition and the device enter a stop when its conditions have held for the entry delay, and
leave it at a wake event; a tolerance is in force at once, and its write ends the device's stop; stop 6 is ready once every committed step is
complete, or at once in a Fatal state (18 R489). -/
def Obligations.StopsAreEnteredAndLeft : Prop :=
  (∀ s t p, isReady s = true → 1 ≤ objNat s 0x2000 4 → corePresent s t = true → ownerOfCore s t = some p → (getCore s t).gated = false →
    (getPart s p).stop = 0 → s.power.stop = 0 → exitLatency 1 ≤ tolerance s p → delayed s (getCore s t).restSince 1 = true →
    coreIdle (getCore s t) = true →
    exec (.stopEntry (.core t) 1) s = .next (updCore (readWord wStops s) t (fun c => { c with gated := true }))) ∧
  (∀ s p n, isReady s = true → n ≤ objNat s 0x2000 4 → p < 16 → 1 ≤ n → n ≤ 3 → partStop s p < n → s.power.stop = 0 →
    exitLatency n ≤ tolerance s p → delayed s (restedFrom s p n) n = true →
    (if n = 1 then restsIn1 s p = true else restsIn3 s p = true) →
    ∃ u, exec (.stopEntry (.partition p) n) s = .next u ∧ (getPart u p).stop = (if n = 1 then 0 else n) ∧ u.mem = s.mem ∧ u.beads = s.beads ∧
      (∀ t, t ∈ coresOf s p → (getCore u t).gated = true) ∧ (∀ t, t ∉ coresOf s p → getCore u t = getCore s t) ∧
      (n = 1 → ∀ t, getCore u t = { getCore s t with gated := (getCore u t).gated }) ∧
      (n ≤ 2 → ∀ t, (getCore u t).v = (getCore s t).v ∧ (getCore u t).a = (getCore s t).a ∧ (getCore u t).l = (getCore s t).l)) ∧
  (∀ s n, isReady s = true → n ≤ objNat s 0x2000 4 → n = 4 ∨ n = 5 → s.power.stop < n → (∀ p, p < 16 → (getPart s p).stop = 3) →
    exitLatency n ≤ deviceTolerance s → delayed s s.power.idleSince n = true → deviceRests s = true →
    ∃ u, exec (.stopEntry .device n) s = .next u ∧ u.power.stop = n ∧
      (s.power.stop = 0 → u.beads = [] ∧ u.watches = [] ∧ u.msgs = [] ∧ ∀ k, k < 9 → (getPort u k).state = 0) ∧
      ∀ k, k < 12 → stackPresent s k = true → (getStack u k).refresh = n - 2) ∧
  (∀ s t p, isReady s = true → corePresent s t = true → (getCore s t).gated = true → s.power.stop = 0 → ownerOfCore s t = some p →
    (getPart s p).stop = 0 →
    exec (.stopExit (.core t) .work) s = .next (updCore s t (fun c => { c with gated := false, restSince := s.now }))) ∧
  (∀ s p, isReady s = true → p < 16 → partStop s p ≠ 0 → s.power.stop = 0 →
    ∃ u, exec (.stopExit (.partition p) .work) s = .next u ∧ (getPart u p).stop = 0 ∧
      (∀ t, t ∈ coresOf s p → (getCore u t).gated = false) ∧ ((getPart s p).stop ≠ 3 → u.mem = s.mem)) ∧
  (∀ s why, isReady s = true → s.power.stop ≠ 0 → wakes s.power.stop why = true → why ≠ .tolerance →
    ∃ u, exec (.stopExit .device why) s = .next u ∧ u.power.stop = 0 ∧ u.mem = s.mem ∧
      (∀ k, k < 12 → stackPresent s k = true → (getStack u k).refresh =
        if 8500 < (getStack s k).dram ∨ (getStack s k).doubled = true ∧ 8300 ≤ (getStack s k).dram then 1 else 0) ∧
      ∀ p, p < 16 → (getPart u p).reckoned = s.now) ∧
  (∀ s p v, isReady s = true → p < 16 → ∃ u, exec (.latencyToleranceWrite p v) s = .next u ∧ tolerance u p = v.toNat ∧ u.power.stop = 0 ∧
    (getPart u p).stop = if deepestFor v.toNat 3 < partStop s p then (if deepestFor v.toNat 3 = 1 then 0 else deepestFor v.toNat 3)
      else (getPart s p).stop) ∧
  (∀ s, isReady s = true ∨ isFatal s = true → s.power.draining = true → s.power.powerDownReady = false →
    isFatal s = true ∨ (∀ p, p < 16 → (getPart s p).flight = none ∧ (getPart s p).committed = []) →
    ∃ u, exec .powerDownReady s = .next u ∧ u.power.powerDownReady = true ∧ pinPowerDownReady u = true)

/-! ### Commits and strips (16, 13, 06) -/

/-- 16 R454–R456, 13 R378–R381, 06 R150–R152: at its tick a commit takes the staged values, failing whole when one may no longer take effect;
held partitions hold, the phases run in order, and after a failure a rollback ends the commit and holds no partition. -/
def Obligations.CommitsRunTheirPhasesOrRollBack : Prop :=
  (∀ s e, AtCommitTick s → (s.staged.find? (refusedAtTick (commitTaken s))) = some e →
    ∃ u, exec .commitTick s = .next u ∧ u.commit.state = 6 ∧ u.commit.reason = 6 * 2 ^ 24 + e.1 ∧ u.commit.values = [] ∧
      u.staged = [] ∧ u.objs = s.objs ∧ u.parts = s.parts) ∧
  (∀ s, AtCommitTick s → (∀ e, e ∈ s.staged → refusedAtTick (commitTaken s) e = false) →
    ∃ u, exec .commitTick s = .next u ∧ u.staged = [] ∧ u.commit.ticked = true ∧ u.commit.tick = s.now ∧
      ∀ p e, p < 16 → e ∈ s.staged → p ∈ holdsFor (commitTaken s) e.1 e.2 → (getPart u p).held = true) ∧
  (∀ s p, isReady s = true → p < 16 → (getPart s p).held = true → (getPart s p).flight = none → (getPart s p).committed = [] →
    exec (.partitionHold p) s = .next (updPart s p (fun x => { x with holdReached := true }))) ∧
  (∀ s, isReady s = true → s.commit.state = 2 → s.commit.ticked = true → (∀ p, p ∈ s.commit.held → (getPart s p).holdReached = true) →
    ∃ u, exec .phasedCommitApply s = .next u ∧ u.commit.state = 3 ∧ u.commit.phase = 1 ∧ u.objs = s.objs ∧ u.parts = s.parts) ∧
  (∀ s e s1, AtPhase s 1 → s.commit.held.foldl (leavePlaces (withValues s s.commit.values)) (s, e.room) = (s1, true) →
    ∃ u, exec (.phaseComplete e) s = .next u ∧ u.commit.state = 3 ∧ u.commit.phase = 2 ∧ u.parts = s1.parts) ∧
  (∀ s e s1, AtPhase s 1 → s.commit.held.foldl (leavePlaces (withValues s s.commit.values)) (s, e.room) = (s1, false) →
    ∃ u, exec (.phaseComplete e) s = .next u ∧ u.commit.state = 4 ∧ u.commit.reason = 2 * 2 ^ 24) ∧
  (∀ s e, AtPhase s 2 → ∃ u, exec (.phaseComplete e) s = .next u ∧ u.commit.phase = 3 ∧ u.objs = s.objs) ∧
  (∀ s e, AtPhase s 3 → (∀ n, n < 12 → (getStack s n).stripOp = none) →
    (∀ v, v ∈ s.commit.values → keyIndex v.1 = 0x4040 → isPhased s v.1 v.2 = false) →
    ∃ u, exec (.phaseComplete e) s = .next u ∧ u.commit.phase = 4 ∧ u.objs = s.objs) ∧
  (∀ s e n, AtPhase s 3 → n < 12 → (getStack s n).stripOp.isSome = true → exec (.phaseComplete e) s = .next s) ∧
  (∀ s e, AtPhase s 4 → ∃ u, exec (.phaseComplete e) s = .next u ∧ u.commit.phase = 5) ∧
  (∀ s e s1 k, AtPhase s 5 → (phaseValues s [7, 8]).foldl (loadValue (withValues s s.commit.values) e.pool) (s, none) = (s1, some k) →
    ∃ u, exec (.phaseComplete e) s = .next u ∧ u.commit.state = 4 ∧ u.commit.reason = 4 * 2 ^ 24 + k) ∧
  (∀ s e s1, AtPhase s 5 → (phaseValues s [7, 8]).foldl (loadValue (withValues s s.commit.values) e.pool) (s, none) = (s1, none) →
    ∃ u, exec (.phaseComplete e) s = .next u ∧ u.commit.phase = 6 ∧ ∀ p, (getPart u p).model = (getPart s1 p).model) ∧
  (∀ s e, AtPhase s 6 → ∃ u, exec (.phaseComplete e) s = .next u ∧ u.commit.phase = 7) ∧
  (∀ s e, AtPhase s 7 → ∃ u, exec (.phaseComplete e) s = .next u ∧ u.commit.phase = 0 ∧
    ∀ p, p ∈ s.commit.held → (getPart u p).held = false) ∧
  (∀ s p, isReady s = true → s.commit.state = 2 → s.commit.ticked = true → p ∈ s.commit.held → (getPart s p).holdReached = false →
    s.commit.tick + objNat s 0x3010 1 ≤ s.now →
    exec (.holdLimit p) s = .next (updCommit s (fun c => { c with state := 4, reason := 1 * 2 ^ 24 }))) ∧
  (∀ s, isReady s = true → s.commit.state = 4 → ∃ u, exec .rollbackComplete s = .next u ∧ u.commit.state = 6 ∧ u.commit.phase = 0 ∧
    u.commit.values = [] ∧ ∀ p, p ∈ s.commit.held → (getPart u p).held = false) ∧
  StripBegins .seal 1 ∧ StripBegins .unseal 2 ∧
  (∀ s n o b, isReady s = true → stackPresent s n = true → (getStack s n).stripOp = some o → 
    o.isSeal = true ∨ o.clear = true ∨ (b = none ∧ NoBadBurst s) →
    ∃ u, exec (.stripOperationComplete n b) s = .next u ∧ (getStack u n).prot = (getStack s n).prot ^^^ o.regions ∧
      (getStack u n).trans = 0 ∧ (getStack u n).stripOp = none ∧ counter u (0x4000 + n) 0xF = counter s (0x4000 + n) 0xF + 1 ∧
      (o.clear = false → NoBadBurst s → u.mem = s.mem) ∧
      (o.clear = true → ∀ r, r < 16 → bitAt o.regions r = true → ∀ a, (regionRange s n r).1 ≤ a → a < (regionRange s n r).2 →
        rawByte u a = 0)) ∧
  (∀ s n o a r, isReady s = true → stackPresent s n = true → (getStack s n).stripOp = some o → o.isSeal = false → o.clear = false →
    r < 16 → bitAt o.regions r = true → (regionRange s n r).1 ≤ a → a < (regionRange s n r).2 →
    ∃ u, exec (.stripOperationComplete n (some a)) s = .next u ∧ u.commit.state = 4 ∧ u.commit.reason = 3 * 2 ^ 24 + objKey 0x4040 (n + 1) ∧
      (getStack u n).prot = (getStack s n).prot ∧ (getStack u n).stripOp = none ∧ counter u (0x4000 + n) 0xE = a / 128 * 128)

namespace Sys2Proof.Says

/-- A message `b` on a transport is heard: the transport answers, the message is received (leaving `s1`), it is not the one answered last, and
it spells the request `q`; `s2` is the state in which the request is handled (16 R443, R448–R450). -/
structure Heard (s : State) (tr : Transport) (b : List Byte) (q : Req) (s2 : State) : Prop where
  up : ebundUp s tr = true
  request : parseReq tr (messageOf tr b) = q
  received : ∃ s1, receive s tr b = (s1, true) ∧ dropIdle (wakeDevice s1) = s2
  fresh : s2.principals.find? (fun e => e.1 == principalOf tr && e.2.1 == messageOf tr b) = none

/-- The response sent, and kept for a repeat of the message (16 R448). -/
def answers (s2 : State) (tr : Transport) (b : List Byte) (q : Req) (s3 : State) (r : Reply) : State :=
  sendReply { s3 with principals := sIns s3.principals (principalOf tr) (messageOf tr b, replyBytes q r) } tr (udpKey s2) b (replyBytes q r)

/-- A successful reply with a value. -/
def saying (flags handle : Nat) (v : List Byte) : Reply := { abort := 0, flags := flags, handle := handle, value := v }

/-- A request to read an object, well formed, that passes its checks (16 R447). -/
structure Reads (s2 : State) (tr : Transport) (q : Req) : Prop where
  form : formCheck q = 0
  object : objectCheck s2 q = 0
  access : accessCheck (principalOf tr) q false = 0
  sound : poisonCheck s2 q (readValue s2 q).2 = 0

/-- A request to write a value whose length is `n`, likewise. -/
structure Puts (s2 : State) (tr : Transport) (q : Req) (n : Nat) : Prop where
  form : formCheck q = 0
  object : objectCheck s2 q = 0
  access : accessCheck (principalOf tr) q true = 0
  length : lengthCheck q n = 0

/-- A WRITE of the value `v` to one object passes every check of R447. -/
structure Writes (s2 : State) (tr : Transport) (q : Req) (index sub : Nat) (v : List Byte) : Prop where
  puts : Puts s2 tr q q.length
  op : q.op = 2
  names : q.index = index ∧ q.sub = sub
  body : q.body = v
  range : valueRange s2 index sub v = 0
  state : stateCheck s2 index sub (cleanValue index sub v) = 0

end Sys2Proof.Says

/-! ### Ebund (16, 17) -/

/-- 16 R443–R448, R452: a READ answers the value, a WRITE of a staged object stages it, DESCRIBE answers the descriptor, an unknown op, an
object that does not exist, a right that is missing and a value that lies in poisoned memory answer their abort with nothing written, and a
repeated message gets its kept response. -/
def Obligations.EbundRequestsAreAnswered : Prop :=
  (∀ s tr b q s2, Heard s tr b q s2 → q.op = 1 → Reads s2 tr q → (readValue s2 q).1.length ≤ 1008 →
    exec (.ebRead tr b) s = .next (answers s2 tr b q (afterRead s2 q) (saying (b2n (readValue s2 q).2) 0 (readValue s2 q).1))) ∧
  (∀ s tr b q s2 index sub v, Heard s tr b q s2 → Writes s2 tr q index sub v → accessOf index sub = 3 →
    exec (.ebWrite tr b) s = .next (answers s2 tr b q
      { s2 with staged := sIns s2.staged (objKey index sub) (cleanValue index sub v) } (saying 0 0 []))) ∧
  (∀ s tr b q s2, Heard s tr b q s2 → q.op = 8 → formCheck q = 0 → objectCheck s2 q = 0 →
    exec (.describe tr b) s = .next (answers s2 tr b q s2 (saying 0 0 (descriptor s2 q.index q.sub)))) ∧
  (∀ s tr b q s2, Heard s tr b q s2 → q.op = 0 ∨ 8 < q.op → formCheck q = 0x05040001 →
    exec (.unknownOp tr b) s = .next (answers s2 tr b q s2 (refuse q 0x05040001))) ∧
  (∀ s tr b q s2 c, Heard s tr b q s2 → q.op = 1 → formCheck q = 0 → objectCheck s2 q = c → c ≠ 0 →
    exec (.ebRead tr b) s = .next (answers s2 tr b q s2 (refuse q c))) ∧
  (∀ s tr b q s2 c, Heard s tr b q s2 → q.op = 2 → formCheck q = 0 → objectCheck s2 q = 0 → accessCheck (principalOf tr) q true = c → c ≠ 0 →
    exec (.ebWrite tr b) s = .next (answers s2 tr b q s2 (refuse q c))) ∧
  (∀ s tr b q s2, Heard s tr b q s2 → q.op = 1 → formCheck q = 0 → objectCheck s2 q = 0 → accessCheck (principalOf tr) q false = 0 →
    (readValue s2 q).1.length ≤ 1008 → (readValue s2 q).2 = false → s2.objPoison.contains (objKey q.index q.sub) = true →
    exec (.ebRead tr b) s = .next (answers s2 tr b q s2 (refuse q 0x08000024))) ∧
  (∀ s tr b q s1 old, ebundUp s tr = true → parseReq tr (messageOf tr b) = q → q.op = 1 → receive s tr b = (s1, true) →
    (wakeDevice s1).principals.find? (fun e => e.1 == principalOf tr && e.2.1 == messageOf tr b) = some old →
    exec (.ebRead tr b) s = .next (sendReply (wakeDevice s1) tr (udpKey (wakeDevice s1)) b old.2.2))

/-- R453: one shadow copy for all principals; a write of an RWS object replaces its staged value; a READ with flags bit 0 set returns the
staged value with bit 0 of the response's flags set or, when none is staged, the value in force with it clear; writing 1 to 0x7F00:06
empties the copy. -/
def Obligations.TheShadowCopyIsSharedAndReadBack : Prop :=
  (∀ s tr b q s2 index sub v, Heard s tr b q s2 → Writes s2 tr q index sub v → accessOf index sub = 3 →
    ∃ u, exec (.ebWrite tr b) s = .next u ∧ sGet [] u.staged (objKey index sub) = cleanValue index sub v ∧
      (∀ k, k ≠ objKey index sub → sGet [] u.staged k = sGet [] s2.staged k) ∧
      objBytes u index sub = objBytes s2 index sub) ∧
  (∀ s tr b q s2 r, Heard s tr b q s2 → q.op = 1 → Reads s2 tr q → bitAt q.flags 0 = true → (readValue s2 q).1.length ≤ 1008 →
    saying (b2n (readValue s2 q).2) 0 (readValue s2 q).1 = r →
    exec (.ebRead tr b) s = .next (answers s2 tr b q (afterRead s2 q) r) ∧
    (∀ e, s2.staged.find? (fun e => e.1 == objKey q.index q.sub) = some e → r.value = e.2 ∧ r.flags = 1) ∧
    (s2.staged.find? (fun e => e.1 == objKey q.index q.sub) = none → r.value = objRead s2 q.index q.sub ∧ r.flags = 0)) ∧
  (∀ s tr b q s2 v, Heard s tr b q s2 → Writes s2 tr q 0x7F00 6 v → leNat v = 1 →
    ∃ u, exec (.shadowClear tr b) s = .next u ∧ u.staged = [])

/-- 16 R450, R451: a transfer is opened, read or filled in any order of segments, ended, aborted, or closed when idle; SEG_END writes the
whole value when every byte of it came. Which handle a transfer gets is free (log entry 14). -/
def Obligations.SegmentedTransfersMoveAValue : Prop :=
  (∀ s tr b q s2 v, Heard s tr b q s2 → q.op = 3 → q.handle = 0 → q.offset = 0 → Reads s2 tr q → tooMany s2 (principalOf tr) = false →
    readValue s2 q = v → ∃ s3 h, 0 < h ∧ (s2.transfers.length ≤ 16 → ∀ x, x ∈ s2.transfers → x.handle ≠ h) ∧
      exec (.segRead tr b) s = .next (answers s2 tr b q s3
        (saying (b2n v.2 + 2 * b2n (decide (v.1.length ≤ 1008))) h (v.1.take 1008))) ∧
      s3.objs = s2.objs ∧ s3.staged = s2.staged) ∧
  (∀ s tr b q s2 x, Heard s tr b q s2 → q.op = 3 → formCheck q = 0 → q.handle ≠ 0 →
    findTransfer s2 (principalOf tr) q.handle false = some x → q.offset ≤ x.total →
    ∃ s3, exec (.segRead tr b) s = .next (answers s2 tr b q s3
      (saying (b2n x.staged + 2 * b2n (decide (x.total ≤ q.offset + 1008))) q.handle
        (sGetMany 0 x.data q.offset (min 1008 (x.total - q.offset))))) ∧ s3.objs = s2.objs) ∧
  (∀ s tr b q s2, Heard s tr b q s2 → q.op = 4 → Puts s2 tr q q.offset → tooMany s2 (principalOf tr) = false →
    ∃ s3 h x, exec (.segBegin tr b) s = .next (answers s2 tr b q s3 (saying 0 h [])) ∧ s3.transfers = s2.transfers ++ [x] ∧
      x.handle = h ∧ x.principal = principalOf tr ∧ x.write = true ∧ x.index = q.index ∧ x.sub = q.sub ∧ x.total = q.offset ∧ x.seen = [] ∧
      0 < h ∧ (s2.transfers.length ≤ 16 → ∀ y, y ∈ s2.transfers → y.handle ≠ h)) ∧
  (∀ s tr b q s2 x, Heard s tr b q s2 → q.op = 5 → formCheck q = 0 → findTransfer s2 (principalOf tr) q.handle true = some x →
    q.offset + q.length ≤ x.total → exec (.segWrite tr b) s = .next (answers s2 tr b q
      (touchTransfer s2 x.handle (fun y => { y with data := sSetMany 0 y.data q.offset q.body,
                                                    seen := sSetMany false y.seen q.offset (List.replicate q.length true) }))
      (saying 0 q.handle []))) ∧
  (∀ s tr b q s2 x s3, Heard s tr b q s2 → q.op = 6 → formCheck q = 0 → findTransfer s2 (principalOf tr) q.handle true = some x →
    x.seen.length = x.total → writeValue (closeTransfer s2 x.handle) x.index x.sub (sGetMany 0 x.data 0 x.total) = (s3, 0) →
    exec (.segEnd tr b) s = .next (answers s2 tr b q s3 (saying 0 q.handle []))) ∧
  (∀ s tr b q s2 x, Heard s tr b q s2 → q.op = 7 → formCheck q = 0 →
    s2.transfers.find? (fun x => x.handle == q.handle && x.principal == principalOf tr) = some x →
    exec (.segAbort tr b) s = .next (answers s2 tr b q (closeTransfer s2 x.handle) (saying 0 q.handle []))) ∧
  (∀ s h, ∃ u, exec (.segmentTimeout h) s = .next u ∧
    ∀ x, x ∈ u.transfers ↔ x ∈ s.transfers ∧ ¬(x.handle = h ∧ x.last + 1000000 ≤ s.now))

/-- 16 R454, 10 R268, 17 R466, R473: writes that act at once: a commit is requested with its token, stop 6 is asked for, the UDP key replaced
with its counter at 0, and an error log cleared with its overflow count. -/
def Obligations.WritesThatActAtOnce : Prop :=
  (∀ s tr b q s2 v, Heard s tr b q s2 → Writes s2 tr q 0x7F00 1 v → ∃ u, exec (.commitRequest tr b) s = .next u ∧
    u.commit.token = leNat v ∧ u.commit.ticked = false ∧ u.commit.tick = s2.now ∧ u.staged = s2.staged ∧
    u.commit.state = (if s2.staged.any (fun e => isPhased s2 e.1 e.2) then 2 else 1)) ∧
  (∀ s tr b q s2 v, Heard s tr b q s2 → Writes s2 tr q 0x2000 5 v → ∃ u, exec (.stop6Request tr b) s = .next u ∧ u.power.draining = true) ∧
  (∀ s tr b q s2 v, Heard s tr b q s2 → Writes s2 tr q 0x7800 0x20 v → ∃ u, exec (.hmacKeyWrite tr b) s = .next u ∧ udpKey u = v ∧
    counter u 0x7800 0x24 = 0) ∧
  (∀ s tr b q s2 v n, n < 12 → Heard s tr b q s2 → Writes s2 tr q (0x4810 + n) 8 v → ∃ u, exec (.stackLogClear tr b) s = .next u ∧
    (getStack u n).log = emptyLog ∧ counter u (0x4810 + n) 2 = 0) ∧
  (∀ s tr b q s2 v d, d < 2 → Heard s tr b q s2 → Writes s2 tr q (0x4820 + d) 5 v → ∃ u, exec (.dieLogClear tr b) s = .next u ∧
    dieLogOf u d = emptyLog ∧ counter u (0x4820 + d) 2 = 0)

/-! ### Firmware, resets and starts (17, 19, 20) -/

/-- 17 R474, 19 R505, R513–R515: a write reads its image and erases the inactive slot; the slot then holds the image, unless its read-back
differs, which is free (log entry 14); it is verified, activated or cancelled. -/
def Obligations.FirmwareUpdatesRun : Prop :=
  (∀ s a n s1 img, isReady s = true → s.fw.op = 1 → s.fw.update ≠ 1 → s.fw.update ≠ 2 → objNat s 0x7C00 0x10 = a → objNat s 0x7C00 0x11 = n →
    n ≠ 0 → accessHeld s a n = false → imageSource s a n = true → unitRead s a n = (s1, img, false) → bytesAt img 8 4 = n →
    ∃ u, exec .firmwareWrite s = .next u ∧ u.fw.update = 1 ∧ u.fw.op = 0 ∧ u.fw.image = img ∧ u.fw.pendingSlot = none ∧
      ∀ x, slotBase (1 - s.fw.slot) ≤ x → x < slotBase (2 - s.fw.slot) → sGet 0 u.hw.flash x = 0) ∧
  (∀ s, isReady s = true → s.fw.update = 1 → ∃ u, exec .flashWriteComplete s = .next u ∧
    ((u.fw.update = 2 ∧ ∀ i, i < s.fw.image.length → sGet 0 u.hw.flash (slotBase (1 - s.fw.slot) + i) = s.fw.image.getD i 0) ∨
     (u.fw.update = 4 ∧ u.fw.reason = 0x11 ∧ u.hw = s.hw))) ∧
  (∀ s, isReady s = true → s.fw.update = 2 → ∃ u, exec .firmwareVerifyComplete s = .next u ∧ u.hw = s.hw ∧
    (if imageReason s.hw (slotImage s.hw (1 - s.fw.slot)) = 0 then u.fw.update = 3
     else u.fw.update = 4 ∧ u.fw.reason = imageReason s.hw (slotImage s.hw (1 - s.fw.slot)))) ∧
  (∀ s, isReady s = true → s.fw.op = 2 → s.fw.update = 3 → ∃ u, exec .firmwareActivate s = .next u ∧
    u.fw.pendingSlot = some (1 - s.fw.slot) ∧ u.fw.op = 0 ∧ u.fw.slot = s.fw.slot ∧
    u.hw = writeSelector s.hw s.fw.slot (some (1 - s.fw.slot))) ∧
  (∀ s, isReady s = true → s.fw.op = 3 → s.fw.update = 3 → s.fw.pendingSlot.isSome = true → ∃ u, exec .firmwareCancel s = .next u ∧
    u.fw.pendingSlot = none ∧ u.fw.op = 0 ∧ u.fw.slot = s.fw.slot ∧ u.hw = writeSelector s.hw s.fw.slot none)

/-- 19 R494–R498, R514, 20 R521, R522, 14 R386: resets and lost rails leave nothing of the block's memory, registers and partitions; a start runs
as far as its environment lets it, and a sound one is ready, with one readiness message; a trial that runs late gives way to the active
slot; configuration requests are put off from phase 6 until ready. -/
def Obligations.ResetsAndStartsRun : Prop :=
  (∀ s ns, s.boot ≠ .off → 1000 ≤ ns → ∃ u, exec (.resetAssert ns) s = .next u ∧ u.boot = .reset ∧ u.mem = [] ∧ u.cores = [] ∧
    u.prara = [] ∧ u.parts = [] ∧ u.beads = [] ∧ u.objs = [] ∧ u.staged = [] ∧ u.link = Link.init ∧
    (s.fw.update ≠ 1 → s.fw.update ≠ 2 → u.hw = s.hw)) ∧
  (∀ s ns, ns < 1000 → exec (.resetAssert ns) s = .next s) ∧
  (∀ s rail ns, 10000 < ns → ∃ u, exec (.railOutOfRange rail ns) s = .next u ∧ u.boot = .off ∧ u.mem = [] ∧ u.cores = [] ∧ u.parts = []) ∧
  (∀ s rail ns, ns ≤ 10000 → exec (.railOutOfRange rail ns) s = .next s) ∧
  (∀ s env kind, mayTrain s = true → linkUp s = true →
    exec (.hotReset kind env) s = .next (coldRun env 0 (powerOff s (.starting 0)))) ∧
  (∀ s env, s.boot = .off ∨ s.boot = .reset → env.otherFail = none → env.reach < 6 →
    ∃ u, exec (.coldStart env) s = .next u ∧ u.boot = .starting env.reach ∧ u.mem = [] ∧ (1 ≤ env.reach → u.hw.variant = env.variant)) ∧
  (∀ s env h, s.boot = .off ∨ s.boot = .reset → env.otherFail = none → 11 ≤ env.reach → abandonUpdate s = h →
    (selector h).1.pending = none → slotValid h (selector h).1.active = true →
    ∃ u, exec (.coldStart env) s = .next u ∧ u.boot = .ready ∧ u.hw.variant = env.variant ∧ u.fw.slot = (selector h).1.active ∧
      u.mem = [] ∧ u.cores = [] ∧ u.parts = [] ∧ u.beads = [] ∧ u.objs = [] ∧ u.counters = [] ∧ u.cad = Cadence.init ∧
      u.out = s.out ++ [.readiness]) ∧
  (∀ s env n, s.boot = .starting n → exec (.coldStart env) s = .next (coldRun env n s)) ∧
  (∀ s n ms, s.boot = .starting n → 6 ≤ n → s.fw.trial = true → 30000 < ms →
    ∃ u, exec (.firmwareTrialTimeout ms) s = .next u ∧ u.boot = .starting 2 ∧ u.fw.trial = false ∧ u.fw.pendingSlot = none ∧
      u.fw.update = 4 ∧ u.fw.reason = 0x13) ∧
  (∀ s a, linkUp s = true → s.boot = .ready → exec (.configurationRequest a) s = .next (emit s (.config a))) ∧
  (∀ s a n, linkUp s = true → s.boot = .starting n → 6 ≤ n → exec (.configurationRequest a) s = .next (emit s (.crs a)))

/-- R231: each sync unit holds beads 0 to 4,095 of its die, each a 32-bit value and a poison bit of its own, and every bead reads 0 with poison
clear when the device first reports ready after a cold start, in the state of reset (log entry 1) as after every start that reaches ready. -/
def Obligations.BeadsReadZeroWhenTheDeviceIsReady : Prop :=
  (∀ s die n b, die < 2 → n < 4096 → getBead (setBead s die n b) die n = b ∧
    ∀ d m, d < 2 → m < 4096 → (d, m) ≠ (die, n) → getBead (setBead s die n b) d m = getBead s d m) ∧
  State.reset.boot = .ready ∧ (∀ die n, getBead State.reset die n = ⟨0, false⟩) ∧
  (∀ s u env, (s.boot = .off ∨ s.boot = .reset ∨ (s.beads = [] ∧ ∃ k, s.boot = .starting k)) → exec (.coldStart env) s = .next u →
    u.boot = .ready → ∀ die n, getBead u die n = ⟨0, false⟩)

namespace Sys2Proof.Says

/-- Port `n` works, and the first packet that waits there is `k`, of one kind. -/
structure FirstPacket (s : State) (n kind : Nat) (k : Packet) (rest : List Packet) : Prop where
  ready : isReady s = true
  present : portPresent s n = true
  front : (getPort s n).rx = k :: rest
  kind : k.kind = kind

/-- It is meant for this device. -/
def Ours (s : State) (k : Packet) : Prop := k.dstDev = objNat s 0x6000 1

/-- Its tag has a valid entry that names the port's peer (15 R430), or it travels on the page stream (R437). -/
def OnStream (s : State) (n : Nat) (k : Packet) : Prop :=
  (k.kind = 4 ∧ k.tag = 4095) ∨
  (k.kind ≠ 4 ∧ entryValid (streamEntry s k.dstPart k.tag) = true ∧ entryPeer (streamEntry s k.dstPart k.tag) = (getPort s n).peer)

/-- The packet is the next of its stream direction, and none waits behind it out of sequence. -/
def NextOfStream (s : State) (n : Nat) (k : Packet) : Prop :=
  sGet 0 (getPart s k.dstPart).rxNext (rxKey s n k) = k.seq ∧ sGet [] (getPart s k.dstPart).arrived (rxKey s n k) = []

/-- The partition's list of packets that have arrived on a stream direction, with one more. -/
def noted (s : State) (p key : Nat) (a : Arrival) : State :=
  updPart s p (fun x => { x with arrived := sSet [] x.arrived key (sGet [] x.arrived key ++ [a]) })

/-- A packet of ORDERED traffic taken in its turn: it is performed, its signal applied when it was, its ACK sent when asked for, and the
direction goes on to the next number (15 R425–R427). -/
def inTurn (s : State) (n : Nat) (k : Packet) (f : State → State × Nat) : State :=
  let key := rxKey s n k
  let r := f (noted (dropRx s n) k.dstPart key { port := n, pkt := k, performed := none })
  let s0 := freeRx r.1 n k
  let s1 := if r.2 = 0 then s0 else applySignal s0 k.dstPart k.signal (r.2 == 2)
  let s2 := if k.ackreq then ackPkt s1 n k.dstPart k else s1
  updPart s2 k.dstPart (fun x =>
    { x with rxNext := sSet 0 x.rxNext key ((k.seq + 1) % 65536),
             arrived := sSet [] x.arrived key ((sGet [] x.arrived key).filter (fun b => b.pkt.seq != k.seq)) })

/-- What the packet accesses can be reached now: a page packet always, a WRITE or a READ when its window meets no host memory behind a link
that is down and no stack whose port is shut (14 R386, 06 R163), and the regulator that the access comes under lets it start (13 R376). -/
def Reached (s : State) (k : Packet) : Prop :=
  k.kind = 4 ∨ (pktHeld s (streamEntry s k.dstPart k.tag) k = false ∧ pktOpen s (streamEntry s k.dstPart k.tag) k = true)

/-- A row that takes packets of a kind: in turn, out of turn, twice, for another device, or on no stream (R421–R430). -/
def PacketRow (row : Nat → Packet → Instr) (kind : Nat) (f : Nat → Packet → State → State × Nat) : Prop :=
  (∀ s n k rest, FirstPacket s n kind k rest → Ours s k → OnStream s n k → Reached s k → NextOfStream s n k → k.cls ≠ 1 →
    exec (row n k) s = .next (inTurn s n k (f n k))) ∧
  (∀ s n k rest, FirstPacket s n kind k rest → Ours s k → OnStream s n k → Reached s k → sGet [] (getPart s k.dstPart).arrived (rxKey s n k) = [] →
    k.cls = 1 → (sGet 0 (getPart s k.dstPart).rxNext (rxKey s n k) + 65536 - k.seq) % 65536 = 0 ∨
      32768 < (sGet 0 (getPart s k.dstPart).rxNext (rxKey s n k) + 65536 - k.seq) % 65536 →
    ∃ s1 c, f n k (takeRx s n k) = (s1, c) ∧ ∃ u, exec (row n k) s = .next u ∧
      (sGet 0 (getPart s1 k.dstPart).rxNext (rxKey s n k) ≠ k.seq → sGet [] (getPart s1 k.dstPart).arrived (rxKey s n k) = [] →
        u = noted s1 k.dstPart (rxKey s n k) { port := n, pkt := k, performed := some c })) ∧
  (∀ s n k rest, FirstPacket s n kind k rest → Ours s k → OnStream s n k → Reached s k →
    0 < (sGet 0 (getPart s k.dstPart).rxNext (rxKey s n k) + 65536 - k.seq) % 65536 →
    (sGet 0 (getPart s k.dstPart).rxNext (rxKey s n k) + 65536 - k.seq) % 65536 ≤ 32768 →
    exec (row n k) s = .next (bump (takeRx s n k) 0x6000 4 1)) ∧
  (∀ s n k rest, FirstPacket s n kind k rest → OnStream s n k → ¬Reached s k →
    exec (row n k) s = .next (if pktHeld s (streamEntry s k.dstPart k.tag) k ∨ (getPort s n).waited = true then s
      else bump (updPort s n (fun q => { q with waited := true })) (0x3400 + k.dstPart) 0x0B 1)) ∧
  (∀ s n k rest, FirstPacket s n kind k rest → ¬Ours s k → Reached s k → exec (row n k) s = .next (bump (takeRx s n k) 0x6000 3 1)) ∧
  (∀ s n k rest, FirstPacket s n kind k rest → Ours s k → ¬OnStream s n k → Reached s k →
    exec (row n k) s = .next (bump (takeRx s n k) (0x6100 + k.dstPart) 2 1))

/-- An SPDM responder answers on a transport: the device serves and the link or the management port is up (19 R510). -/
structure SpdmHeard (s : State) (tr : Transport) (m : List Byte) (code : Nat) : Prop where
  up : spdmUp s tr = true
  code : bytesAt m 1 1 = code

/-- Its version is settled, as the message's. -/
structure Settled12 (s : State) (tr : Transport) (m : List Byte) (v : Nat) : Prop where
  version : (spdmOf (wakeDevice s) tr).version = v
  set : v ≠ 0
  same : bytesAt m 0 1 = v

/-- The rows that take commands and read no memory. -/
def quietCommandRows : List (Nat → Instr) :=
  [.cancel, .close, .park, .resume, .setdue, .adapterLoad, .adapterRetire, .negPin, .negUnpin, .fence, .unknownOpcode]

/-- The rows of the cadence's sources, but for the pulses that the counter follows. -/
def CadenceRow (s : State) (c : Instr) : Prop :=
  (∃ k m, c = .ptpMessage k m) ∨ (∃ r, c = .cadencePulse r ∧ onPulses s = false) ∨ c = .sourceLost ∨ ∃ w, c = .lockLost w

/-- What a sensor event of stack `n` leaves as it was. -/
def SensorFrame (n : Nat) (s u : State) : Prop :=
  u.mem = s.mem ∧ u.cores = s.cores ∧ u.objs = s.objs ∧ u.staged = s.staged ∧ u.commit = s.commit ∧ u.beads = s.beads ∧
  u.counters = s.counters ∧ ∀ k, k ≠ n → getStack u k = getStack s k

end Sys2Proof.Says

/-! ### Span (15) -/

/-- 15 R417–R419, R423–R428, R432, R434: an XSEND whose checks pass queues its packets and waits at the head of its queue for the last ACK
(the model's choice, log entry 86); the first packet of a port goes out when its credits, frames, window and regulator allow, and is counted
when only the regulator holds it; a frame is taken whole and in order or NAKed; ports train, retrain, go down and give up their packets. -/
def Obligations.SpanPortsSendAndChangeState : Prop :=
  (∀ s t e x tag q s1, AtHead s t 4 0xAC e → e.send = none → accessHeld s (descAddr e) 128 = false →
    (startXsend t e).run s = .ok (x, tag, q) s1 →
    ∃ u w, exec (.xsend t) s = .next u ∧ w.peer = entryPeer q ∧ w.part = kernelPart s1 t ∧ w.tag = tag ∧ w.lost = false ∧
      queueOf (getCore u t) 4 = { e with started := true, send := some w } :: (queueOf (getCore s t) 4).drop 1 ∧
      (getCore u t).kernel = (getCore s t).kernel) ∧
  (∀ s n x r, isReady s = true → portPresent s n = true → (getPort s n).queue = x :: r → maySend s n x = true →
    (x.pkt.payload = [] ∨ regOpen s x.part .span = true) →
    ∃ u, exec (.spanPacketSend n) s = .next u ∧ u.out = s.out ++ [.packet n (packetHeader x.pkt ++ x.pkt.payload)] ∧ (getPort u n).queue = r ∧
      (getPort u n).unacked = (getPort s n).unacked ++ [((getPort s n).txFrame, [x])] ∧
      (getPort u n).txFrame = ((getPort s n).txFrame + 1) % 65536 ∧
      counter u (0x6010 + n) 0xA = counter s (0x6010 + n) 0xA + (16 + x.pkt.payload.length)) ∧
  (∀ s n x r, isReady s = true → portPresent s n = true → (getPort s n).queue = x :: r → maySend s n x = true →
    x.pkt.payload ≠ [] → regOpen s x.part .span = false → x.waited = false →
    ∃ u, exec (.spanPacketSend n) s = .next u ∧ (getPort u n).queue = { x with waited := true } :: r ∧ u.out = s.out ∧
      counter u (0x3400 + x.part) 0xB = counter s (0x3400 + x.part) 0xB + 1) ∧
  (∀ s n (f : Frame), isReady s = true → portPresent s n = true → (getPort s n).state = 2 →
    (f.fecOk = true → f.crcOk = true → f.number = (getPort s n).rxFrame → ∃ u, exec (.spanFrame n f) s = .next u ∧
      (getPort u n).rxFrame = (f.number + 1) % 65536 ∧ (getPort u n).nak = false ∧
      (getPort u n).rx = (getPort s n).rx ++ f.packets.filter (fun k => !reservedPkt k) ∧
      (getPort u n).unacked = ackFrames (getPort s n).unacked f.ack ∧ (getPort u n).peer = f.device ∧
      (getPort u n).state = if f.retrain then 3 else 2) ∧
    (f.fecOk = true → f.crcOk = true → f.number ≠ (getPort s n).rxFrame →
      exec (.spanFrame n f) s = .next (bump s (0x6010 + n) 5 f.corrected)) ∧
    (f.fecOk = false ∨ f.crcOk = false → ∃ u, exec (.spanFrame n f) s = .next u ∧ (getPort u n).nak = true ∧
      (getPort u n).rx = (getPort s n).rx ∧ (getPort u n).rxFrame = (getPort s n).rxFrame ∧
      (if 7 ≤ (getPort s n).fails then (getPort u n).state = 3 ∧ (getPort u n).fails = 0
       else (getPort u n).state = 2 ∧ (getPort u n).fails = (getPort s n).fails + 1))) ∧
  (∀ s n w peer caps, isReady s = true → portPresent s n = true → (getPort s n).state = 1 ∨ (getPort s n).state = 3 →
    w = 8 ∨ w = 4 ∨ w = 2 → objNat s 0x6000 1 ≠ 0x0FFF →
    ∃ u, exec (.trainingComplete n w peer caps) s = .next u ∧ (getPort u n).state = 2 ∧ (getPort u n).width = w ∧
      (getPort u n).peer = peer ∧ (getPort u n).caps = caps ∧ (getPort s n).queue <+: (getPort u n).queue ∧
      ((getPort s n).state = 1 → (getPort u n).txFrame = 0 ∧ (getPort u n).rxFrame = 0 ∧ (getPort u n).credits = [512, 512, 32])) ∧
  (∀ s n, isReady s = true → portPresent s n = true → (getPort s n).state = 1 ∨ (getPort s n).state = 3 →
    ∃ u, exec (.trainingTimeout n) s = .next u ∧ (getPort u n).state = 4 ∧ (getPort u n).unacked = [] ∧ (getPort u n).queue = []) ∧
  (∀ s n, isReady s = true → portPresent s n = true → (getPort s n).state = 4 → exec (.downRetry n) s = .next (setPortState s n 1)) ∧
  (∀ s n, isReady s = true → portPresent s n = true → (getPort s n).state = 2 →
    exec (.blockLockLoss n) s = .next (bump (setPortState s n 3) (0x6010 + n) 9 1)) ∧
  (∀ s n, isReady s = true → portPresent s n = true → (getPort s n).state ≠ 2 →
    ∃ u, exec (.portLoss n) s = .next u ∧ (getPort u n).unacked = [] ∧ (getPort u n).queue = [] ∧
      (getPort u n).state = (getPort s n).state)

/-- 15 R421, R423–R431, R435–R437, 13 R369: WRITE, READ and PAGE packets are taken in the order of their stream; a WRITE goes to its window in
the partition's own memory, and one outside its window or in another's memory is counted and discarded; an ACK moves its direction on and
completes what waited for it; a packet whose memory cannot be reached or whose regulator is empty waits; idle blocks do nothing; packets held
too long are discarded and contain their partitions. -/
def Obligations.SpanPacketsAreTakenInOrder : Prop :=
  PacketRow .spanWrite 1 (fun _ k s => performWrite s k.dstPart (streamEntry s k.dstPart k.tag) k) ∧
  PacketRow .spanRead 2 (fun _ k s => performRead s k.dstPart (streamEntry s k.dstPart k.tag) k) ∧
  PacketRow .spanPage 4 (fun _ k s => (arrivePage s k.dstPart k, if k.poison then 2 else 1)) ∧
  (∀ s p e k w a r, entryWindow e = w → w.1 + 4 * k.offset = a → bitAt (bytesAt e 14 1) 0 = true → w.2 ≠ 0 →
    4 * k.offset + k.payload.length ≤ w.2 → k.payload ≠ [] → (locBacked s (locate a) && fenced s p a k.payload.length) = false →
    unitWrite (debitAddr s p a k.payload.length) (if cacheMode s p then Path.direct else Path.home) a k.payload k.poison = r →
    performWrite s p e k = (r.1, if r.2 then 2 else 1)) ∧
  (∀ s p e k w a, entryWindow e = w → w.1 + 4 * k.offset = a → bitAt (bytesAt e 14 1) 0 = true → w.2 ≠ 0 →
    4 * k.offset + k.payload.length ≤ w.2 → k.payload ≠ [] → (locBacked s (locate a) && fenced s p a k.payload.length) = true →
    performWrite s p e k = (bump s (0x3000 + p) 0x10 1, 0)) ∧
  (∀ s p e k w, entryWindow e = w → bitAt (bytesAt e 14 1) 0 = false ∨ w.2 < 4 * k.offset + k.payload.length →
    performWrite s p e k = (bump s (0x6100 + p) 2 1, 0)) ∧
  (∀ s n k rest u, FirstPacket s n 8 k rest → Ours s k → k.tag ≠ 4095 → ackedTo (takeRx s n k) k.dstPart k.tag k.seq = some u →
    exec (.spanAck n k) s = .next (completeSends
      (updPart (takeRx s n k) k.dstPart (fun x => { x with lastAck := sSet 0 x.lastAck k.tag u })) k.dstPart k.tag u)) ∧
  (∀ s n k rest key, FirstPacket s n 8 k rest → Ours s k → k.tag = 4095 →
    (ackKeys (takeRx s n k) n k).find? (fun key => (ackedTo (takeRx s n k) k.dstPart key k.seq).isSome) = some key →
    ∀ u, ackedTo (takeRx s n k) k.dstPart key k.seq = some u →
    exec (.spanAck n k) s = .next (completeShips
      (updPart (takeRx s n k) k.dstPart (fun x => { x with lastAck := sSet 0 x.lastAck key u })) k.dstPart (getPort s n).peer (key % 16) u)) ∧
  (∀ s n k rest, FirstPacket s n 0 k rest → Ours s k → exec (.spanIdle n) s = .next (takeRx s n k)) ∧
  (∀ s dev x, isReady s = true → x ∈ s.spanHeld → x.pkt.dstDev = dev → x.since + objNat s 0x6000 2 ≤ s.now →
    upPorts s x.part dev = [] →
    ∃ u, exec (.spanHoldExpiry dev) s = .next u ∧
      (∀ y, y ∈ u.spanHeld ↔ y ∈ s.spanHeld ∧
        ¬(y.pkt.dstDev = dev ∧ y.since + objNat s 0x6000 2 ≤ s.now ∧ upPorts s y.part dev = [])) ∧
      ∃ c, c ∈ (getPart u x.part).cont ∧ c.cause = 5)

/-! ### DOE and attestation (14, 19) -/

/-- 14 R387, 19 R510–R512: DOE discovery and the CDAT are answered over the link, and an SPDM responder negotiates and then gives digests,
certificates, challenges and measurements. Message layouts are those of the standards the spec names (PRESUMED, log entry 22). -/
def Obligations.DoeAndAttestationAreAnswered : Prop :=
  (∀ s i v t next, isReady s = true → linkUp s = true →
    [((1, 0, 1) : Nat × Nat × Nat), (1, 1, 2), (0x1E98, 2, 3), (0x1F9A, 1, 0)][i]? = some (v, t, next) →
    exec (.doeDiscovery i) s = .next (doeReply (wakeDevice s) (natLe 2 v ++ natLe 1 t ++ natLe 1 next))) ∧
  (∀ s h e, isReady s = true → linkUp s = true → (cdat s (freeNat s))[h]? = some e →
    exec (.cdatTableAccess h) s = .next (doeReply (wakeDevice (drew s))
      (natLe 2 0 ++ natLe 2 (if h + 1 < (cdat s (freeNat s)).length then h + 1 else 0xFFFF) ++ e))) ∧
  (∀ s tr m, SpdmHeard s tr m 0x84 → bytesAt m 0 1 = 0x10 → exec (.getVersion tr m) s =
    .next (sendSpdm (setSpdm (wakeDevice s) tr { version := 0, algorithms := false }) tr
      (spdmHead 0x10 0x04 0 0 ++ natLe 1 0 ++ natLe 1 2 ++ natLe 2 0x1200 ++ natLe 2 0x1300))) ∧
  (∀ s tr m v, SpdmHeard s tr m 0xE1 → bytesAt m 0 1 = v → v = 0x12 ∨ v = 0x13 → ∃ u, exec (.getCapabilities tr m) s = .next u ∧
    spdmOf u tr = { version := v, algorithms := false }) ∧
  (∀ s tr m v, SpdmHeard s tr m 0xE3 → Settled12 s tr m v → ∃ u, exec (.negotiateAlgorithms tr m) s = .next u ∧
    spdmOf u tr = { version := v, algorithms := true }) ∧
  (∀ s tr m v, SpdmHeard s tr m 0x81 → Settled12 s tr m v → (spdmOf (wakeDevice s) tr).algorithms = true →
    exec (.getDigests tr m) s = .next (sendSpdm (wakeDevice s) tr
      (spdmHead v 0x01 (if v == 0x13 then 1 else 0) 1 ++ sha384 s.hw.certChain))) ∧
  (∀ s tr m v off n, SpdmHeard s tr m 0x82 → Settled12 s tr m v → (spdmOf (wakeDevice s) tr).algorithms = true → bytesAt m 2 1 % 16 = 0 →
    bytesAt m 4 2 = off → off ≤ s.hw.certChain.length → min (bytesAt m 6 2) (s.hw.certChain.length - off) = n →
    exec (.getCertificate tr m) s = .next (sendSpdm (wakeDevice s) tr
      (spdmHead v 0x02 0 0 ++ natLe 2 n ++ natLe 2 (s.hw.certChain.length - off - n) ++ (s.hw.certChain.drop off).take n))) ∧
  (∀ s tr m v, SpdmHeard s tr m 0x83 → Settled12 s tr m v → (spdmOf (wakeDevice s) tr).algorithms = true → bytesAt m 2 1 = 0 →
    ∃ nonce sig, nonce.length = 32 ∧ sig.length = 96 ∧ exec (.challenge tr m) s = .next (sendSpdm (drew (drew (wakeDevice s))) tr
      (spdmHead v 0x03 0 1 ++ sha384 s.hw.certChain ++ nonce ++ summaryHash s (bytesAt m 3 1) ++ natLe 2 0
        ++ (if v == 0x13 then (m.drop 36).take 8 else []) ++ sig))) ∧
  (∀ s tr m v i d, SpdmHeard s tr m 0xE0 → Settled12 s tr m v → (spdmOf (wakeDevice s) tr).algorithms = true → bytesAt m 2 1 % 2 = 1 →
    bytesAt m 3 1 = i + 1 → i < 254 → s.fw.measures[i]? = some d →
    ∃ nonce sig, nonce.length = 32 ∧ sig.length = 96 ∧ exec (.getMeasurements tr m) s = .next (sendSpdm (drew (drew (wakeDevice s))) tr
      (spdmHead v 0x60 0 0 ++ natLe 1 1 ++ natLe 3 (measureBlock i d).length ++ measureBlock i d ++ nonce ++ natLe 2 0
        ++ (if v == 0x13 then (m.drop 37).take 8 else []) ++ sig)))

/-! ### What commands and events leave as they were -/

/-- What the rows of serving, cadence, temperature, link, ports and Ebund reads leave as it was: a command that reads no memory touches its
partition, the stewards' counts and the counters alone; a clock event the cadence alone, but for the pulses that the counter follows; a
sensor event of a stack no memory, core or object, and a trip's release then runs the sequencers' orders that were held; a lost link no partition or memory; a port's change of state only that port; an Ebund READ or DESCRIBE no object, staged
value, memory, core or partition. -/
def Obligations.CommandsAndEventsTouchOnlyTheirOwn : Prop :=
  (∀ row, row ∈ quietCommandRows → ∀ s p u, exec (row p) s = .next u →
    (∀ q, q ≠ p → getPart u q = getPart s q) ∧
    u = { s with free := u.free, parts := u.parts, stewards := u.stewards, counters := u.counters }) ∧
  (∀ s c u, CadenceRow s c → exec c s = .next u → u = { s with cad := u.cad, counters := u.counters, out := u.out }) ∧
  (∀ s n (dram base : Int) u, exec (.stackThrottle n dram base) s = .next u ∨ exec (.stackTrip n dram base) s = .next u →
    SensorFrame n s u) ∧
  (∀ s n (dram base : Int) u, exec (.stackTripRelease n dram base) s = .next u →
    ∃ w, (u = w ∨ u = (List.range 12).foldl drainOrders w) ∧ SensorFrame n s w) ∧
  (∀ s u, exec .linkDown s = .next u → u = { s with link := u.link, counters := u.counters }) ∧
  (∀ s n u, exec (.downRetry n) s = .next u ∨ exec (.blockLockLoss n) s = .next u →
    (∀ k, k ≠ n → getPort u k = getPort s k) ∧ u = { s with ports := u.ports, counters := u.counters }) ∧
  (∀ s tr b u, s.power.stop = 0 → exec (.ebRead tr b) s = .next u ∨ exec (.describe tr b) s = .next u →
    u.objs = s.objs ∧ u.staged = s.staged ∧ u.commit = s.commit ∧ u.mem = s.mem ∧ u.cores = s.cores ∧ u.parts = s.parts ∧
    u.prara = s.prara ∧ u.ports = s.ports ∧ u.beads = s.beads ∧ u.hw = s.hw ∧ u.fw = s.fw ∧ u.now = s.now)
end

