-- ==== Sys2Proof/Laws/Store.lean ====
section
/-! SUPPORT. What a sparse store holds after each of its operations, and that each keeps the canonical form. -/

namespace Sys2Proof.Machine

open Sys2Proof

variable {β : Type}

@[simp] theorem sGet_nil (d : β) (k : Nat) : sGet d [] k = d := rfl

theorem sGet_cons (d : β) (a : Nat) (b : β) (r : Store β) (k : Nat) :
    sGet d ((a, b) :: r) k = if a = k then b else sGet d r k := rfl

theorem sGet_sDel_same (d : β) (m : Store β) (k : Nat) : sGet d (sDel m k) k = d := by
  induction m with
  | nil => rfl
  | cons x r ih => obtain ⟨a, b⟩ := x; simp only [sDel]; split <;> simp_all [sGet]

theorem sGet_sDel_ne (d : β) (m : Store β) {j k : Nat} (h : j ≠ k) : sGet d (sDel m k) j = sGet d m j := by
  induction m with
  | nil => rfl
  | cons x r ih =>
    obtain ⟨a, b⟩ := x
    simp only [sDel]
    split
    · rename_i e; subst e; simp [sGet, ih, Ne.symm h]
    · simp [sGet, ih]

theorem sGet_sIns_same (d : β) (m : Store β) (k : Nat) (v : β) : sGet d (sIns m k v) k = v := by
  induction m with
  | nil => simp [sIns, sGet]
  | cons x r ih =>
    obtain ⟨a, b⟩ := x
    simp only [sIns]
    split
    · simp [sGet]
    · split
      · simp [sGet]
      · simp [sGet, ih]; omega

theorem sGet_sIns_ne (d : β) (m : Store β) {j k : Nat} (v : β) (h : j ≠ k) : sGet d (sIns m k v) j = sGet d m j := by
  induction m with
  | nil => simp [sIns, sGet, Ne.symm h]
  | cons x r ih =>
    obtain ⟨a, b⟩ := x
    simp only [sIns]
    split
    · simp [sGet, Ne.symm h]
    · split
      · rename_i e; subst e; simp [sGet, Ne.symm h]
      · simp [sGet, ih]

/-- A read after a write to the store: the written value at its key, the old one elsewhere. -/
theorem sGet_sSet [DecidableEq β] (d : β) (m : Store β) (k : Nat) (v : β) (j : Nat) :
    sGet d (sSet d m k v) j = if j = k then v else sGet d m j := by
  unfold sSet
  by_cases h : j = k
  · subst h; split <;> simp_all [sGet_sDel_same, sGet_sIns_same]
  · split <;> simp_all [sGet_sDel_ne, sGet_sIns_ne]

@[simp] theorem sGet_sSet_same [DecidableEq β] (d : β) (m : Store β) (k : Nat) (v : β) : sGet d (sSet d m k v) k = v := by
  simp [sGet_sSet]

theorem sGet_sSet_ne [DecidableEq β] (d : β) (m : Store β) {j k : Nat} (v : β) (h : j ≠ k) :
    sGet d (sSet d m k v) j = sGet d m j := by simp [sGet_sSet, h]

@[simp] theorem sGet_sMod_same [DecidableEq β] (d : β) (m : Store β) (k : Nat) (f : β → β) :
    sGet d (sMod d m k f) k = f (sGet d m k) := by simp [sMod]

theorem sGet_sMod [DecidableEq β] (d : β) (m : Store β) (k : Nat) (f : β → β) (j : Nat) :
    sGet d (sMod d m k f) j = if j = k then f (sGet d m k) else sGet d m j := by simp [sMod, sGet_sSet]

theorem sGet_sMod_ne [DecidableEq β] (d : β) (m : Store β) {j k : Nat} (f : β → β) (h : j ≠ k) :
    sGet d (sMod d m k f) j = sGet d m j := by simp [sMod, sGet_sSet, h]

/-- A read after consecutive writes. -/
theorem sGet_sSetMany [DecidableEq β] (d : β) (v : List β) : ∀ (m : Store β) (k j : Nat),
    sGet d (sSetMany d m k v) j = if k ≤ j ∧ j < k + v.length then v.getD (j - k) d else sGet d m j := by
  induction v with
  | nil => intro m k j; rw [sSetMany, if_neg (by simp)]
  | cons x r ih =>
    intro m k j
    simp only [sSetMany, ih, sGet_sSet, List.length_cons]
    by_cases h : j = k
    · subst h; rw [if_neg (by omega), if_pos rfl, if_pos (by omega)]; simp
    · by_cases h2 : k + 1 ≤ j ∧ j < k + 1 + r.length
      · rw [if_pos h2, if_pos (by omega)]
        obtain ⟨i, hi⟩ : ∃ i, j - k = i + 1 := ⟨j - k - 1, by omega⟩
        rw [hi, show j - (k + 1) = i by omega]; simp
      · rw [if_neg h2, if_neg h, if_neg (by omega)]

theorem length_sGetMany (d : β) (m : Store β) : ∀ k n, (sGetMany d m k n).length = n
  | _, 0 => rfl
  | k, n + 1 => by simp [sGetMany, length_sGetMany d m (k + 1) n]

/-- Consecutive reads of keys that consecutive writes wrote. -/
theorem sGetMany_sSetMany [DecidableEq β] (d : β) (m : Store β) (v : List β) (k : Nat) :
    sGetMany d (sSetMany d m k v) k v.length = v := by
  have key : ∀ (n i : Nat), i + n = v.length → sGetMany d (sSetMany d m k v) (k + i) n = v.drop i := by
    intro n
    induction n with
    | zero => intro i hi; simp [sGetMany]; omega
    | succ n ih =>
      intro i hi
      have h1 : i < v.length := by omega
      rw [sGetMany, sGet_sSetMany, if_pos (by omega), show k + i + 1 = k + (i + 1) by omega, ih (i + 1) (by omega),
        List.drop_eq_getElem_cons h1]
      simp [h1]
  simpa using key v.length 0 (by omega)

/-! ### The canonical form -/

theorem sWfFrom_mono [DecidableEq β] (d : β) (m : Store β) {lo hi : Nat} (h : lo ≤ hi) (w : sWfFrom d hi m = true) :
    sWfFrom d lo m = true := by
  cases m with
  | nil => rfl
  | cons x r => obtain ⟨a, b⟩ := x; simp only [sWfFrom, Bool.and_eq_true, decide_eq_true_eq] at *; exact ⟨⟨by omega, w.1.2⟩, w.2⟩

theorem sWfFrom_sDel [DecidableEq β] (d : β) (k : Nat) : ∀ (m : Store β) (lo : Nat), sWfFrom d lo m = true →
    sWfFrom d lo (sDel m k) = true
  | [], _, _ => rfl
  | (a, b) :: r, lo, w => by
    simp only [sWfFrom, Bool.and_eq_true, decide_eq_true_eq] at w
    have ih := sWfFrom_sDel d k r (a + 1) w.2
    simp only [sDel]
    split
    · exact sWfFrom_mono d _ (by omega) ih
    · simp only [sWfFrom, Bool.and_eq_true, decide_eq_true_eq]; exact ⟨w.1, ih⟩

theorem sWfFrom_sIns [DecidableEq β] (d : β) (k : Nat) (v : β) (hv : v ≠ d) : ∀ (m : Store β) (lo : Nat), lo ≤ k →
    sWfFrom d lo m = true → sWfFrom d lo (sIns m k v) = true
  | [], lo, hk, _ => by simp [sIns, sWfFrom, hk, hv]
  | (a, b) :: r, lo, hk, w => by
    simp only [sWfFrom, Bool.and_eq_true, decide_eq_true_eq] at w
    simp only [sIns]
    split
    · simp only [sWfFrom, Bool.and_eq_true, decide_eq_true_eq]
      exact ⟨⟨hk, by simp [hv]⟩, ⟨by omega, w.1.2⟩, w.2⟩
    · split
      · rename_i e; subst e; simp only [sWfFrom, Bool.and_eq_true, decide_eq_true_eq]; exact ⟨⟨hk, by simp [hv]⟩, w.2⟩
      · simp only [sWfFrom, Bool.and_eq_true, decide_eq_true_eq]
        exact ⟨w.1, sWfFrom_sIns d k v hv r (a + 1) (by omega) w.2⟩

/-- A deletion keeps the canonical form. -/
theorem sWf_sDel [DecidableEq β] {d : β} {m : Store β} (k : Nat) (w : sWf d m = true) : sWf d (sDel m k) = true :=
  sWfFrom_sDel d k m 0 w

/-- A write keeps the canonical form. -/
theorem sWf_sSet [DecidableEq β] {d : β} {m : Store β} (k : Nat) (v : β) (w : sWf d m = true) : sWf d (sSet d m k v) = true := by
  unfold sSet
  split
  · exact sWf_sDel k w
  · rename_i h; exact sWfFrom_sIns d k v h m 0 (by omega) w

/-- Consecutive writes keep the canonical form. -/
theorem sWf_sSetMany [DecidableEq β] {d : β} (v : List β) : ∀ {m : Store β} (k : Nat), sWf d m = true →
    sWf d (sSetMany d m k v) = true := by
  induction v with
  | nil => intro m k w; exact w
  | cons x r ih => intro m k w; exact ih (k + 1) (sWf_sSet k x w)

theorem sWfFrom_filter [DecidableEq β] (d : β) (f : Nat × β → Bool) : ∀ (m : Store β) (lo : Nat), sWfFrom d lo m = true →
    sWfFrom d lo (m.filter f) = true
  | [], _, _ => rfl
  | (a, b) :: r, lo, w => by
    simp only [sWfFrom, Bool.and_eq_true, decide_eq_true_eq] at w
    have ih := sWfFrom_filter d f r (a + 1) w.2
    simp only [List.filter]
    split
    · simp only [sWfFrom, Bool.and_eq_true, decide_eq_true_eq]; exact ⟨w.1, ih⟩
    · exact sWfFrom_mono d _ (by omega) ih

/-- Dropping a range of keys keeps the canonical form. -/
theorem sWf_sDropRange [DecidableEq β] {d : β} {m : Store β} (lo hi : Nat) (w : sWf d m = true) :
    sWf d (sDropRange m lo hi) = true := sWfFrom_filter d _ m 0 w

/-- A fold of steps that each keep the canonical form keeps it. -/
theorem sWf_foldl [DecidableEq β] {α : Type} {d : β} (f : Store β → α → Store β) (l : List α)
    (h : ∀ m a, sWf d m = true → sWf d (f m a) = true) : ∀ {m : Store β}, sWf d m = true → sWf d (l.foldl f m) = true := by
  induction l with
  | nil => intro m w; exact w
  | cons x r ih => intro m w; exact ih (h m x w)

end Sys2Proof.Machine
end

