-- ==== Sys2Proof/Laws/State.lean ====
section
/-! SUPPORT. What each update of the state leaves as it was, field by field and unit by unit, and what a read of the changed unit
gives after it. -/

namespace Sys2Proof.Machine

open Sys2Proof

variable (s : State)

/-! ### updCore -/

@[simp] theorem updCore_pending (t : Nat) (f : Core → Core) : (updCore s t f).pending = s.pending := rfl
@[simp] theorem updCore_free (t : Nat) (f : Core → Core) : (updCore s t f).free = s.free := rfl
@[simp] theorem updCore_boot (t : Nat) (f : Core → Core) : (updCore s t f).boot = s.boot := rfl
@[simp] theorem updCore_now (t : Nat) (f : Core → Core) : (updCore s t f).now = s.now := rfl
@[simp] theorem updCore_prev (t : Nat) (f : Core → Core) : (updCore s t f).prev = s.prev := rfl
@[simp] theorem updCore_order (t : Nat) (f : Core → Core) : (updCore s t f).order = s.order := rfl
@[simp] theorem updCore_out (t : Nat) (f : Core → Core) : (updCore s t f).out = s.out := rfl
@[simp] theorem updCore_hw (t : Nat) (f : Core → Core) : (updCore s t f).hw = s.hw := rfl
@[simp] theorem updCore_fw (t : Nat) (f : Core → Core) : (updCore s t f).fw = s.fw := rfl
@[simp] theorem updCore_tripl (t : Nat) (f : Core → Core) : (updCore s t f).tripl = s.tripl := rfl
@[simp] theorem updCore_voteFatal (t : Nat) (f : Core → Core) : (updCore s t f).voteFatal = s.voteFatal := rfl
@[simp] theorem updCore_mem (t : Nat) (f : Core → Core) : (updCore s t f).mem = s.mem := rfl
@[simp] theorem updCore_poison (t : Nat) (f : Core → Core) : (updCore s t f).poison = s.poison := rfl
@[simp] theorem updCore_cache (t : Nat) (f : Core → Core) : (updCore s t f).cache = s.cache := rfl
@[simp] theorem updCore_lineErr (t : Nat) (f : Core → Core) : (updCore s t f).lineErr = s.lineErr := rfl
@[simp] theorem updCore_objPoison (t : Nat) (f : Core → Core) : (updCore s t f).objPoison = s.objPoison := rfl
@[simp] theorem updCore_errs (t : Nat) (f : Core → Core) : (updCore s t f).errs = s.errs := rfl
@[simp] theorem updCore_beads (t : Nat) (f : Core → Core) : (updCore s t f).beads = s.beads := rfl
@[simp] theorem updCore_watches (t : Nat) (f : Core → Core) : (updCore s t f).watches = s.watches := rfl
@[simp] theorem updCore_msgs (t : Nat) (f : Core → Core) : (updCore s t f).msgs = s.msgs := rfl
@[simp] theorem updCore_stewards (t : Nat) (f : Core → Core) : (updCore s t f).stewards = s.stewards := rfl
@[simp] theorem updCore_prara (t : Nat) (f : Core → Core) : (updCore s t f).prara = s.prara := rfl
@[simp] theorem updCore_parts (t : Nat) (f : Core → Core) : (updCore s t f).parts = s.parts := rfl
@[simp] theorem updCore_ports (t : Nat) (f : Core → Core) : (updCore s t f).ports = s.ports := rfl
@[simp] theorem updCore_spanHeld (t : Nat) (f : Core → Core) : (updCore s t f).spanHeld = s.spanHeld := rfl
@[simp] theorem updCore_dieLog (t : Nat) (f : Core → Core) : (updCore s t f).dieLog = s.dieLog := rfl
@[simp] theorem updCore_objs (t : Nat) (f : Core → Core) : (updCore s t f).objs = s.objs := rfl
@[simp] theorem updCore_counters (t : Nat) (f : Core → Core) : (updCore s t f).counters = s.counters := rfl
@[simp] theorem updCore_staged (t : Nat) (f : Core → Core) : (updCore s t f).staged = s.staged := rfl
@[simp] theorem updCore_commit (t : Nat) (f : Core → Core) : (updCore s t f).commit = s.commit := rfl
@[simp] theorem updCore_principals (t : Nat) (f : Core → Core) : (updCore s t f).principals = s.principals := rfl
@[simp] theorem updCore_transfers (t : Nat) (f : Core → Core) : (updCore s t f).transfers = s.transfers := rfl
@[simp] theorem updCore_spdm (t : Nat) (f : Core → Core) : (updCore s t f).spdm = s.spdm := rfl
@[simp] theorem updCore_cad (t : Nat) (f : Core → Core) : (updCore s t f).cad = s.cad := rfl
@[simp] theorem updCore_power (t : Nat) (f : Core → Core) : (updCore s t f).power = s.power := rfl
@[simp] theorem updCore_link (t : Nat) (f : Core → Core) : (updCore s t f).link = s.link := rfl
@[simp] theorem updCore_faultsum (t : Nat) (f : Core → Core) : (updCore s t f).faultsum = s.faultsum := rfl
@[simp] theorem updCore_windowErrs (t : Nat) (f : Core → Core) : (updCore s t f).windowErrs = s.windowErrs := rfl
@[simp] theorem updCore_windowCrossed (t : Nat) (f : Core → Core) : (updCore s t f).windowCrossed = s.windowCrossed := rfl
@[simp] theorem updCore_samples (t : Nat) (f : Core → Core) : (updCore s t f).samples = s.samples := rfl
@[simp] theorem updCore_alert (t : Nat) (f : Core → Core) : (updCore s t f).alert = s.alert := rfl
@[simp] theorem updCore_coolantHigh (t : Nat) (f : Core → Core) : (updCore s t f).coolantHigh = s.coolantHigh := rfl
@[simp] theorem getStack_updCore (t : Nat) (f : Core → Core) (x : Nat) : getStack (updCore s t f) x = getStack s x := rfl
@[simp] theorem getPart_updCore (t : Nat) (f : Core → Core) (x : Nat) : getPart (updCore s t f) x = getPart s x := rfl
@[simp] theorem getSteward_updCore (t : Nat) (f : Core → Core) (x : Nat) : getSteward (updCore s t f) x = getSteward s x := rfl
@[simp] theorem getPort_updCore (t : Nat) (f : Core → Core) (x : Nat) : getPort (updCore s t f) x = getPort s x := rfl
@[simp] theorem getBead_updCore (t : Nat) (f : Core → Core) (x y : Nat) : getBead (updCore s t f) x y = getBead s x y := rfl
@[simp] theorem counter_updCore (t : Nat) (f : Core → Core) (x y : Nat) : counter (updCore s t f) x y = counter s x y := rfl
@[simp] theorem isReady_updCore (t : Nat) (f : Core → Core) : isReady (updCore s t f) = isReady s := rfl
@[simp] theorem corePresent_updCore (t : Nat) (f : Core → Core) (x : Nat) : corePresent (updCore s t f) x = corePresent s x := rfl
@[simp] theorem linkUp_updCore (t : Nat) (f : Core → Core) : linkUp (updCore s t f) = linkUp s := rfl

/-! ### updStack -/

@[simp] theorem updStack_pending (n : Nat) (f : Stack → Stack) : (updStack s n f).pending = s.pending := rfl
@[simp] theorem updStack_free (n : Nat) (f : Stack → Stack) : (updStack s n f).free = s.free := rfl
@[simp] theorem updStack_boot (n : Nat) (f : Stack → Stack) : (updStack s n f).boot = s.boot := rfl
@[simp] theorem updStack_now (n : Nat) (f : Stack → Stack) : (updStack s n f).now = s.now := rfl
@[simp] theorem updStack_prev (n : Nat) (f : Stack → Stack) : (updStack s n f).prev = s.prev := rfl
@[simp] theorem updStack_order (n : Nat) (f : Stack → Stack) : (updStack s n f).order = s.order := rfl
@[simp] theorem updStack_out (n : Nat) (f : Stack → Stack) : (updStack s n f).out = s.out := rfl
@[simp] theorem updStack_hw (n : Nat) (f : Stack → Stack) : (updStack s n f).hw = s.hw := rfl
@[simp] theorem updStack_fw (n : Nat) (f : Stack → Stack) : (updStack s n f).fw = s.fw := rfl
@[simp] theorem updStack_tripl (n : Nat) (f : Stack → Stack) : (updStack s n f).tripl = s.tripl := rfl
@[simp] theorem updStack_voteFatal (n : Nat) (f : Stack → Stack) : (updStack s n f).voteFatal = s.voteFatal := rfl
@[simp] theorem updStack_mem (n : Nat) (f : Stack → Stack) : (updStack s n f).mem = s.mem := rfl
@[simp] theorem updStack_poison (n : Nat) (f : Stack → Stack) : (updStack s n f).poison = s.poison := rfl
@[simp] theorem updStack_cache (n : Nat) (f : Stack → Stack) : (updStack s n f).cache = s.cache := rfl
@[simp] theorem updStack_lineErr (n : Nat) (f : Stack → Stack) : (updStack s n f).lineErr = s.lineErr := rfl
@[simp] theorem updStack_objPoison (n : Nat) (f : Stack → Stack) : (updStack s n f).objPoison = s.objPoison := rfl
@[simp] theorem updStack_errs (n : Nat) (f : Stack → Stack) : (updStack s n f).errs = s.errs := rfl
@[simp] theorem updStack_beads (n : Nat) (f : Stack → Stack) : (updStack s n f).beads = s.beads := rfl
@[simp] theorem updStack_watches (n : Nat) (f : Stack → Stack) : (updStack s n f).watches = s.watches := rfl
@[simp] theorem updStack_msgs (n : Nat) (f : Stack → Stack) : (updStack s n f).msgs = s.msgs := rfl
@[simp] theorem updStack_cores (n : Nat) (f : Stack → Stack) : (updStack s n f).cores = s.cores := rfl
@[simp] theorem updStack_stewards (n : Nat) (f : Stack → Stack) : (updStack s n f).stewards = s.stewards := rfl
@[simp] theorem updStack_parts (n : Nat) (f : Stack → Stack) : (updStack s n f).parts = s.parts := rfl
@[simp] theorem updStack_ports (n : Nat) (f : Stack → Stack) : (updStack s n f).ports = s.ports := rfl
@[simp] theorem updStack_spanHeld (n : Nat) (f : Stack → Stack) : (updStack s n f).spanHeld = s.spanHeld := rfl
@[simp] theorem updStack_dieLog (n : Nat) (f : Stack → Stack) : (updStack s n f).dieLog = s.dieLog := rfl
@[simp] theorem updStack_objs (n : Nat) (f : Stack → Stack) : (updStack s n f).objs = s.objs := rfl
@[simp] theorem updStack_counters (n : Nat) (f : Stack → Stack) : (updStack s n f).counters = s.counters := rfl
@[simp] theorem updStack_staged (n : Nat) (f : Stack → Stack) : (updStack s n f).staged = s.staged := rfl
@[simp] theorem updStack_commit (n : Nat) (f : Stack → Stack) : (updStack s n f).commit = s.commit := rfl
@[simp] theorem updStack_principals (n : Nat) (f : Stack → Stack) : (updStack s n f).principals = s.principals := rfl
@[simp] theorem updStack_transfers (n : Nat) (f : Stack → Stack) : (updStack s n f).transfers = s.transfers := rfl
@[simp] theorem updStack_spdm (n : Nat) (f : Stack → Stack) : (updStack s n f).spdm = s.spdm := rfl
@[simp] theorem updStack_cad (n : Nat) (f : Stack → Stack) : (updStack s n f).cad = s.cad := rfl
@[simp] theorem updStack_power (n : Nat) (f : Stack → Stack) : (updStack s n f).power = s.power := rfl
@[simp] theorem updStack_link (n : Nat) (f : Stack → Stack) : (updStack s n f).link = s.link := rfl
@[simp] theorem updStack_faultsum (n : Nat) (f : Stack → Stack) : (updStack s n f).faultsum = s.faultsum := rfl
@[simp] theorem updStack_windowErrs (n : Nat) (f : Stack → Stack) : (updStack s n f).windowErrs = s.windowErrs := rfl
@[simp] theorem updStack_windowCrossed (n : Nat) (f : Stack → Stack) : (updStack s n f).windowCrossed = s.windowCrossed := rfl
@[simp] theorem updStack_samples (n : Nat) (f : Stack → Stack) : (updStack s n f).samples = s.samples := rfl
@[simp] theorem updStack_alert (n : Nat) (f : Stack → Stack) : (updStack s n f).alert = s.alert := rfl
@[simp] theorem updStack_coolantHigh (n : Nat) (f : Stack → Stack) : (updStack s n f).coolantHigh = s.coolantHigh := rfl
@[simp] theorem getCore_updStack (n : Nat) (f : Stack → Stack) (x : Nat) : getCore (updStack s n f) x = getCore s x := rfl
@[simp] theorem getPart_updStack (n : Nat) (f : Stack → Stack) (x : Nat) : getPart (updStack s n f) x = getPart s x := rfl
@[simp] theorem getSteward_updStack (n : Nat) (f : Stack → Stack) (x : Nat) : getSteward (updStack s n f) x = getSteward s x := rfl
@[simp] theorem getPort_updStack (n : Nat) (f : Stack → Stack) (x : Nat) : getPort (updStack s n f) x = getPort s x := rfl
@[simp] theorem getBead_updStack (n : Nat) (f : Stack → Stack) (x y : Nat) : getBead (updStack s n f) x y = getBead s x y := rfl
@[simp] theorem counter_updStack (n : Nat) (f : Stack → Stack) (x y : Nat) : counter (updStack s n f) x y = counter s x y := rfl
@[simp] theorem isReady_updStack (n : Nat) (f : Stack → Stack) : isReady (updStack s n f) = isReady s := rfl
@[simp] theorem corePresent_updStack (n : Nat) (f : Stack → Stack) (x : Nat) : corePresent (updStack s n f) x = corePresent s x := rfl
@[simp] theorem linkUp_updStack (n : Nat) (f : Stack → Stack) : linkUp (updStack s n f) = linkUp s := rfl

/-! ### updPart -/

@[simp] theorem updPart_pending (p : Nat) (f : Part → Part) : (updPart s p f).pending = s.pending := rfl
@[simp] theorem updPart_free (p : Nat) (f : Part → Part) : (updPart s p f).free = s.free := rfl
@[simp] theorem updPart_boot (p : Nat) (f : Part → Part) : (updPart s p f).boot = s.boot := rfl
@[simp] theorem updPart_now (p : Nat) (f : Part → Part) : (updPart s p f).now = s.now := rfl
@[simp] theorem updPart_prev (p : Nat) (f : Part → Part) : (updPart s p f).prev = s.prev := rfl
@[simp] theorem updPart_order (p : Nat) (f : Part → Part) : (updPart s p f).order = s.order := rfl
@[simp] theorem updPart_out (p : Nat) (f : Part → Part) : (updPart s p f).out = s.out := rfl
@[simp] theorem updPart_hw (p : Nat) (f : Part → Part) : (updPart s p f).hw = s.hw := rfl
@[simp] theorem updPart_fw (p : Nat) (f : Part → Part) : (updPart s p f).fw = s.fw := rfl
@[simp] theorem updPart_tripl (p : Nat) (f : Part → Part) : (updPart s p f).tripl = s.tripl := rfl
@[simp] theorem updPart_voteFatal (p : Nat) (f : Part → Part) : (updPart s p f).voteFatal = s.voteFatal := rfl
@[simp] theorem updPart_mem (p : Nat) (f : Part → Part) : (updPart s p f).mem = s.mem := rfl
@[simp] theorem updPart_poison (p : Nat) (f : Part → Part) : (updPart s p f).poison = s.poison := rfl
@[simp] theorem updPart_cache (p : Nat) (f : Part → Part) : (updPart s p f).cache = s.cache := rfl
@[simp] theorem updPart_lineErr (p : Nat) (f : Part → Part) : (updPart s p f).lineErr = s.lineErr := rfl
@[simp] theorem updPart_objPoison (p : Nat) (f : Part → Part) : (updPart s p f).objPoison = s.objPoison := rfl
@[simp] theorem updPart_errs (p : Nat) (f : Part → Part) : (updPart s p f).errs = s.errs := rfl
@[simp] theorem updPart_beads (p : Nat) (f : Part → Part) : (updPart s p f).beads = s.beads := rfl
@[simp] theorem updPart_watches (p : Nat) (f : Part → Part) : (updPart s p f).watches = s.watches := rfl
@[simp] theorem updPart_msgs (p : Nat) (f : Part → Part) : (updPart s p f).msgs = s.msgs := rfl
@[simp] theorem updPart_cores (p : Nat) (f : Part → Part) : (updPart s p f).cores = s.cores := rfl
@[simp] theorem updPart_stewards (p : Nat) (f : Part → Part) : (updPart s p f).stewards = s.stewards := rfl
@[simp] theorem updPart_prara (p : Nat) (f : Part → Part) : (updPart s p f).prara = s.prara := rfl
@[simp] theorem updPart_ports (p : Nat) (f : Part → Part) : (updPart s p f).ports = s.ports := rfl
@[simp] theorem updPart_spanHeld (p : Nat) (f : Part → Part) : (updPart s p f).spanHeld = s.spanHeld := rfl
@[simp] theorem updPart_dieLog (p : Nat) (f : Part → Part) : (updPart s p f).dieLog = s.dieLog := rfl
@[simp] theorem updPart_objs (p : Nat) (f : Part → Part) : (updPart s p f).objs = s.objs := rfl
@[simp] theorem updPart_counters (p : Nat) (f : Part → Part) : (updPart s p f).counters = s.counters := rfl
@[simp] theorem updPart_staged (p : Nat) (f : Part → Part) : (updPart s p f).staged = s.staged := rfl
@[simp] theorem updPart_commit (p : Nat) (f : Part → Part) : (updPart s p f).commit = s.commit := rfl
@[simp] theorem updPart_principals (p : Nat) (f : Part → Part) : (updPart s p f).principals = s.principals := rfl
@[simp] theorem updPart_transfers (p : Nat) (f : Part → Part) : (updPart s p f).transfers = s.transfers := rfl
@[simp] theorem updPart_spdm (p : Nat) (f : Part → Part) : (updPart s p f).spdm = s.spdm := rfl
@[simp] theorem updPart_cad (p : Nat) (f : Part → Part) : (updPart s p f).cad = s.cad := rfl
@[simp] theorem updPart_power (p : Nat) (f : Part → Part) : (updPart s p f).power = s.power := rfl
@[simp] theorem updPart_link (p : Nat) (f : Part → Part) : (updPart s p f).link = s.link := rfl
@[simp] theorem updPart_faultsum (p : Nat) (f : Part → Part) : (updPart s p f).faultsum = s.faultsum := rfl
@[simp] theorem updPart_windowErrs (p : Nat) (f : Part → Part) : (updPart s p f).windowErrs = s.windowErrs := rfl
@[simp] theorem updPart_windowCrossed (p : Nat) (f : Part → Part) : (updPart s p f).windowCrossed = s.windowCrossed := rfl
@[simp] theorem updPart_samples (p : Nat) (f : Part → Part) : (updPart s p f).samples = s.samples := rfl
@[simp] theorem updPart_alert (p : Nat) (f : Part → Part) : (updPart s p f).alert = s.alert := rfl
@[simp] theorem updPart_coolantHigh (p : Nat) (f : Part → Part) : (updPart s p f).coolantHigh = s.coolantHigh := rfl
@[simp] theorem getCore_updPart (p : Nat) (f : Part → Part) (x : Nat) : getCore (updPart s p f) x = getCore s x := rfl
@[simp] theorem getStack_updPart (p : Nat) (f : Part → Part) (x : Nat) : getStack (updPart s p f) x = getStack s x := rfl
@[simp] theorem getSteward_updPart (p : Nat) (f : Part → Part) (x : Nat) : getSteward (updPart s p f) x = getSteward s x := rfl
@[simp] theorem getPort_updPart (p : Nat) (f : Part → Part) (x : Nat) : getPort (updPart s p f) x = getPort s x := rfl
@[simp] theorem getBead_updPart (p : Nat) (f : Part → Part) (x y : Nat) : getBead (updPart s p f) x y = getBead s x y := rfl
@[simp] theorem counter_updPart (p : Nat) (f : Part → Part) (x y : Nat) : counter (updPart s p f) x y = counter s x y := rfl
@[simp] theorem isReady_updPart (p : Nat) (f : Part → Part) : isReady (updPart s p f) = isReady s := rfl
@[simp] theorem corePresent_updPart (p : Nat) (f : Part → Part) (x : Nat) : corePresent (updPart s p f) x = corePresent s x := rfl
@[simp] theorem linkUp_updPart (p : Nat) (f : Part → Part) : linkUp (updPart s p f) = linkUp s := rfl

/-! ### updSteward -/

@[simp] theorem updSteward_pending (i : Nat) (f : Steward → Steward) : (updSteward s i f).pending = s.pending := rfl
@[simp] theorem updSteward_free (i : Nat) (f : Steward → Steward) : (updSteward s i f).free = s.free := rfl
@[simp] theorem updSteward_boot (i : Nat) (f : Steward → Steward) : (updSteward s i f).boot = s.boot := rfl
@[simp] theorem updSteward_now (i : Nat) (f : Steward → Steward) : (updSteward s i f).now = s.now := rfl
@[simp] theorem updSteward_prev (i : Nat) (f : Steward → Steward) : (updSteward s i f).prev = s.prev := rfl
@[simp] theorem updSteward_order (i : Nat) (f : Steward → Steward) : (updSteward s i f).order = s.order := rfl
@[simp] theorem updSteward_out (i : Nat) (f : Steward → Steward) : (updSteward s i f).out = s.out := rfl
@[simp] theorem updSteward_hw (i : Nat) (f : Steward → Steward) : (updSteward s i f).hw = s.hw := rfl
@[simp] theorem updSteward_fw (i : Nat) (f : Steward → Steward) : (updSteward s i f).fw = s.fw := rfl
@[simp] theorem updSteward_tripl (i : Nat) (f : Steward → Steward) : (updSteward s i f).tripl = s.tripl := rfl
@[simp] theorem updSteward_voteFatal (i : Nat) (f : Steward → Steward) : (updSteward s i f).voteFatal = s.voteFatal := rfl
@[simp] theorem updSteward_mem (i : Nat) (f : Steward → Steward) : (updSteward s i f).mem = s.mem := rfl
@[simp] theorem updSteward_poison (i : Nat) (f : Steward → Steward) : (updSteward s i f).poison = s.poison := rfl
@[simp] theorem updSteward_cache (i : Nat) (f : Steward → Steward) : (updSteward s i f).cache = s.cache := rfl
@[simp] theorem updSteward_lineErr (i : Nat) (f : Steward → Steward) : (updSteward s i f).lineErr = s.lineErr := rfl
@[simp] theorem updSteward_objPoison (i : Nat) (f : Steward → Steward) : (updSteward s i f).objPoison = s.objPoison := rfl
@[simp] theorem updSteward_errs (i : Nat) (f : Steward → Steward) : (updSteward s i f).errs = s.errs := rfl
@[simp] theorem updSteward_beads (i : Nat) (f : Steward → Steward) : (updSteward s i f).beads = s.beads := rfl
@[simp] theorem updSteward_watches (i : Nat) (f : Steward → Steward) : (updSteward s i f).watches = s.watches := rfl
@[simp] theorem updSteward_msgs (i : Nat) (f : Steward → Steward) : (updSteward s i f).msgs = s.msgs := rfl
@[simp] theorem updSteward_cores (i : Nat) (f : Steward → Steward) : (updSteward s i f).cores = s.cores := rfl
@[simp] theorem updSteward_prara (i : Nat) (f : Steward → Steward) : (updSteward s i f).prara = s.prara := rfl
@[simp] theorem updSteward_parts (i : Nat) (f : Steward → Steward) : (updSteward s i f).parts = s.parts := rfl
@[simp] theorem updSteward_ports (i : Nat) (f : Steward → Steward) : (updSteward s i f).ports = s.ports := rfl
@[simp] theorem updSteward_spanHeld (i : Nat) (f : Steward → Steward) : (updSteward s i f).spanHeld = s.spanHeld := rfl
@[simp] theorem updSteward_dieLog (i : Nat) (f : Steward → Steward) : (updSteward s i f).dieLog = s.dieLog := rfl
@[simp] theorem updSteward_objs (i : Nat) (f : Steward → Steward) : (updSteward s i f).objs = s.objs := rfl
@[simp] theorem updSteward_counters (i : Nat) (f : Steward → Steward) : (updSteward s i f).counters = s.counters := rfl
@[simp] theorem updSteward_staged (i : Nat) (f : Steward → Steward) : (updSteward s i f).staged = s.staged := rfl
@[simp] theorem updSteward_commit (i : Nat) (f : Steward → Steward) : (updSteward s i f).commit = s.commit := rfl
@[simp] theorem updSteward_principals (i : Nat) (f : Steward → Steward) : (updSteward s i f).principals = s.principals := rfl
@[simp] theorem updSteward_transfers (i : Nat) (f : Steward → Steward) : (updSteward s i f).transfers = s.transfers := rfl
@[simp] theorem updSteward_spdm (i : Nat) (f : Steward → Steward) : (updSteward s i f).spdm = s.spdm := rfl
@[simp] theorem updSteward_cad (i : Nat) (f : Steward → Steward) : (updSteward s i f).cad = s.cad := rfl
@[simp] theorem updSteward_power (i : Nat) (f : Steward → Steward) : (updSteward s i f).power = s.power := rfl
@[simp] theorem updSteward_link (i : Nat) (f : Steward → Steward) : (updSteward s i f).link = s.link := rfl
@[simp] theorem updSteward_faultsum (i : Nat) (f : Steward → Steward) : (updSteward s i f).faultsum = s.faultsum := rfl
@[simp] theorem updSteward_windowErrs (i : Nat) (f : Steward → Steward) : (updSteward s i f).windowErrs = s.windowErrs := rfl
@[simp] theorem updSteward_windowCrossed (i : Nat) (f : Steward → Steward) : (updSteward s i f).windowCrossed = s.windowCrossed := rfl
@[simp] theorem updSteward_samples (i : Nat) (f : Steward → Steward) : (updSteward s i f).samples = s.samples := rfl
@[simp] theorem updSteward_alert (i : Nat) (f : Steward → Steward) : (updSteward s i f).alert = s.alert := rfl
@[simp] theorem updSteward_coolantHigh (i : Nat) (f : Steward → Steward) : (updSteward s i f).coolantHigh = s.coolantHigh := rfl
@[simp] theorem getCore_updSteward (i : Nat) (f : Steward → Steward) (x : Nat) : getCore (updSteward s i f) x = getCore s x := rfl
@[simp] theorem getStack_updSteward (i : Nat) (f : Steward → Steward) (x : Nat) : getStack (updSteward s i f) x = getStack s x := rfl
@[simp] theorem getPart_updSteward (i : Nat) (f : Steward → Steward) (x : Nat) : getPart (updSteward s i f) x = getPart s x := rfl
@[simp] theorem getPort_updSteward (i : Nat) (f : Steward → Steward) (x : Nat) : getPort (updSteward s i f) x = getPort s x := rfl
@[simp] theorem getBead_updSteward (i : Nat) (f : Steward → Steward) (x y : Nat) : getBead (updSteward s i f) x y = getBead s x y := rfl
@[simp] theorem counter_updSteward (i : Nat) (f : Steward → Steward) (x y : Nat) : counter (updSteward s i f) x y = counter s x y := rfl
@[simp] theorem isReady_updSteward (i : Nat) (f : Steward → Steward) : isReady (updSteward s i f) = isReady s := rfl
@[simp] theorem corePresent_updSteward (i : Nat) (f : Steward → Steward) (x : Nat) : corePresent (updSteward s i f) x = corePresent s x := rfl
@[simp] theorem linkUp_updSteward (i : Nat) (f : Steward → Steward) : linkUp (updSteward s i f) = linkUp s := rfl

/-! ### updPort -/

@[simp] theorem updPort_pending (n : Nat) (f : Port → Port) : (updPort s n f).pending = s.pending := rfl
@[simp] theorem updPort_free (n : Nat) (f : Port → Port) : (updPort s n f).free = s.free := rfl
@[simp] theorem updPort_boot (n : Nat) (f : Port → Port) : (updPort s n f).boot = s.boot := rfl
@[simp] theorem updPort_now (n : Nat) (f : Port → Port) : (updPort s n f).now = s.now := rfl
@[simp] theorem updPort_prev (n : Nat) (f : Port → Port) : (updPort s n f).prev = s.prev := rfl
@[simp] theorem updPort_order (n : Nat) (f : Port → Port) : (updPort s n f).order = s.order := rfl
@[simp] theorem updPort_out (n : Nat) (f : Port → Port) : (updPort s n f).out = s.out := rfl
@[simp] theorem updPort_hw (n : Nat) (f : Port → Port) : (updPort s n f).hw = s.hw := rfl
@[simp] theorem updPort_fw (n : Nat) (f : Port → Port) : (updPort s n f).fw = s.fw := rfl
@[simp] theorem updPort_tripl (n : Nat) (f : Port → Port) : (updPort s n f).tripl = s.tripl := rfl
@[simp] theorem updPort_voteFatal (n : Nat) (f : Port → Port) : (updPort s n f).voteFatal = s.voteFatal := rfl
@[simp] theorem updPort_mem (n : Nat) (f : Port → Port) : (updPort s n f).mem = s.mem := rfl
@[simp] theorem updPort_poison (n : Nat) (f : Port → Port) : (updPort s n f).poison = s.poison := rfl
@[simp] theorem updPort_cache (n : Nat) (f : Port → Port) : (updPort s n f).cache = s.cache := rfl
@[simp] theorem updPort_lineErr (n : Nat) (f : Port → Port) : (updPort s n f).lineErr = s.lineErr := rfl
@[simp] theorem updPort_objPoison (n : Nat) (f : Port → Port) : (updPort s n f).objPoison = s.objPoison := rfl
@[simp] theorem updPort_errs (n : Nat) (f : Port → Port) : (updPort s n f).errs = s.errs := rfl
@[simp] theorem updPort_beads (n : Nat) (f : Port → Port) : (updPort s n f).beads = s.beads := rfl
@[simp] theorem updPort_watches (n : Nat) (f : Port → Port) : (updPort s n f).watches = s.watches := rfl
@[simp] theorem updPort_msgs (n : Nat) (f : Port → Port) : (updPort s n f).msgs = s.msgs := rfl
@[simp] theorem updPort_cores (n : Nat) (f : Port → Port) : (updPort s n f).cores = s.cores := rfl
@[simp] theorem updPort_stewards (n : Nat) (f : Port → Port) : (updPort s n f).stewards = s.stewards := rfl
@[simp] theorem updPort_prara (n : Nat) (f : Port → Port) : (updPort s n f).prara = s.prara := rfl
@[simp] theorem updPort_parts (n : Nat) (f : Port → Port) : (updPort s n f).parts = s.parts := rfl
@[simp] theorem updPort_spanHeld (n : Nat) (f : Port → Port) : (updPort s n f).spanHeld = s.spanHeld := rfl
@[simp] theorem updPort_dieLog (n : Nat) (f : Port → Port) : (updPort s n f).dieLog = s.dieLog := rfl
@[simp] theorem updPort_objs (n : Nat) (f : Port → Port) : (updPort s n f).objs = s.objs := rfl
@[simp] theorem updPort_counters (n : Nat) (f : Port → Port) : (updPort s n f).counters = s.counters := rfl
@[simp] theorem updPort_staged (n : Nat) (f : Port → Port) : (updPort s n f).staged = s.staged := rfl
@[simp] theorem updPort_commit (n : Nat) (f : Port → Port) : (updPort s n f).commit = s.commit := rfl
@[simp] theorem updPort_principals (n : Nat) (f : Port → Port) : (updPort s n f).principals = s.principals := rfl
@[simp] theorem updPort_transfers (n : Nat) (f : Port → Port) : (updPort s n f).transfers = s.transfers := rfl
@[simp] theorem updPort_spdm (n : Nat) (f : Port → Port) : (updPort s n f).spdm = s.spdm := rfl
@[simp] theorem updPort_cad (n : Nat) (f : Port → Port) : (updPort s n f).cad = s.cad := rfl
@[simp] theorem updPort_power (n : Nat) (f : Port → Port) : (updPort s n f).power = s.power := rfl
@[simp] theorem updPort_link (n : Nat) (f : Port → Port) : (updPort s n f).link = s.link := rfl
@[simp] theorem updPort_faultsum (n : Nat) (f : Port → Port) : (updPort s n f).faultsum = s.faultsum := rfl
@[simp] theorem updPort_windowErrs (n : Nat) (f : Port → Port) : (updPort s n f).windowErrs = s.windowErrs := rfl
@[simp] theorem updPort_windowCrossed (n : Nat) (f : Port → Port) : (updPort s n f).windowCrossed = s.windowCrossed := rfl
@[simp] theorem updPort_samples (n : Nat) (f : Port → Port) : (updPort s n f).samples = s.samples := rfl
@[simp] theorem updPort_alert (n : Nat) (f : Port → Port) : (updPort s n f).alert = s.alert := rfl
@[simp] theorem updPort_coolantHigh (n : Nat) (f : Port → Port) : (updPort s n f).coolantHigh = s.coolantHigh := rfl
@[simp] theorem getCore_updPort (n : Nat) (f : Port → Port) (x : Nat) : getCore (updPort s n f) x = getCore s x := rfl
@[simp] theorem getStack_updPort (n : Nat) (f : Port → Port) (x : Nat) : getStack (updPort s n f) x = getStack s x := rfl
@[simp] theorem getPart_updPort (n : Nat) (f : Port → Port) (x : Nat) : getPart (updPort s n f) x = getPart s x := rfl
@[simp] theorem getSteward_updPort (n : Nat) (f : Port → Port) (x : Nat) : getSteward (updPort s n f) x = getSteward s x := rfl
@[simp] theorem getBead_updPort (n : Nat) (f : Port → Port) (x y : Nat) : getBead (updPort s n f) x y = getBead s x y := rfl
@[simp] theorem counter_updPort (n : Nat) (f : Port → Port) (x y : Nat) : counter (updPort s n f) x y = counter s x y := rfl
@[simp] theorem isReady_updPort (n : Nat) (f : Port → Port) : isReady (updPort s n f) = isReady s := rfl
@[simp] theorem corePresent_updPort (n : Nat) (f : Port → Port) (x : Nat) : corePresent (updPort s n f) x = corePresent s x := rfl
@[simp] theorem linkUp_updPort (n : Nat) (f : Port → Port) : linkUp (updPort s n f) = linkUp s := rfl

/-! ### updEngine -/

@[simp] theorem updEngine_pending (n q : Nat) (f : Engine → Engine) : (updEngine s n q f).pending = s.pending := rfl
@[simp] theorem updEngine_free (n q : Nat) (f : Engine → Engine) : (updEngine s n q f).free = s.free := rfl
@[simp] theorem updEngine_boot (n q : Nat) (f : Engine → Engine) : (updEngine s n q f).boot = s.boot := rfl
@[simp] theorem updEngine_now (n q : Nat) (f : Engine → Engine) : (updEngine s n q f).now = s.now := rfl
@[simp] theorem updEngine_prev (n q : Nat) (f : Engine → Engine) : (updEngine s n q f).prev = s.prev := rfl
@[simp] theorem updEngine_order (n q : Nat) (f : Engine → Engine) : (updEngine s n q f).order = s.order := rfl
@[simp] theorem updEngine_out (n q : Nat) (f : Engine → Engine) : (updEngine s n q f).out = s.out := rfl
@[simp] theorem updEngine_hw (n q : Nat) (f : Engine → Engine) : (updEngine s n q f).hw = s.hw := rfl
@[simp] theorem updEngine_fw (n q : Nat) (f : Engine → Engine) : (updEngine s n q f).fw = s.fw := rfl
@[simp] theorem updEngine_tripl (n q : Nat) (f : Engine → Engine) : (updEngine s n q f).tripl = s.tripl := rfl
@[simp] theorem updEngine_voteFatal (n q : Nat) (f : Engine → Engine) : (updEngine s n q f).voteFatal = s.voteFatal := rfl
@[simp] theorem updEngine_mem (n q : Nat) (f : Engine → Engine) : (updEngine s n q f).mem = s.mem := rfl
@[simp] theorem updEngine_poison (n q : Nat) (f : Engine → Engine) : (updEngine s n q f).poison = s.poison := rfl
@[simp] theorem updEngine_cache (n q : Nat) (f : Engine → Engine) : (updEngine s n q f).cache = s.cache := rfl
@[simp] theorem updEngine_lineErr (n q : Nat) (f : Engine → Engine) : (updEngine s n q f).lineErr = s.lineErr := rfl
@[simp] theorem updEngine_objPoison (n q : Nat) (f : Engine → Engine) : (updEngine s n q f).objPoison = s.objPoison := rfl
@[simp] theorem updEngine_errs (n q : Nat) (f : Engine → Engine) : (updEngine s n q f).errs = s.errs := rfl
@[simp] theorem updEngine_beads (n q : Nat) (f : Engine → Engine) : (updEngine s n q f).beads = s.beads := rfl
@[simp] theorem updEngine_watches (n q : Nat) (f : Engine → Engine) : (updEngine s n q f).watches = s.watches := rfl
@[simp] theorem updEngine_msgs (n q : Nat) (f : Engine → Engine) : (updEngine s n q f).msgs = s.msgs := rfl
@[simp] theorem updEngine_cores (n q : Nat) (f : Engine → Engine) : (updEngine s n q f).cores = s.cores := rfl
@[simp] theorem updEngine_stewards (n q : Nat) (f : Engine → Engine) : (updEngine s n q f).stewards = s.stewards := rfl
@[simp] theorem updEngine_parts (n q : Nat) (f : Engine → Engine) : (updEngine s n q f).parts = s.parts := rfl
@[simp] theorem updEngine_ports (n q : Nat) (f : Engine → Engine) : (updEngine s n q f).ports = s.ports := rfl
@[simp] theorem updEngine_spanHeld (n q : Nat) (f : Engine → Engine) : (updEngine s n q f).spanHeld = s.spanHeld := rfl
@[simp] theorem updEngine_dieLog (n q : Nat) (f : Engine → Engine) : (updEngine s n q f).dieLog = s.dieLog := rfl
@[simp] theorem updEngine_objs (n q : Nat) (f : Engine → Engine) : (updEngine s n q f).objs = s.objs := rfl
@[simp] theorem updEngine_counters (n q : Nat) (f : Engine → Engine) : (updEngine s n q f).counters = s.counters := rfl
@[simp] theorem updEngine_staged (n q : Nat) (f : Engine → Engine) : (updEngine s n q f).staged = s.staged := rfl
@[simp] theorem updEngine_commit (n q : Nat) (f : Engine → Engine) : (updEngine s n q f).commit = s.commit := rfl
@[simp] theorem updEngine_principals (n q : Nat) (f : Engine → Engine) : (updEngine s n q f).principals = s.principals := rfl
@[simp] theorem updEngine_transfers (n q : Nat) (f : Engine → Engine) : (updEngine s n q f).transfers = s.transfers := rfl
@[simp] theorem updEngine_spdm (n q : Nat) (f : Engine → Engine) : (updEngine s n q f).spdm = s.spdm := rfl
@[simp] theorem updEngine_cad (n q : Nat) (f : Engine → Engine) : (updEngine s n q f).cad = s.cad := rfl
@[simp] theorem updEngine_power (n q : Nat) (f : Engine → Engine) : (updEngine s n q f).power = s.power := rfl
@[simp] theorem updEngine_link (n q : Nat) (f : Engine → Engine) : (updEngine s n q f).link = s.link := rfl
@[simp] theorem updEngine_faultsum (n q : Nat) (f : Engine → Engine) : (updEngine s n q f).faultsum = s.faultsum := rfl
@[simp] theorem updEngine_windowErrs (n q : Nat) (f : Engine → Engine) : (updEngine s n q f).windowErrs = s.windowErrs := rfl
@[simp] theorem updEngine_windowCrossed (n q : Nat) (f : Engine → Engine) : (updEngine s n q f).windowCrossed = s.windowCrossed := rfl
@[simp] theorem updEngine_samples (n q : Nat) (f : Engine → Engine) : (updEngine s n q f).samples = s.samples := rfl
@[simp] theorem updEngine_alert (n q : Nat) (f : Engine → Engine) : (updEngine s n q f).alert = s.alert := rfl
@[simp] theorem updEngine_coolantHigh (n q : Nat) (f : Engine → Engine) : (updEngine s n q f).coolantHigh = s.coolantHigh := rfl
@[simp] theorem getCore_updEngine (n q : Nat) (f : Engine → Engine) (x : Nat) : getCore (updEngine s n q f) x = getCore s x := rfl
@[simp] theorem getPart_updEngine (n q : Nat) (f : Engine → Engine) (x : Nat) : getPart (updEngine s n q f) x = getPart s x := rfl
@[simp] theorem getSteward_updEngine (n q : Nat) (f : Engine → Engine) (x : Nat) : getSteward (updEngine s n q f) x = getSteward s x := rfl
@[simp] theorem getPort_updEngine (n q : Nat) (f : Engine → Engine) (x : Nat) : getPort (updEngine s n q f) x = getPort s x := rfl
@[simp] theorem getBead_updEngine (n q : Nat) (f : Engine → Engine) (x y : Nat) : getBead (updEngine s n q f) x y = getBead s x y := rfl
@[simp] theorem counter_updEngine (n q : Nat) (f : Engine → Engine) (x y : Nat) : counter (updEngine s n q f) x y = counter s x y := rfl
@[simp] theorem isReady_updEngine (n q : Nat) (f : Engine → Engine) : isReady (updEngine s n q f) = isReady s := rfl
@[simp] theorem corePresent_updEngine (n q : Nat) (f : Engine → Engine) (x : Nat) : corePresent (updEngine s n q f) x = corePresent s x := rfl
@[simp] theorem linkUp_updEngine (n q : Nat) (f : Engine → Engine) : linkUp (updEngine s n q f) = linkUp s := rfl

/-! ### setBead -/

@[simp] theorem setBead_pending (d n : Nat) (b : Bead) : (setBead s d n b).pending = s.pending := rfl
@[simp] theorem setBead_free (d n : Nat) (b : Bead) : (setBead s d n b).free = s.free := rfl
@[simp] theorem setBead_boot (d n : Nat) (b : Bead) : (setBead s d n b).boot = s.boot := rfl
@[simp] theorem setBead_now (d n : Nat) (b : Bead) : (setBead s d n b).now = s.now := rfl
@[simp] theorem setBead_prev (d n : Nat) (b : Bead) : (setBead s d n b).prev = s.prev := rfl
@[simp] theorem setBead_order (d n : Nat) (b : Bead) : (setBead s d n b).order = s.order := rfl
@[simp] theorem setBead_out (d n : Nat) (b : Bead) : (setBead s d n b).out = s.out := rfl
@[simp] theorem setBead_hw (d n : Nat) (b : Bead) : (setBead s d n b).hw = s.hw := rfl
@[simp] theorem setBead_fw (d n : Nat) (b : Bead) : (setBead s d n b).fw = s.fw := rfl
@[simp] theorem setBead_tripl (d n : Nat) (b : Bead) : (setBead s d n b).tripl = s.tripl := rfl
@[simp] theorem setBead_voteFatal (d n : Nat) (b : Bead) : (setBead s d n b).voteFatal = s.voteFatal := rfl
@[simp] theorem setBead_mem (d n : Nat) (b : Bead) : (setBead s d n b).mem = s.mem := rfl
@[simp] theorem setBead_poison (d n : Nat) (b : Bead) : (setBead s d n b).poison = s.poison := rfl
@[simp] theorem setBead_cache (d n : Nat) (b : Bead) : (setBead s d n b).cache = s.cache := rfl
@[simp] theorem setBead_lineErr (d n : Nat) (b : Bead) : (setBead s d n b).lineErr = s.lineErr := rfl
@[simp] theorem setBead_objPoison (d n : Nat) (b : Bead) : (setBead s d n b).objPoison = s.objPoison := rfl
@[simp] theorem setBead_errs (d n : Nat) (b : Bead) : (setBead s d n b).errs = s.errs := rfl
@[simp] theorem setBead_watches (d n : Nat) (b : Bead) : (setBead s d n b).watches = s.watches := rfl
@[simp] theorem setBead_msgs (d n : Nat) (b : Bead) : (setBead s d n b).msgs = s.msgs := rfl
@[simp] theorem setBead_cores (d n : Nat) (b : Bead) : (setBead s d n b).cores = s.cores := rfl
@[simp] theorem setBead_stewards (d n : Nat) (b : Bead) : (setBead s d n b).stewards = s.stewards := rfl
@[simp] theorem setBead_prara (d n : Nat) (b : Bead) : (setBead s d n b).prara = s.prara := rfl
@[simp] theorem setBead_parts (d n : Nat) (b : Bead) : (setBead s d n b).parts = s.parts := rfl
@[simp] theorem setBead_ports (d n : Nat) (b : Bead) : (setBead s d n b).ports = s.ports := rfl
@[simp] theorem setBead_spanHeld (d n : Nat) (b : Bead) : (setBead s d n b).spanHeld = s.spanHeld := rfl
@[simp] theorem setBead_dieLog (d n : Nat) (b : Bead) : (setBead s d n b).dieLog = s.dieLog := rfl
@[simp] theorem setBead_objs (d n : Nat) (b : Bead) : (setBead s d n b).objs = s.objs := rfl
@[simp] theorem setBead_counters (d n : Nat) (b : Bead) : (setBead s d n b).counters = s.counters := rfl
@[simp] theorem setBead_staged (d n : Nat) (b : Bead) : (setBead s d n b).staged = s.staged := rfl
@[simp] theorem setBead_commit (d n : Nat) (b : Bead) : (setBead s d n b).commit = s.commit := rfl
@[simp] theorem setBead_principals (d n : Nat) (b : Bead) : (setBead s d n b).principals = s.principals := rfl
@[simp] theorem setBead_transfers (d n : Nat) (b : Bead) : (setBead s d n b).transfers = s.transfers := rfl
@[simp] theorem setBead_spdm (d n : Nat) (b : Bead) : (setBead s d n b).spdm = s.spdm := rfl
@[simp] theorem setBead_cad (d n : Nat) (b : Bead) : (setBead s d n b).cad = s.cad := rfl
@[simp] theorem setBead_power (d n : Nat) (b : Bead) : (setBead s d n b).power = s.power := rfl
@[simp] theorem setBead_link (d n : Nat) (b : Bead) : (setBead s d n b).link = s.link := rfl
@[simp] theorem setBead_faultsum (d n : Nat) (b : Bead) : (setBead s d n b).faultsum = s.faultsum := rfl
@[simp] theorem setBead_windowErrs (d n : Nat) (b : Bead) : (setBead s d n b).windowErrs = s.windowErrs := rfl
@[simp] theorem setBead_windowCrossed (d n : Nat) (b : Bead) : (setBead s d n b).windowCrossed = s.windowCrossed := rfl
@[simp] theorem setBead_samples (d n : Nat) (b : Bead) : (setBead s d n b).samples = s.samples := rfl
@[simp] theorem setBead_alert (d n : Nat) (b : Bead) : (setBead s d n b).alert = s.alert := rfl
@[simp] theorem setBead_coolantHigh (d n : Nat) (b : Bead) : (setBead s d n b).coolantHigh = s.coolantHigh := rfl
@[simp] theorem getCore_setBead (d n : Nat) (b : Bead) (x : Nat) : getCore (setBead s d n b) x = getCore s x := rfl
@[simp] theorem getStack_setBead (d n : Nat) (b : Bead) (x : Nat) : getStack (setBead s d n b) x = getStack s x := rfl
@[simp] theorem getPart_setBead (d n : Nat) (b : Bead) (x : Nat) : getPart (setBead s d n b) x = getPart s x := rfl
@[simp] theorem getSteward_setBead (d n : Nat) (b : Bead) (x : Nat) : getSteward (setBead s d n b) x = getSteward s x := rfl
@[simp] theorem getPort_setBead (d n : Nat) (b : Bead) (x : Nat) : getPort (setBead s d n b) x = getPort s x := rfl
@[simp] theorem counter_setBead (d n : Nat) (b : Bead) (x y : Nat) : counter (setBead s d n b) x y = counter s x y := rfl
@[simp] theorem isReady_setBead (d n : Nat) (b : Bead) : isReady (setBead s d n b) = isReady s := rfl
@[simp] theorem corePresent_setBead (d n : Nat) (b : Bead) (x : Nat) : corePresent (setBead s d n b) x = corePresent s x := rfl
@[simp] theorem linkUp_setBead (d n : Nat) (b : Bead) : linkUp (setBead s d n b) = linkUp s := rfl

/-! ### emit -/

@[simp] theorem emit_pending (o : Output) : (emit s o).pending = s.pending := rfl
@[simp] theorem emit_free (o : Output) : (emit s o).free = s.free := rfl
@[simp] theorem emit_boot (o : Output) : (emit s o).boot = s.boot := rfl
@[simp] theorem emit_now (o : Output) : (emit s o).now = s.now := rfl
@[simp] theorem emit_prev (o : Output) : (emit s o).prev = s.prev := rfl
@[simp] theorem emit_order (o : Output) : (emit s o).order = s.order := rfl
@[simp] theorem emit_hw (o : Output) : (emit s o).hw = s.hw := rfl
@[simp] theorem emit_fw (o : Output) : (emit s o).fw = s.fw := rfl
@[simp] theorem emit_tripl (o : Output) : (emit s o).tripl = s.tripl := rfl
@[simp] theorem emit_voteFatal (o : Output) : (emit s o).voteFatal = s.voteFatal := rfl
@[simp] theorem emit_mem (o : Output) : (emit s o).mem = s.mem := rfl
@[simp] theorem emit_poison (o : Output) : (emit s o).poison = s.poison := rfl
@[simp] theorem emit_cache (o : Output) : (emit s o).cache = s.cache := rfl
@[simp] theorem emit_lineErr (o : Output) : (emit s o).lineErr = s.lineErr := rfl
@[simp] theorem emit_objPoison (o : Output) : (emit s o).objPoison = s.objPoison := rfl
@[simp] theorem emit_errs (o : Output) : (emit s o).errs = s.errs := rfl
@[simp] theorem emit_beads (o : Output) : (emit s o).beads = s.beads := rfl
@[simp] theorem emit_watches (o : Output) : (emit s o).watches = s.watches := rfl
@[simp] theorem emit_msgs (o : Output) : (emit s o).msgs = s.msgs := rfl
@[simp] theorem emit_cores (o : Output) : (emit s o).cores = s.cores := rfl
@[simp] theorem emit_stewards (o : Output) : (emit s o).stewards = s.stewards := rfl
@[simp] theorem emit_prara (o : Output) : (emit s o).prara = s.prara := rfl
@[simp] theorem emit_parts (o : Output) : (emit s o).parts = s.parts := rfl
@[simp] theorem emit_ports (o : Output) : (emit s o).ports = s.ports := rfl
@[simp] theorem emit_spanHeld (o : Output) : (emit s o).spanHeld = s.spanHeld := rfl
@[simp] theorem emit_dieLog (o : Output) : (emit s o).dieLog = s.dieLog := rfl
@[simp] theorem emit_objs (o : Output) : (emit s o).objs = s.objs := rfl
@[simp] theorem emit_counters (o : Output) : (emit s o).counters = s.counters := rfl
@[simp] theorem emit_staged (o : Output) : (emit s o).staged = s.staged := rfl
@[simp] theorem emit_commit (o : Output) : (emit s o).commit = s.commit := rfl
@[simp] theorem emit_principals (o : Output) : (emit s o).principals = s.principals := rfl
@[simp] theorem emit_transfers (o : Output) : (emit s o).transfers = s.transfers := rfl
@[simp] theorem emit_spdm (o : Output) : (emit s o).spdm = s.spdm := rfl
@[simp] theorem emit_cad (o : Output) : (emit s o).cad = s.cad := rfl
@[simp] theorem emit_power (o : Output) : (emit s o).power = s.power := rfl
@[simp] theorem emit_link (o : Output) : (emit s o).link = s.link := rfl
@[simp] theorem emit_faultsum (o : Output) : (emit s o).faultsum = s.faultsum := rfl
@[simp] theorem emit_windowErrs (o : Output) : (emit s o).windowErrs = s.windowErrs := rfl
@[simp] theorem emit_windowCrossed (o : Output) : (emit s o).windowCrossed = s.windowCrossed := rfl
@[simp] theorem emit_samples (o : Output) : (emit s o).samples = s.samples := rfl
@[simp] theorem emit_alert (o : Output) : (emit s o).alert = s.alert := rfl
@[simp] theorem emit_coolantHigh (o : Output) : (emit s o).coolantHigh = s.coolantHigh := rfl
@[simp] theorem getCore_emit (o : Output) (x : Nat) : getCore (emit s o) x = getCore s x := rfl
@[simp] theorem getStack_emit (o : Output) (x : Nat) : getStack (emit s o) x = getStack s x := rfl
@[simp] theorem getPart_emit (o : Output) (x : Nat) : getPart (emit s o) x = getPart s x := rfl
@[simp] theorem getSteward_emit (o : Output) (x : Nat) : getSteward (emit s o) x = getSteward s x := rfl
@[simp] theorem getPort_emit (o : Output) (x : Nat) : getPort (emit s o) x = getPort s x := rfl
@[simp] theorem getBead_emit (o : Output) (x y : Nat) : getBead (emit s o) x y = getBead s x y := rfl
@[simp] theorem counter_emit (o : Output) (x y : Nat) : counter (emit s o) x y = counter s x y := rfl
@[simp] theorem isReady_emit (o : Output) : isReady (emit s o) = isReady s := rfl
@[simp] theorem corePresent_emit (o : Output) (x : Nat) : corePresent (emit s o) x = corePresent s x := rfl
@[simp] theorem linkUp_emit (o : Output) : linkUp (emit s o) = linkUp s := rfl

/-! ### drew -/

@[simp] theorem drew_pending : (drew s).pending = s.pending := rfl
@[simp] theorem drew_boot : (drew s).boot = s.boot := rfl
@[simp] theorem drew_now : (drew s).now = s.now := rfl
@[simp] theorem drew_prev : (drew s).prev = s.prev := rfl
@[simp] theorem drew_order : (drew s).order = s.order := rfl
@[simp] theorem drew_out : (drew s).out = s.out := rfl
@[simp] theorem drew_hw : (drew s).hw = s.hw := rfl
@[simp] theorem drew_fw : (drew s).fw = s.fw := rfl
@[simp] theorem drew_tripl : (drew s).tripl = s.tripl := rfl
@[simp] theorem drew_voteFatal : (drew s).voteFatal = s.voteFatal := rfl
@[simp] theorem drew_mem : (drew s).mem = s.mem := rfl
@[simp] theorem drew_poison : (drew s).poison = s.poison := rfl
@[simp] theorem drew_cache : (drew s).cache = s.cache := rfl
@[simp] theorem drew_lineErr : (drew s).lineErr = s.lineErr := rfl
@[simp] theorem drew_objPoison : (drew s).objPoison = s.objPoison := rfl
@[simp] theorem drew_errs : (drew s).errs = s.errs := rfl
@[simp] theorem drew_beads : (drew s).beads = s.beads := rfl
@[simp] theorem drew_watches : (drew s).watches = s.watches := rfl
@[simp] theorem drew_msgs : (drew s).msgs = s.msgs := rfl
@[simp] theorem drew_cores : (drew s).cores = s.cores := rfl
@[simp] theorem drew_stewards : (drew s).stewards = s.stewards := rfl
@[simp] theorem drew_prara : (drew s).prara = s.prara := rfl
@[simp] theorem drew_parts : (drew s).parts = s.parts := rfl
@[simp] theorem drew_ports : (drew s).ports = s.ports := rfl
@[simp] theorem drew_spanHeld : (drew s).spanHeld = s.spanHeld := rfl
@[simp] theorem drew_dieLog : (drew s).dieLog = s.dieLog := rfl
@[simp] theorem drew_objs : (drew s).objs = s.objs := rfl
@[simp] theorem drew_counters : (drew s).counters = s.counters := rfl
@[simp] theorem drew_staged : (drew s).staged = s.staged := rfl
@[simp] theorem drew_commit : (drew s).commit = s.commit := rfl
@[simp] theorem drew_principals : (drew s).principals = s.principals := rfl
@[simp] theorem drew_transfers : (drew s).transfers = s.transfers := rfl
@[simp] theorem drew_spdm : (drew s).spdm = s.spdm := rfl
@[simp] theorem drew_cad : (drew s).cad = s.cad := rfl
@[simp] theorem drew_power : (drew s).power = s.power := rfl
@[simp] theorem drew_link : (drew s).link = s.link := rfl
@[simp] theorem drew_faultsum : (drew s).faultsum = s.faultsum := rfl
@[simp] theorem drew_windowErrs : (drew s).windowErrs = s.windowErrs := rfl
@[simp] theorem drew_windowCrossed : (drew s).windowCrossed = s.windowCrossed := rfl
@[simp] theorem drew_samples : (drew s).samples = s.samples := rfl
@[simp] theorem drew_alert : (drew s).alert = s.alert := rfl
@[simp] theorem drew_coolantHigh : (drew s).coolantHigh = s.coolantHigh := rfl
@[simp] theorem getCore_drew (x : Nat) : getCore (drew s) x = getCore s x := rfl
@[simp] theorem getStack_drew (x : Nat) : getStack (drew s) x = getStack s x := rfl
@[simp] theorem getPart_drew (x : Nat) : getPart (drew s) x = getPart s x := rfl
@[simp] theorem getSteward_drew (x : Nat) : getSteward (drew s) x = getSteward s x := rfl
@[simp] theorem getPort_drew (x : Nat) : getPort (drew s) x = getPort s x := rfl
@[simp] theorem getBead_drew (x y : Nat) : getBead (drew s) x y = getBead s x y := rfl
@[simp] theorem counter_drew (x y : Nat) : counter (drew s) x y = counter s x y := rfl
@[simp] theorem isReady_drew : isReady (drew s) = isReady s := rfl
@[simp] theorem corePresent_drew (x : Nat) : corePresent (drew s) x = corePresent s x := rfl
@[simp] theorem linkUp_drew : linkUp (drew s) = linkUp s := rfl

/-! ### setObj -/

@[simp] theorem setObj_pending (i j : Nat) (v : List Byte) : (setObj s i j v).pending = s.pending := rfl
@[simp] theorem setObj_free (i j : Nat) (v : List Byte) : (setObj s i j v).free = s.free := rfl
@[simp] theorem setObj_boot (i j : Nat) (v : List Byte) : (setObj s i j v).boot = s.boot := rfl
@[simp] theorem setObj_now (i j : Nat) (v : List Byte) : (setObj s i j v).now = s.now := rfl
@[simp] theorem setObj_prev (i j : Nat) (v : List Byte) : (setObj s i j v).prev = s.prev := rfl
@[simp] theorem setObj_order (i j : Nat) (v : List Byte) : (setObj s i j v).order = s.order := rfl
@[simp] theorem setObj_out (i j : Nat) (v : List Byte) : (setObj s i j v).out = s.out := rfl
@[simp] theorem setObj_hw (i j : Nat) (v : List Byte) : (setObj s i j v).hw = s.hw := rfl
@[simp] theorem setObj_fw (i j : Nat) (v : List Byte) : (setObj s i j v).fw = s.fw := rfl
@[simp] theorem setObj_tripl (i j : Nat) (v : List Byte) : (setObj s i j v).tripl = s.tripl := rfl
@[simp] theorem setObj_voteFatal (i j : Nat) (v : List Byte) : (setObj s i j v).voteFatal = s.voteFatal := rfl
@[simp] theorem setObj_mem (i j : Nat) (v : List Byte) : (setObj s i j v).mem = s.mem := rfl
@[simp] theorem setObj_poison (i j : Nat) (v : List Byte) : (setObj s i j v).poison = s.poison := rfl
@[simp] theorem setObj_cache (i j : Nat) (v : List Byte) : (setObj s i j v).cache = s.cache := rfl
@[simp] theorem setObj_lineErr (i j : Nat) (v : List Byte) : (setObj s i j v).lineErr = s.lineErr := rfl
@[simp] theorem setObj_objPoison (i j : Nat) (v : List Byte) : (setObj s i j v).objPoison = s.objPoison := rfl
@[simp] theorem setObj_errs (i j : Nat) (v : List Byte) : (setObj s i j v).errs = s.errs := rfl
@[simp] theorem setObj_beads (i j : Nat) (v : List Byte) : (setObj s i j v).beads = s.beads := rfl
@[simp] theorem setObj_watches (i j : Nat) (v : List Byte) : (setObj s i j v).watches = s.watches := rfl
@[simp] theorem setObj_msgs (i j : Nat) (v : List Byte) : (setObj s i j v).msgs = s.msgs := rfl
@[simp] theorem setObj_cores (i j : Nat) (v : List Byte) : (setObj s i j v).cores = s.cores := rfl
@[simp] theorem setObj_stewards (i j : Nat) (v : List Byte) : (setObj s i j v).stewards = s.stewards := rfl
@[simp] theorem setObj_prara (i j : Nat) (v : List Byte) : (setObj s i j v).prara = s.prara := rfl
@[simp] theorem setObj_parts (i j : Nat) (v : List Byte) : (setObj s i j v).parts = s.parts := rfl
@[simp] theorem setObj_ports (i j : Nat) (v : List Byte) : (setObj s i j v).ports = s.ports := rfl
@[simp] theorem setObj_spanHeld (i j : Nat) (v : List Byte) : (setObj s i j v).spanHeld = s.spanHeld := rfl
@[simp] theorem setObj_dieLog (i j : Nat) (v : List Byte) : (setObj s i j v).dieLog = s.dieLog := rfl
@[simp] theorem setObj_counters (i j : Nat) (v : List Byte) : (setObj s i j v).counters = s.counters := rfl
@[simp] theorem setObj_staged (i j : Nat) (v : List Byte) : (setObj s i j v).staged = s.staged := rfl
@[simp] theorem setObj_commit (i j : Nat) (v : List Byte) : (setObj s i j v).commit = s.commit := rfl
@[simp] theorem setObj_principals (i j : Nat) (v : List Byte) : (setObj s i j v).principals = s.principals := rfl
@[simp] theorem setObj_transfers (i j : Nat) (v : List Byte) : (setObj s i j v).transfers = s.transfers := rfl
@[simp] theorem setObj_spdm (i j : Nat) (v : List Byte) : (setObj s i j v).spdm = s.spdm := rfl
@[simp] theorem setObj_cad (i j : Nat) (v : List Byte) : (setObj s i j v).cad = s.cad := rfl
@[simp] theorem setObj_power (i j : Nat) (v : List Byte) : (setObj s i j v).power = s.power := rfl
@[simp] theorem setObj_link (i j : Nat) (v : List Byte) : (setObj s i j v).link = s.link := rfl
@[simp] theorem setObj_faultsum (i j : Nat) (v : List Byte) : (setObj s i j v).faultsum = s.faultsum := rfl
@[simp] theorem setObj_windowErrs (i j : Nat) (v : List Byte) : (setObj s i j v).windowErrs = s.windowErrs := rfl
@[simp] theorem setObj_windowCrossed (i j : Nat) (v : List Byte) : (setObj s i j v).windowCrossed = s.windowCrossed := rfl
@[simp] theorem setObj_samples (i j : Nat) (v : List Byte) : (setObj s i j v).samples = s.samples := rfl
@[simp] theorem setObj_alert (i j : Nat) (v : List Byte) : (setObj s i j v).alert = s.alert := rfl
@[simp] theorem setObj_coolantHigh (i j : Nat) (v : List Byte) : (setObj s i j v).coolantHigh = s.coolantHigh := rfl
@[simp] theorem getCore_setObj (i j : Nat) (v : List Byte) (x : Nat) : getCore (setObj s i j v) x = getCore s x := rfl
@[simp] theorem getStack_setObj (i j : Nat) (v : List Byte) (x : Nat) : getStack (setObj s i j v) x = getStack s x := rfl
@[simp] theorem getPart_setObj (i j : Nat) (v : List Byte) (x : Nat) : getPart (setObj s i j v) x = getPart s x := rfl
@[simp] theorem getSteward_setObj (i j : Nat) (v : List Byte) (x : Nat) : getSteward (setObj s i j v) x = getSteward s x := rfl
@[simp] theorem getPort_setObj (i j : Nat) (v : List Byte) (x : Nat) : getPort (setObj s i j v) x = getPort s x := rfl
@[simp] theorem getBead_setObj (i j : Nat) (v : List Byte) (x y : Nat) : getBead (setObj s i j v) x y = getBead s x y := rfl
@[simp] theorem counter_setObj (i j : Nat) (v : List Byte) (x y : Nat) : counter (setObj s i j v) x y = counter s x y := rfl
@[simp] theorem isReady_setObj (i j : Nat) (v : List Byte) : isReady (setObj s i j v) = isReady s := rfl
@[simp] theorem corePresent_setObj (i j : Nat) (v : List Byte) (x : Nat) : corePresent (setObj s i j v) x = corePresent s x := rfl
@[simp] theorem linkUp_setObj (i j : Nat) (v : List Byte) : linkUp (setObj s i j v) = linkUp s := rfl

/-! ### bump -/

@[simp] theorem bump_pending (i j n : Nat) : (bump s i j n).pending = s.pending := rfl
@[simp] theorem bump_free (i j n : Nat) : (bump s i j n).free = s.free := rfl
@[simp] theorem bump_boot (i j n : Nat) : (bump s i j n).boot = s.boot := rfl
@[simp] theorem bump_now (i j n : Nat) : (bump s i j n).now = s.now := rfl
@[simp] theorem bump_prev (i j n : Nat) : (bump s i j n).prev = s.prev := rfl
@[simp] theorem bump_order (i j n : Nat) : (bump s i j n).order = s.order := rfl
@[simp] theorem bump_out (i j n : Nat) : (bump s i j n).out = s.out := rfl
@[simp] theorem bump_hw (i j n : Nat) : (bump s i j n).hw = s.hw := rfl
@[simp] theorem bump_fw (i j n : Nat) : (bump s i j n).fw = s.fw := rfl
@[simp] theorem bump_tripl (i j n : Nat) : (bump s i j n).tripl = s.tripl := rfl
@[simp] theorem bump_voteFatal (i j n : Nat) : (bump s i j n).voteFatal = s.voteFatal := rfl
@[simp] theorem bump_mem (i j n : Nat) : (bump s i j n).mem = s.mem := rfl
@[simp] theorem bump_poison (i j n : Nat) : (bump s i j n).poison = s.poison := rfl
@[simp] theorem bump_cache (i j n : Nat) : (bump s i j n).cache = s.cache := rfl
@[simp] theorem bump_lineErr (i j n : Nat) : (bump s i j n).lineErr = s.lineErr := rfl
@[simp] theorem bump_objPoison (i j n : Nat) : (bump s i j n).objPoison = s.objPoison := rfl
@[simp] theorem bump_errs (i j n : Nat) : (bump s i j n).errs = s.errs := rfl
@[simp] theorem bump_beads (i j n : Nat) : (bump s i j n).beads = s.beads := rfl
@[simp] theorem bump_watches (i j n : Nat) : (bump s i j n).watches = s.watches := rfl
@[simp] theorem bump_msgs (i j n : Nat) : (bump s i j n).msgs = s.msgs := rfl
@[simp] theorem bump_cores (i j n : Nat) : (bump s i j n).cores = s.cores := rfl
@[simp] theorem bump_stewards (i j n : Nat) : (bump s i j n).stewards = s.stewards := rfl
@[simp] theorem bump_prara (i j n : Nat) : (bump s i j n).prara = s.prara := rfl
@[simp] theorem bump_parts (i j n : Nat) : (bump s i j n).parts = s.parts := rfl
@[simp] theorem bump_ports (i j n : Nat) : (bump s i j n).ports = s.ports := rfl
@[simp] theorem bump_spanHeld (i j n : Nat) : (bump s i j n).spanHeld = s.spanHeld := rfl
@[simp] theorem bump_dieLog (i j n : Nat) : (bump s i j n).dieLog = s.dieLog := rfl
@[simp] theorem bump_objs (i j n : Nat) : (bump s i j n).objs = s.objs := rfl
@[simp] theorem bump_staged (i j n : Nat) : (bump s i j n).staged = s.staged := rfl
@[simp] theorem bump_commit (i j n : Nat) : (bump s i j n).commit = s.commit := rfl
@[simp] theorem bump_principals (i j n : Nat) : (bump s i j n).principals = s.principals := rfl
@[simp] theorem bump_transfers (i j n : Nat) : (bump s i j n).transfers = s.transfers := rfl
@[simp] theorem bump_spdm (i j n : Nat) : (bump s i j n).spdm = s.spdm := rfl
@[simp] theorem bump_cad (i j n : Nat) : (bump s i j n).cad = s.cad := rfl
@[simp] theorem bump_power (i j n : Nat) : (bump s i j n).power = s.power := rfl
@[simp] theorem bump_link (i j n : Nat) : (bump s i j n).link = s.link := rfl
@[simp] theorem bump_faultsum (i j n : Nat) : (bump s i j n).faultsum = s.faultsum := rfl
@[simp] theorem bump_windowErrs (i j n : Nat) : (bump s i j n).windowErrs = s.windowErrs := rfl
@[simp] theorem bump_windowCrossed (i j n : Nat) : (bump s i j n).windowCrossed = s.windowCrossed := rfl
@[simp] theorem bump_samples (i j n : Nat) : (bump s i j n).samples = s.samples := rfl
@[simp] theorem bump_alert (i j n : Nat) : (bump s i j n).alert = s.alert := rfl
@[simp] theorem bump_coolantHigh (i j n : Nat) : (bump s i j n).coolantHigh = s.coolantHigh := rfl
@[simp] theorem getCore_bump (i j n : Nat) (x : Nat) : getCore (bump s i j n) x = getCore s x := rfl
@[simp] theorem getStack_bump (i j n : Nat) (x : Nat) : getStack (bump s i j n) x = getStack s x := rfl
@[simp] theorem getPart_bump (i j n : Nat) (x : Nat) : getPart (bump s i j n) x = getPart s x := rfl
@[simp] theorem getSteward_bump (i j n : Nat) (x : Nat) : getSteward (bump s i j n) x = getSteward s x := rfl
@[simp] theorem getPort_bump (i j n : Nat) (x : Nat) : getPort (bump s i j n) x = getPort s x := rfl
@[simp] theorem getBead_bump (i j n : Nat) (x y : Nat) : getBead (bump s i j n) x y = getBead s x y := rfl
@[simp] theorem isReady_bump (i j n : Nat) : isReady (bump s i j n) = isReady s := rfl
@[simp] theorem corePresent_bump (i j n : Nat) (x : Nat) : corePresent (bump s i j n) x = corePresent s x := rfl
@[simp] theorem linkUp_bump (i j n : Nat) : linkUp (bump s i j n) = linkUp s := rfl

/-! ### setCounter -/

@[simp] theorem setCounter_pending (i j n : Nat) : (setCounter s i j n).pending = s.pending := rfl
@[simp] theorem setCounter_free (i j n : Nat) : (setCounter s i j n).free = s.free := rfl
@[simp] theorem setCounter_boot (i j n : Nat) : (setCounter s i j n).boot = s.boot := rfl
@[simp] theorem setCounter_now (i j n : Nat) : (setCounter s i j n).now = s.now := rfl
@[simp] theorem setCounter_prev (i j n : Nat) : (setCounter s i j n).prev = s.prev := rfl
@[simp] theorem setCounter_order (i j n : Nat) : (setCounter s i j n).order = s.order := rfl
@[simp] theorem setCounter_out (i j n : Nat) : (setCounter s i j n).out = s.out := rfl
@[simp] theorem setCounter_hw (i j n : Nat) : (setCounter s i j n).hw = s.hw := rfl
@[simp] theorem setCounter_fw (i j n : Nat) : (setCounter s i j n).fw = s.fw := rfl
@[simp] theorem setCounter_tripl (i j n : Nat) : (setCounter s i j n).tripl = s.tripl := rfl
@[simp] theorem setCounter_voteFatal (i j n : Nat) : (setCounter s i j n).voteFatal = s.voteFatal := rfl
@[simp] theorem setCounter_mem (i j n : Nat) : (setCounter s i j n).mem = s.mem := rfl
@[simp] theorem setCounter_poison (i j n : Nat) : (setCounter s i j n).poison = s.poison := rfl
@[simp] theorem setCounter_cache (i j n : Nat) : (setCounter s i j n).cache = s.cache := rfl
@[simp] theorem setCounter_lineErr (i j n : Nat) : (setCounter s i j n).lineErr = s.lineErr := rfl
@[simp] theorem setCounter_objPoison (i j n : Nat) : (setCounter s i j n).objPoison = s.objPoison := rfl
@[simp] theorem setCounter_errs (i j n : Nat) : (setCounter s i j n).errs = s.errs := rfl
@[simp] theorem setCounter_beads (i j n : Nat) : (setCounter s i j n).beads = s.beads := rfl
@[simp] theorem setCounter_watches (i j n : Nat) : (setCounter s i j n).watches = s.watches := rfl
@[simp] theorem setCounter_msgs (i j n : Nat) : (setCounter s i j n).msgs = s.msgs := rfl
@[simp] theorem setCounter_cores (i j n : Nat) : (setCounter s i j n).cores = s.cores := rfl
@[simp] theorem setCounter_stewards (i j n : Nat) : (setCounter s i j n).stewards = s.stewards := rfl
@[simp] theorem setCounter_prara (i j n : Nat) : (setCounter s i j n).prara = s.prara := rfl
@[simp] theorem setCounter_parts (i j n : Nat) : (setCounter s i j n).parts = s.parts := rfl
@[simp] theorem setCounter_ports (i j n : Nat) : (setCounter s i j n).ports = s.ports := rfl
@[simp] theorem setCounter_spanHeld (i j n : Nat) : (setCounter s i j n).spanHeld = s.spanHeld := rfl
@[simp] theorem setCounter_dieLog (i j n : Nat) : (setCounter s i j n).dieLog = s.dieLog := rfl
@[simp] theorem setCounter_objs (i j n : Nat) : (setCounter s i j n).objs = s.objs := rfl
@[simp] theorem setCounter_staged (i j n : Nat) : (setCounter s i j n).staged = s.staged := rfl
@[simp] theorem setCounter_commit (i j n : Nat) : (setCounter s i j n).commit = s.commit := rfl
@[simp] theorem setCounter_principals (i j n : Nat) : (setCounter s i j n).principals = s.principals := rfl
@[simp] theorem setCounter_transfers (i j n : Nat) : (setCounter s i j n).transfers = s.transfers := rfl
@[simp] theorem setCounter_spdm (i j n : Nat) : (setCounter s i j n).spdm = s.spdm := rfl
@[simp] theorem setCounter_cad (i j n : Nat) : (setCounter s i j n).cad = s.cad := rfl
@[simp] theorem setCounter_power (i j n : Nat) : (setCounter s i j n).power = s.power := rfl
@[simp] theorem setCounter_link (i j n : Nat) : (setCounter s i j n).link = s.link := rfl
@[simp] theorem setCounter_faultsum (i j n : Nat) : (setCounter s i j n).faultsum = s.faultsum := rfl
@[simp] theorem setCounter_windowErrs (i j n : Nat) : (setCounter s i j n).windowErrs = s.windowErrs := rfl
@[simp] theorem setCounter_windowCrossed (i j n : Nat) : (setCounter s i j n).windowCrossed = s.windowCrossed := rfl
@[simp] theorem setCounter_samples (i j n : Nat) : (setCounter s i j n).samples = s.samples := rfl
@[simp] theorem setCounter_alert (i j n : Nat) : (setCounter s i j n).alert = s.alert := rfl
@[simp] theorem setCounter_coolantHigh (i j n : Nat) : (setCounter s i j n).coolantHigh = s.coolantHigh := rfl
@[simp] theorem getCore_setCounter (i j n : Nat) (x : Nat) : getCore (setCounter s i j n) x = getCore s x := rfl
@[simp] theorem getStack_setCounter (i j n : Nat) (x : Nat) : getStack (setCounter s i j n) x = getStack s x := rfl
@[simp] theorem getPart_setCounter (i j n : Nat) (x : Nat) : getPart (setCounter s i j n) x = getPart s x := rfl
@[simp] theorem getSteward_setCounter (i j n : Nat) (x : Nat) : getSteward (setCounter s i j n) x = getSteward s x := rfl
@[simp] theorem getPort_setCounter (i j n : Nat) (x : Nat) : getPort (setCounter s i j n) x = getPort s x := rfl
@[simp] theorem getBead_setCounter (i j n : Nat) (x y : Nat) : getBead (setCounter s i j n) x y = getBead s x y := rfl
@[simp] theorem isReady_setCounter (i j n : Nat) : isReady (setCounter s i j n) = isReady s := rfl
@[simp] theorem corePresent_setCounter (i j n : Nat) (x : Nat) : corePresent (setCounter s i j n) x = corePresent s x := rfl
@[simp] theorem linkUp_setCounter (i j n : Nat) : linkUp (setCounter s i j n) = linkUp s := rfl

/-! ### interrupt -/

@[simp] theorem interrupt_pending (i j : Nat) : (interrupt s i j).pending = s.pending := rfl
@[simp] theorem interrupt_free (i j : Nat) : (interrupt s i j).free = s.free := rfl
@[simp] theorem interrupt_boot (i j : Nat) : (interrupt s i j).boot = s.boot := rfl
@[simp] theorem interrupt_now (i j : Nat) : (interrupt s i j).now = s.now := rfl
@[simp] theorem interrupt_prev (i j : Nat) : (interrupt s i j).prev = s.prev := rfl
@[simp] theorem interrupt_order (i j : Nat) : (interrupt s i j).order = s.order := rfl
@[simp] theorem interrupt_hw (i j : Nat) : (interrupt s i j).hw = s.hw := rfl
@[simp] theorem interrupt_fw (i j : Nat) : (interrupt s i j).fw = s.fw := rfl
@[simp] theorem interrupt_tripl (i j : Nat) : (interrupt s i j).tripl = s.tripl := rfl
@[simp] theorem interrupt_voteFatal (i j : Nat) : (interrupt s i j).voteFatal = s.voteFatal := rfl
@[simp] theorem interrupt_mem (i j : Nat) : (interrupt s i j).mem = s.mem := rfl
@[simp] theorem interrupt_poison (i j : Nat) : (interrupt s i j).poison = s.poison := rfl
@[simp] theorem interrupt_cache (i j : Nat) : (interrupt s i j).cache = s.cache := rfl
@[simp] theorem interrupt_lineErr (i j : Nat) : (interrupt s i j).lineErr = s.lineErr := rfl
@[simp] theorem interrupt_objPoison (i j : Nat) : (interrupt s i j).objPoison = s.objPoison := rfl
@[simp] theorem interrupt_errs (i j : Nat) : (interrupt s i j).errs = s.errs := rfl
@[simp] theorem interrupt_beads (i j : Nat) : (interrupt s i j).beads = s.beads := rfl
@[simp] theorem interrupt_watches (i j : Nat) : (interrupt s i j).watches = s.watches := rfl
@[simp] theorem interrupt_msgs (i j : Nat) : (interrupt s i j).msgs = s.msgs := rfl
@[simp] theorem interrupt_cores (i j : Nat) : (interrupt s i j).cores = s.cores := rfl
@[simp] theorem interrupt_stewards (i j : Nat) : (interrupt s i j).stewards = s.stewards := rfl
@[simp] theorem interrupt_prara (i j : Nat) : (interrupt s i j).prara = s.prara := rfl
@[simp] theorem interrupt_parts (i j : Nat) : (interrupt s i j).parts = s.parts := rfl
@[simp] theorem interrupt_ports (i j : Nat) : (interrupt s i j).ports = s.ports := rfl
@[simp] theorem interrupt_spanHeld (i j : Nat) : (interrupt s i j).spanHeld = s.spanHeld := rfl
@[simp] theorem interrupt_dieLog (i j : Nat) : (interrupt s i j).dieLog = s.dieLog := rfl
@[simp] theorem interrupt_objs (i j : Nat) : (interrupt s i j).objs = s.objs := rfl
@[simp] theorem interrupt_counters (i j : Nat) : (interrupt s i j).counters = s.counters := rfl
@[simp] theorem interrupt_staged (i j : Nat) : (interrupt s i j).staged = s.staged := rfl
@[simp] theorem interrupt_commit (i j : Nat) : (interrupt s i j).commit = s.commit := rfl
@[simp] theorem interrupt_principals (i j : Nat) : (interrupt s i j).principals = s.principals := rfl
@[simp] theorem interrupt_transfers (i j : Nat) : (interrupt s i j).transfers = s.transfers := rfl
@[simp] theorem interrupt_spdm (i j : Nat) : (interrupt s i j).spdm = s.spdm := rfl
@[simp] theorem interrupt_cad (i j : Nat) : (interrupt s i j).cad = s.cad := rfl
@[simp] theorem interrupt_power (i j : Nat) : (interrupt s i j).power = s.power := rfl
@[simp] theorem interrupt_link (i j : Nat) : (interrupt s i j).link = s.link := rfl
@[simp] theorem interrupt_faultsum (i j : Nat) : (interrupt s i j).faultsum = s.faultsum := rfl
@[simp] theorem interrupt_windowErrs (i j : Nat) : (interrupt s i j).windowErrs = s.windowErrs := rfl
@[simp] theorem interrupt_windowCrossed (i j : Nat) : (interrupt s i j).windowCrossed = s.windowCrossed := rfl
@[simp] theorem interrupt_samples (i j : Nat) : (interrupt s i j).samples = s.samples := rfl
@[simp] theorem interrupt_alert (i j : Nat) : (interrupt s i j).alert = s.alert := rfl
@[simp] theorem interrupt_coolantHigh (i j : Nat) : (interrupt s i j).coolantHigh = s.coolantHigh := rfl
@[simp] theorem getCore_interrupt (i j : Nat) (x : Nat) : getCore (interrupt s i j) x = getCore s x := rfl
@[simp] theorem getStack_interrupt (i j : Nat) (x : Nat) : getStack (interrupt s i j) x = getStack s x := rfl
@[simp] theorem getPart_interrupt (i j : Nat) (x : Nat) : getPart (interrupt s i j) x = getPart s x := rfl
@[simp] theorem getSteward_interrupt (i j : Nat) (x : Nat) : getSteward (interrupt s i j) x = getSteward s x := rfl
@[simp] theorem getPort_interrupt (i j : Nat) (x : Nat) : getPort (interrupt s i j) x = getPort s x := rfl
@[simp] theorem getBead_interrupt (i j : Nat) (x y : Nat) : getBead (interrupt s i j) x y = getBead s x y := rfl
@[simp] theorem counter_interrupt (i j : Nat) (x y : Nat) : counter (interrupt s i j) x y = counter s x y := rfl
@[simp] theorem isReady_interrupt (i j : Nat) : isReady (interrupt s i j) = isReady s := rfl
@[simp] theorem corePresent_interrupt (i j : Nat) (x : Nat) : corePresent (interrupt s i j) x = corePresent s x := rfl
@[simp] theorem linkUp_interrupt (i j : Nat) : linkUp (interrupt s i j) = linkUp s := rfl

/-! ### markPoison -/

@[simp] theorem markPoison_pending (g : Nat) : (markPoison s g).pending = s.pending := rfl
@[simp] theorem markPoison_free (g : Nat) : (markPoison s g).free = s.free := rfl
@[simp] theorem markPoison_boot (g : Nat) : (markPoison s g).boot = s.boot := rfl
@[simp] theorem markPoison_now (g : Nat) : (markPoison s g).now = s.now := rfl
@[simp] theorem markPoison_prev (g : Nat) : (markPoison s g).prev = s.prev := rfl
@[simp] theorem markPoison_order (g : Nat) : (markPoison s g).order = s.order := rfl
@[simp] theorem markPoison_out (g : Nat) : (markPoison s g).out = s.out := rfl
@[simp] theorem markPoison_hw (g : Nat) : (markPoison s g).hw = s.hw := rfl
@[simp] theorem markPoison_fw (g : Nat) : (markPoison s g).fw = s.fw := rfl
@[simp] theorem markPoison_tripl (g : Nat) : (markPoison s g).tripl = s.tripl := rfl
@[simp] theorem markPoison_voteFatal (g : Nat) : (markPoison s g).voteFatal = s.voteFatal := rfl
@[simp] theorem markPoison_mem (g : Nat) : (markPoison s g).mem = s.mem := rfl
@[simp] theorem markPoison_cache (g : Nat) : (markPoison s g).cache = s.cache := rfl
@[simp] theorem markPoison_lineErr (g : Nat) : (markPoison s g).lineErr = s.lineErr := rfl
@[simp] theorem markPoison_objPoison (g : Nat) : (markPoison s g).objPoison = s.objPoison := rfl
@[simp] theorem markPoison_errs (g : Nat) : (markPoison s g).errs = s.errs := rfl
@[simp] theorem markPoison_beads (g : Nat) : (markPoison s g).beads = s.beads := rfl
@[simp] theorem markPoison_watches (g : Nat) : (markPoison s g).watches = s.watches := rfl
@[simp] theorem markPoison_msgs (g : Nat) : (markPoison s g).msgs = s.msgs := rfl
@[simp] theorem markPoison_cores (g : Nat) : (markPoison s g).cores = s.cores := rfl
@[simp] theorem markPoison_stewards (g : Nat) : (markPoison s g).stewards = s.stewards := rfl
@[simp] theorem markPoison_prara (g : Nat) : (markPoison s g).prara = s.prara := rfl
@[simp] theorem markPoison_parts (g : Nat) : (markPoison s g).parts = s.parts := rfl
@[simp] theorem markPoison_ports (g : Nat) : (markPoison s g).ports = s.ports := rfl
@[simp] theorem markPoison_spanHeld (g : Nat) : (markPoison s g).spanHeld = s.spanHeld := rfl
@[simp] theorem markPoison_dieLog (g : Nat) : (markPoison s g).dieLog = s.dieLog := rfl
@[simp] theorem markPoison_objs (g : Nat) : (markPoison s g).objs = s.objs := rfl
@[simp] theorem markPoison_counters (g : Nat) : (markPoison s g).counters = s.counters := rfl
@[simp] theorem markPoison_staged (g : Nat) : (markPoison s g).staged = s.staged := rfl
@[simp] theorem markPoison_commit (g : Nat) : (markPoison s g).commit = s.commit := rfl
@[simp] theorem markPoison_principals (g : Nat) : (markPoison s g).principals = s.principals := rfl
@[simp] theorem markPoison_transfers (g : Nat) : (markPoison s g).transfers = s.transfers := rfl
@[simp] theorem markPoison_spdm (g : Nat) : (markPoison s g).spdm = s.spdm := rfl
@[simp] theorem markPoison_cad (g : Nat) : (markPoison s g).cad = s.cad := rfl
@[simp] theorem markPoison_power (g : Nat) : (markPoison s g).power = s.power := rfl
@[simp] theorem markPoison_link (g : Nat) : (markPoison s g).link = s.link := rfl
@[simp] theorem markPoison_faultsum (g : Nat) : (markPoison s g).faultsum = s.faultsum := rfl
@[simp] theorem markPoison_windowErrs (g : Nat) : (markPoison s g).windowErrs = s.windowErrs := rfl
@[simp] theorem markPoison_windowCrossed (g : Nat) : (markPoison s g).windowCrossed = s.windowCrossed := rfl
@[simp] theorem markPoison_samples (g : Nat) : (markPoison s g).samples = s.samples := rfl
@[simp] theorem markPoison_alert (g : Nat) : (markPoison s g).alert = s.alert := rfl
@[simp] theorem markPoison_coolantHigh (g : Nat) : (markPoison s g).coolantHigh = s.coolantHigh := rfl
@[simp] theorem getCore_markPoison (g : Nat) (x : Nat) : getCore (markPoison s g) x = getCore s x := rfl
@[simp] theorem getStack_markPoison (g : Nat) (x : Nat) : getStack (markPoison s g) x = getStack s x := rfl
@[simp] theorem getPart_markPoison (g : Nat) (x : Nat) : getPart (markPoison s g) x = getPart s x := rfl
@[simp] theorem getSteward_markPoison (g : Nat) (x : Nat) : getSteward (markPoison s g) x = getSteward s x := rfl
@[simp] theorem getPort_markPoison (g : Nat) (x : Nat) : getPort (markPoison s g) x = getPort s x := rfl
@[simp] theorem getBead_markPoison (g : Nat) (x y : Nat) : getBead (markPoison s g) x y = getBead s x y := rfl
@[simp] theorem counter_markPoison (g : Nat) (x y : Nat) : counter (markPoison s g) x y = counter s x y := rfl
@[simp] theorem isReady_markPoison (g : Nat) : isReady (markPoison s g) = isReady s := rfl
@[simp] theorem corePresent_markPoison (g : Nat) (x : Nat) : corePresent (markPoison s g) x = corePresent s x := rfl
@[simp] theorem linkUp_markPoison (g : Nat) : linkUp (markPoison s g) = linkUp s := rfl

/-! ### atPlace -/

@[simp] theorem atPlace_pending (n : Nat) : (atPlace s n).pending = s.pending := rfl
@[simp] theorem atPlace_free (n : Nat) : (atPlace s n).free = s.free := rfl
@[simp] theorem atPlace_boot (n : Nat) : (atPlace s n).boot = s.boot := rfl
@[simp] theorem atPlace_now (n : Nat) : (atPlace s n).now = s.now := rfl
@[simp] theorem atPlace_prev (n : Nat) : (atPlace s n).prev = s.prev := rfl
@[simp] theorem atPlace_out (n : Nat) : (atPlace s n).out = s.out := rfl
@[simp] theorem atPlace_hw (n : Nat) : (atPlace s n).hw = s.hw := rfl
@[simp] theorem atPlace_fw (n : Nat) : (atPlace s n).fw = s.fw := rfl
@[simp] theorem atPlace_tripl (n : Nat) : (atPlace s n).tripl = s.tripl := rfl
@[simp] theorem atPlace_voteFatal (n : Nat) : (atPlace s n).voteFatal = s.voteFatal := rfl
@[simp] theorem atPlace_mem (n : Nat) : (atPlace s n).mem = s.mem := rfl
@[simp] theorem atPlace_poison (n : Nat) : (atPlace s n).poison = s.poison := rfl
@[simp] theorem atPlace_cache (n : Nat) : (atPlace s n).cache = s.cache := rfl
@[simp] theorem atPlace_lineErr (n : Nat) : (atPlace s n).lineErr = s.lineErr := rfl
@[simp] theorem atPlace_objPoison (n : Nat) : (atPlace s n).objPoison = s.objPoison := rfl
@[simp] theorem atPlace_errs (n : Nat) : (atPlace s n).errs = s.errs := rfl
@[simp] theorem atPlace_beads (n : Nat) : (atPlace s n).beads = s.beads := rfl
@[simp] theorem atPlace_watches (n : Nat) : (atPlace s n).watches = s.watches := rfl
@[simp] theorem atPlace_msgs (n : Nat) : (atPlace s n).msgs = s.msgs := rfl
@[simp] theorem atPlace_cores (n : Nat) : (atPlace s n).cores = s.cores := rfl
@[simp] theorem atPlace_stewards (n : Nat) : (atPlace s n).stewards = s.stewards := rfl
@[simp] theorem atPlace_prara (n : Nat) : (atPlace s n).prara = s.prara := rfl
@[simp] theorem atPlace_parts (n : Nat) : (atPlace s n).parts = s.parts := rfl
@[simp] theorem atPlace_ports (n : Nat) : (atPlace s n).ports = s.ports := rfl
@[simp] theorem atPlace_spanHeld (n : Nat) : (atPlace s n).spanHeld = s.spanHeld := rfl
@[simp] theorem atPlace_dieLog (n : Nat) : (atPlace s n).dieLog = s.dieLog := rfl
@[simp] theorem atPlace_objs (n : Nat) : (atPlace s n).objs = s.objs := rfl
@[simp] theorem atPlace_counters (n : Nat) : (atPlace s n).counters = s.counters := rfl
@[simp] theorem atPlace_staged (n : Nat) : (atPlace s n).staged = s.staged := rfl
@[simp] theorem atPlace_commit (n : Nat) : (atPlace s n).commit = s.commit := rfl
@[simp] theorem atPlace_principals (n : Nat) : (atPlace s n).principals = s.principals := rfl
@[simp] theorem atPlace_transfers (n : Nat) : (atPlace s n).transfers = s.transfers := rfl
@[simp] theorem atPlace_spdm (n : Nat) : (atPlace s n).spdm = s.spdm := rfl
@[simp] theorem atPlace_cad (n : Nat) : (atPlace s n).cad = s.cad := rfl
@[simp] theorem atPlace_power (n : Nat) : (atPlace s n).power = s.power := rfl
@[simp] theorem atPlace_link (n : Nat) : (atPlace s n).link = s.link := rfl
@[simp] theorem atPlace_faultsum (n : Nat) : (atPlace s n).faultsum = s.faultsum := rfl
@[simp] theorem atPlace_windowErrs (n : Nat) : (atPlace s n).windowErrs = s.windowErrs := rfl
@[simp] theorem atPlace_windowCrossed (n : Nat) : (atPlace s n).windowCrossed = s.windowCrossed := rfl
@[simp] theorem atPlace_samples (n : Nat) : (atPlace s n).samples = s.samples := rfl
@[simp] theorem atPlace_alert (n : Nat) : (atPlace s n).alert = s.alert := rfl
@[simp] theorem atPlace_coolantHigh (n : Nat) : (atPlace s n).coolantHigh = s.coolantHigh := rfl
@[simp] theorem getCore_atPlace (n : Nat) (x : Nat) : getCore (atPlace s n) x = getCore s x := rfl
@[simp] theorem getStack_atPlace (n : Nat) (x : Nat) : getStack (atPlace s n) x = getStack s x := rfl
@[simp] theorem getPart_atPlace (n : Nat) (x : Nat) : getPart (atPlace s n) x = getPart s x := rfl
@[simp] theorem getSteward_atPlace (n : Nat) (x : Nat) : getSteward (atPlace s n) x = getSteward s x := rfl
@[simp] theorem getPort_atPlace (n : Nat) (x : Nat) : getPort (atPlace s n) x = getPort s x := rfl
@[simp] theorem getBead_atPlace (n : Nat) (x y : Nat) : getBead (atPlace s n) x y = getBead s x y := rfl
@[simp] theorem counter_atPlace (n : Nat) (x y : Nat) : counter (atPlace s n) x y = counter s x y := rfl
@[simp] theorem isReady_atPlace (n : Nat) : isReady (atPlace s n) = isReady s := rfl
@[simp] theorem corePresent_atPlace (n : Nat) (x : Nat) : corePresent (atPlace s n) x = corePresent s x := rfl
@[simp] theorem linkUp_atPlace (n : Nat) : linkUp (atPlace s n) = linkUp s := rfl

/-! ### raiseVq -/

@[simp] theorem raiseVq_pending (t : Nat) (f : Flags) : (raiseVq s t f).pending = s.pending := rfl
@[simp] theorem raiseVq_free (t : Nat) (f : Flags) : (raiseVq s t f).free = s.free := rfl
@[simp] theorem raiseVq_boot (t : Nat) (f : Flags) : (raiseVq s t f).boot = s.boot := rfl
@[simp] theorem raiseVq_now (t : Nat) (f : Flags) : (raiseVq s t f).now = s.now := rfl
@[simp] theorem raiseVq_prev (t : Nat) (f : Flags) : (raiseVq s t f).prev = s.prev := rfl
@[simp] theorem raiseVq_order (t : Nat) (f : Flags) : (raiseVq s t f).order = s.order := rfl
@[simp] theorem raiseVq_out (t : Nat) (f : Flags) : (raiseVq s t f).out = s.out := rfl
@[simp] theorem raiseVq_hw (t : Nat) (f : Flags) : (raiseVq s t f).hw = s.hw := rfl
@[simp] theorem raiseVq_fw (t : Nat) (f : Flags) : (raiseVq s t f).fw = s.fw := rfl
@[simp] theorem raiseVq_tripl (t : Nat) (f : Flags) : (raiseVq s t f).tripl = s.tripl := rfl
@[simp] theorem raiseVq_voteFatal (t : Nat) (f : Flags) : (raiseVq s t f).voteFatal = s.voteFatal := rfl
@[simp] theorem raiseVq_mem (t : Nat) (f : Flags) : (raiseVq s t f).mem = s.mem := rfl
@[simp] theorem raiseVq_poison (t : Nat) (f : Flags) : (raiseVq s t f).poison = s.poison := rfl
@[simp] theorem raiseVq_cache (t : Nat) (f : Flags) : (raiseVq s t f).cache = s.cache := rfl
@[simp] theorem raiseVq_lineErr (t : Nat) (f : Flags) : (raiseVq s t f).lineErr = s.lineErr := rfl
@[simp] theorem raiseVq_objPoison (t : Nat) (f : Flags) : (raiseVq s t f).objPoison = s.objPoison := rfl
@[simp] theorem raiseVq_errs (t : Nat) (f : Flags) : (raiseVq s t f).errs = s.errs := rfl
@[simp] theorem raiseVq_beads (t : Nat) (f : Flags) : (raiseVq s t f).beads = s.beads := rfl
@[simp] theorem raiseVq_watches (t : Nat) (f : Flags) : (raiseVq s t f).watches = s.watches := rfl
@[simp] theorem raiseVq_msgs (t : Nat) (f : Flags) : (raiseVq s t f).msgs = s.msgs := rfl
@[simp] theorem raiseVq_stewards (t : Nat) (f : Flags) : (raiseVq s t f).stewards = s.stewards := rfl
@[simp] theorem raiseVq_prara (t : Nat) (f : Flags) : (raiseVq s t f).prara = s.prara := rfl
@[simp] theorem raiseVq_parts (t : Nat) (f : Flags) : (raiseVq s t f).parts = s.parts := rfl
@[simp] theorem raiseVq_ports (t : Nat) (f : Flags) : (raiseVq s t f).ports = s.ports := rfl
@[simp] theorem raiseVq_spanHeld (t : Nat) (f : Flags) : (raiseVq s t f).spanHeld = s.spanHeld := rfl
@[simp] theorem raiseVq_dieLog (t : Nat) (f : Flags) : (raiseVq s t f).dieLog = s.dieLog := rfl
@[simp] theorem raiseVq_objs (t : Nat) (f : Flags) : (raiseVq s t f).objs = s.objs := rfl
@[simp] theorem raiseVq_counters (t : Nat) (f : Flags) : (raiseVq s t f).counters = s.counters := rfl
@[simp] theorem raiseVq_staged (t : Nat) (f : Flags) : (raiseVq s t f).staged = s.staged := rfl
@[simp] theorem raiseVq_commit (t : Nat) (f : Flags) : (raiseVq s t f).commit = s.commit := rfl
@[simp] theorem raiseVq_principals (t : Nat) (f : Flags) : (raiseVq s t f).principals = s.principals := rfl
@[simp] theorem raiseVq_transfers (t : Nat) (f : Flags) : (raiseVq s t f).transfers = s.transfers := rfl
@[simp] theorem raiseVq_spdm (t : Nat) (f : Flags) : (raiseVq s t f).spdm = s.spdm := rfl
@[simp] theorem raiseVq_cad (t : Nat) (f : Flags) : (raiseVq s t f).cad = s.cad := rfl
@[simp] theorem raiseVq_power (t : Nat) (f : Flags) : (raiseVq s t f).power = s.power := rfl
@[simp] theorem raiseVq_link (t : Nat) (f : Flags) : (raiseVq s t f).link = s.link := rfl
@[simp] theorem raiseVq_faultsum (t : Nat) (f : Flags) : (raiseVq s t f).faultsum = s.faultsum := rfl
@[simp] theorem raiseVq_windowErrs (t : Nat) (f : Flags) : (raiseVq s t f).windowErrs = s.windowErrs := rfl
@[simp] theorem raiseVq_windowCrossed (t : Nat) (f : Flags) : (raiseVq s t f).windowCrossed = s.windowCrossed := rfl
@[simp] theorem raiseVq_samples (t : Nat) (f : Flags) : (raiseVq s t f).samples = s.samples := rfl
@[simp] theorem raiseVq_alert (t : Nat) (f : Flags) : (raiseVq s t f).alert = s.alert := rfl
@[simp] theorem raiseVq_coolantHigh (t : Nat) (f : Flags) : (raiseVq s t f).coolantHigh = s.coolantHigh := rfl
@[simp] theorem getStack_raiseVq (t : Nat) (f : Flags) (x : Nat) : getStack (raiseVq s t f) x = getStack s x := rfl
@[simp] theorem getPart_raiseVq (t : Nat) (f : Flags) (x : Nat) : getPart (raiseVq s t f) x = getPart s x := rfl
@[simp] theorem getSteward_raiseVq (t : Nat) (f : Flags) (x : Nat) : getSteward (raiseVq s t f) x = getSteward s x := rfl
@[simp] theorem getPort_raiseVq (t : Nat) (f : Flags) (x : Nat) : getPort (raiseVq s t f) x = getPort s x := rfl
@[simp] theorem getBead_raiseVq (t : Nat) (f : Flags) (x y : Nat) : getBead (raiseVq s t f) x y = getBead s x y := rfl
@[simp] theorem counter_raiseVq (t : Nat) (f : Flags) (x y : Nat) : counter (raiseVq s t f) x y = counter s x y := rfl
@[simp] theorem isReady_raiseVq (t : Nat) (f : Flags) : isReady (raiseVq s t f) = isReady s := rfl
@[simp] theorem corePresent_raiseVq (t : Nat) (f : Flags) (x : Nat) : corePresent (raiseVq s t f) x = corePresent s x := rfl
@[simp] theorem linkUp_raiseVq (t : Nat) (f : Flags) : linkUp (raiseVq s t f) = linkUp s := rfl

/-! ### raiseTq -/

@[simp] theorem raiseTq_pending (t : Nat) (f : Flags) : (raiseTq s t f).pending = s.pending := rfl
@[simp] theorem raiseTq_free (t : Nat) (f : Flags) : (raiseTq s t f).free = s.free := rfl
@[simp] theorem raiseTq_boot (t : Nat) (f : Flags) : (raiseTq s t f).boot = s.boot := rfl
@[simp] theorem raiseTq_now (t : Nat) (f : Flags) : (raiseTq s t f).now = s.now := rfl
@[simp] theorem raiseTq_prev (t : Nat) (f : Flags) : (raiseTq s t f).prev = s.prev := rfl
@[simp] theorem raiseTq_order (t : Nat) (f : Flags) : (raiseTq s t f).order = s.order := rfl
@[simp] theorem raiseTq_out (t : Nat) (f : Flags) : (raiseTq s t f).out = s.out := rfl
@[simp] theorem raiseTq_hw (t : Nat) (f : Flags) : (raiseTq s t f).hw = s.hw := rfl
@[simp] theorem raiseTq_fw (t : Nat) (f : Flags) : (raiseTq s t f).fw = s.fw := rfl
@[simp] theorem raiseTq_tripl (t : Nat) (f : Flags) : (raiseTq s t f).tripl = s.tripl := rfl
@[simp] theorem raiseTq_voteFatal (t : Nat) (f : Flags) : (raiseTq s t f).voteFatal = s.voteFatal := rfl
@[simp] theorem raiseTq_mem (t : Nat) (f : Flags) : (raiseTq s t f).mem = s.mem := rfl
@[simp] theorem raiseTq_poison (t : Nat) (f : Flags) : (raiseTq s t f).poison = s.poison := rfl
@[simp] theorem raiseTq_cache (t : Nat) (f : Flags) : (raiseTq s t f).cache = s.cache := rfl
@[simp] theorem raiseTq_lineErr (t : Nat) (f : Flags) : (raiseTq s t f).lineErr = s.lineErr := rfl
@[simp] theorem raiseTq_objPoison (t : Nat) (f : Flags) : (raiseTq s t f).objPoison = s.objPoison := rfl
@[simp] theorem raiseTq_errs (t : Nat) (f : Flags) : (raiseTq s t f).errs = s.errs := rfl
@[simp] theorem raiseTq_beads (t : Nat) (f : Flags) : (raiseTq s t f).beads = s.beads := rfl
@[simp] theorem raiseTq_watches (t : Nat) (f : Flags) : (raiseTq s t f).watches = s.watches := rfl
@[simp] theorem raiseTq_msgs (t : Nat) (f : Flags) : (raiseTq s t f).msgs = s.msgs := rfl
@[simp] theorem raiseTq_stewards (t : Nat) (f : Flags) : (raiseTq s t f).stewards = s.stewards := rfl
@[simp] theorem raiseTq_prara (t : Nat) (f : Flags) : (raiseTq s t f).prara = s.prara := rfl
@[simp] theorem raiseTq_parts (t : Nat) (f : Flags) : (raiseTq s t f).parts = s.parts := rfl
@[simp] theorem raiseTq_ports (t : Nat) (f : Flags) : (raiseTq s t f).ports = s.ports := rfl
@[simp] theorem raiseTq_spanHeld (t : Nat) (f : Flags) : (raiseTq s t f).spanHeld = s.spanHeld := rfl
@[simp] theorem raiseTq_dieLog (t : Nat) (f : Flags) : (raiseTq s t f).dieLog = s.dieLog := rfl
@[simp] theorem raiseTq_objs (t : Nat) (f : Flags) : (raiseTq s t f).objs = s.objs := rfl
@[simp] theorem raiseTq_counters (t : Nat) (f : Flags) : (raiseTq s t f).counters = s.counters := rfl
@[simp] theorem raiseTq_staged (t : Nat) (f : Flags) : (raiseTq s t f).staged = s.staged := rfl
@[simp] theorem raiseTq_commit (t : Nat) (f : Flags) : (raiseTq s t f).commit = s.commit := rfl
@[simp] theorem raiseTq_principals (t : Nat) (f : Flags) : (raiseTq s t f).principals = s.principals := rfl
@[simp] theorem raiseTq_transfers (t : Nat) (f : Flags) : (raiseTq s t f).transfers = s.transfers := rfl
@[simp] theorem raiseTq_spdm (t : Nat) (f : Flags) : (raiseTq s t f).spdm = s.spdm := rfl
@[simp] theorem raiseTq_cad (t : Nat) (f : Flags) : (raiseTq s t f).cad = s.cad := rfl
@[simp] theorem raiseTq_power (t : Nat) (f : Flags) : (raiseTq s t f).power = s.power := rfl
@[simp] theorem raiseTq_link (t : Nat) (f : Flags) : (raiseTq s t f).link = s.link := rfl
@[simp] theorem raiseTq_faultsum (t : Nat) (f : Flags) : (raiseTq s t f).faultsum = s.faultsum := rfl
@[simp] theorem raiseTq_windowErrs (t : Nat) (f : Flags) : (raiseTq s t f).windowErrs = s.windowErrs := rfl
@[simp] theorem raiseTq_windowCrossed (t : Nat) (f : Flags) : (raiseTq s t f).windowCrossed = s.windowCrossed := rfl
@[simp] theorem raiseTq_samples (t : Nat) (f : Flags) : (raiseTq s t f).samples = s.samples := rfl
@[simp] theorem raiseTq_alert (t : Nat) (f : Flags) : (raiseTq s t f).alert = s.alert := rfl
@[simp] theorem raiseTq_coolantHigh (t : Nat) (f : Flags) : (raiseTq s t f).coolantHigh = s.coolantHigh := rfl
@[simp] theorem getStack_raiseTq (t : Nat) (f : Flags) (x : Nat) : getStack (raiseTq s t f) x = getStack s x := rfl
@[simp] theorem getPart_raiseTq (t : Nat) (f : Flags) (x : Nat) : getPart (raiseTq s t f) x = getPart s x := rfl
@[simp] theorem getSteward_raiseTq (t : Nat) (f : Flags) (x : Nat) : getSteward (raiseTq s t f) x = getSteward s x := rfl
@[simp] theorem getPort_raiseTq (t : Nat) (f : Flags) (x : Nat) : getPort (raiseTq s t f) x = getPort s x := rfl
@[simp] theorem getBead_raiseTq (t : Nat) (f : Flags) (x y : Nat) : getBead (raiseTq s t f) x y = getBead s x y := rfl
@[simp] theorem counter_raiseTq (t : Nat) (f : Flags) (x y : Nat) : counter (raiseTq s t f) x y = counter s x y := rfl
@[simp] theorem isReady_raiseTq (t : Nat) (f : Flags) : isReady (raiseTq s t f) = isReady s := rfl
@[simp] theorem corePresent_raiseTq (t : Nat) (f : Flags) (x : Nat) : corePresent (raiseTq s t f) x = corePresent s x := rfl
@[simp] theorem linkUp_raiseTq (t : Nat) (f : Flags) : linkUp (raiseTq s t f) = linkUp s := rfl

/-! ### raiseSvu -/

@[simp] theorem raiseSvu_pending (i : Nat) (f : Flags) : (raiseSvu s i f).pending = s.pending := rfl
@[simp] theorem raiseSvu_free (i : Nat) (f : Flags) : (raiseSvu s i f).free = s.free := rfl
@[simp] theorem raiseSvu_boot (i : Nat) (f : Flags) : (raiseSvu s i f).boot = s.boot := rfl
@[simp] theorem raiseSvu_now (i : Nat) (f : Flags) : (raiseSvu s i f).now = s.now := rfl
@[simp] theorem raiseSvu_prev (i : Nat) (f : Flags) : (raiseSvu s i f).prev = s.prev := rfl
@[simp] theorem raiseSvu_order (i : Nat) (f : Flags) : (raiseSvu s i f).order = s.order := rfl
@[simp] theorem raiseSvu_out (i : Nat) (f : Flags) : (raiseSvu s i f).out = s.out := rfl
@[simp] theorem raiseSvu_hw (i : Nat) (f : Flags) : (raiseSvu s i f).hw = s.hw := rfl
@[simp] theorem raiseSvu_fw (i : Nat) (f : Flags) : (raiseSvu s i f).fw = s.fw := rfl
@[simp] theorem raiseSvu_tripl (i : Nat) (f : Flags) : (raiseSvu s i f).tripl = s.tripl := rfl
@[simp] theorem raiseSvu_voteFatal (i : Nat) (f : Flags) : (raiseSvu s i f).voteFatal = s.voteFatal := rfl
@[simp] theorem raiseSvu_mem (i : Nat) (f : Flags) : (raiseSvu s i f).mem = s.mem := rfl
@[simp] theorem raiseSvu_poison (i : Nat) (f : Flags) : (raiseSvu s i f).poison = s.poison := rfl
@[simp] theorem raiseSvu_cache (i : Nat) (f : Flags) : (raiseSvu s i f).cache = s.cache := rfl
@[simp] theorem raiseSvu_lineErr (i : Nat) (f : Flags) : (raiseSvu s i f).lineErr = s.lineErr := rfl
@[simp] theorem raiseSvu_objPoison (i : Nat) (f : Flags) : (raiseSvu s i f).objPoison = s.objPoison := rfl
@[simp] theorem raiseSvu_errs (i : Nat) (f : Flags) : (raiseSvu s i f).errs = s.errs := rfl
@[simp] theorem raiseSvu_beads (i : Nat) (f : Flags) : (raiseSvu s i f).beads = s.beads := rfl
@[simp] theorem raiseSvu_watches (i : Nat) (f : Flags) : (raiseSvu s i f).watches = s.watches := rfl
@[simp] theorem raiseSvu_msgs (i : Nat) (f : Flags) : (raiseSvu s i f).msgs = s.msgs := rfl
@[simp] theorem raiseSvu_cores (i : Nat) (f : Flags) : (raiseSvu s i f).cores = s.cores := rfl
@[simp] theorem raiseSvu_prara (i : Nat) (f : Flags) : (raiseSvu s i f).prara = s.prara := rfl
@[simp] theorem raiseSvu_parts (i : Nat) (f : Flags) : (raiseSvu s i f).parts = s.parts := rfl
@[simp] theorem raiseSvu_ports (i : Nat) (f : Flags) : (raiseSvu s i f).ports = s.ports := rfl
@[simp] theorem raiseSvu_spanHeld (i : Nat) (f : Flags) : (raiseSvu s i f).spanHeld = s.spanHeld := rfl
@[simp] theorem raiseSvu_dieLog (i : Nat) (f : Flags) : (raiseSvu s i f).dieLog = s.dieLog := rfl
@[simp] theorem raiseSvu_objs (i : Nat) (f : Flags) : (raiseSvu s i f).objs = s.objs := rfl
@[simp] theorem raiseSvu_counters (i : Nat) (f : Flags) : (raiseSvu s i f).counters = s.counters := rfl
@[simp] theorem raiseSvu_staged (i : Nat) (f : Flags) : (raiseSvu s i f).staged = s.staged := rfl
@[simp] theorem raiseSvu_commit (i : Nat) (f : Flags) : (raiseSvu s i f).commit = s.commit := rfl
@[simp] theorem raiseSvu_principals (i : Nat) (f : Flags) : (raiseSvu s i f).principals = s.principals := rfl
@[simp] theorem raiseSvu_transfers (i : Nat) (f : Flags) : (raiseSvu s i f).transfers = s.transfers := rfl
@[simp] theorem raiseSvu_spdm (i : Nat) (f : Flags) : (raiseSvu s i f).spdm = s.spdm := rfl
@[simp] theorem raiseSvu_cad (i : Nat) (f : Flags) : (raiseSvu s i f).cad = s.cad := rfl
@[simp] theorem raiseSvu_power (i : Nat) (f : Flags) : (raiseSvu s i f).power = s.power := rfl
@[simp] theorem raiseSvu_link (i : Nat) (f : Flags) : (raiseSvu s i f).link = s.link := rfl
@[simp] theorem raiseSvu_faultsum (i : Nat) (f : Flags) : (raiseSvu s i f).faultsum = s.faultsum := rfl
@[simp] theorem raiseSvu_windowErrs (i : Nat) (f : Flags) : (raiseSvu s i f).windowErrs = s.windowErrs := rfl
@[simp] theorem raiseSvu_windowCrossed (i : Nat) (f : Flags) : (raiseSvu s i f).windowCrossed = s.windowCrossed := rfl
@[simp] theorem raiseSvu_samples (i : Nat) (f : Flags) : (raiseSvu s i f).samples = s.samples := rfl
@[simp] theorem raiseSvu_alert (i : Nat) (f : Flags) : (raiseSvu s i f).alert = s.alert := rfl
@[simp] theorem raiseSvu_coolantHigh (i : Nat) (f : Flags) : (raiseSvu s i f).coolantHigh = s.coolantHigh := rfl
@[simp] theorem getCore_raiseSvu (i : Nat) (f : Flags) (x : Nat) : getCore (raiseSvu s i f) x = getCore s x := rfl
@[simp] theorem getStack_raiseSvu (i : Nat) (f : Flags) (x : Nat) : getStack (raiseSvu s i f) x = getStack s x := rfl
@[simp] theorem getPart_raiseSvu (i : Nat) (f : Flags) (x : Nat) : getPart (raiseSvu s i f) x = getPart s x := rfl
@[simp] theorem getPort_raiseSvu (i : Nat) (f : Flags) (x : Nat) : getPort (raiseSvu s i f) x = getPort s x := rfl
@[simp] theorem getBead_raiseSvu (i : Nat) (f : Flags) (x y : Nat) : getBead (raiseSvu s i f) x y = getBead s x y := rfl
@[simp] theorem counter_raiseSvu (i : Nat) (f : Flags) (x y : Nat) : counter (raiseSvu s i f) x y = counter s x y := rfl
@[simp] theorem isReady_raiseSvu (i : Nat) (f : Flags) : isReady (raiseSvu s i f) = isReady s := rfl
@[simp] theorem corePresent_raiseSvu (i : Nat) (f : Flags) (x : Nat) : corePresent (raiseSvu s i f) x = corePresent s x := rfl
@[simp] theorem linkUp_raiseSvu (i : Nat) (f : Flags) : linkUp (raiseSvu s i f) = linkUp s := rfl

/-! ### setKernel -/

@[simp] theorem setKernel_pending (t : Nat) (k : Kernel) : (setKernel s t k).pending = s.pending := rfl
@[simp] theorem setKernel_free (t : Nat) (k : Kernel) : (setKernel s t k).free = s.free := rfl
@[simp] theorem setKernel_boot (t : Nat) (k : Kernel) : (setKernel s t k).boot = s.boot := rfl
@[simp] theorem setKernel_now (t : Nat) (k : Kernel) : (setKernel s t k).now = s.now := rfl
@[simp] theorem setKernel_prev (t : Nat) (k : Kernel) : (setKernel s t k).prev = s.prev := rfl
@[simp] theorem setKernel_order (t : Nat) (k : Kernel) : (setKernel s t k).order = s.order := rfl
@[simp] theorem setKernel_out (t : Nat) (k : Kernel) : (setKernel s t k).out = s.out := rfl
@[simp] theorem setKernel_hw (t : Nat) (k : Kernel) : (setKernel s t k).hw = s.hw := rfl
@[simp] theorem setKernel_fw (t : Nat) (k : Kernel) : (setKernel s t k).fw = s.fw := rfl
@[simp] theorem setKernel_tripl (t : Nat) (k : Kernel) : (setKernel s t k).tripl = s.tripl := rfl
@[simp] theorem setKernel_voteFatal (t : Nat) (k : Kernel) : (setKernel s t k).voteFatal = s.voteFatal := rfl
@[simp] theorem setKernel_mem (t : Nat) (k : Kernel) : (setKernel s t k).mem = s.mem := rfl
@[simp] theorem setKernel_poison (t : Nat) (k : Kernel) : (setKernel s t k).poison = s.poison := rfl
@[simp] theorem setKernel_cache (t : Nat) (k : Kernel) : (setKernel s t k).cache = s.cache := rfl
@[simp] theorem setKernel_lineErr (t : Nat) (k : Kernel) : (setKernel s t k).lineErr = s.lineErr := rfl
@[simp] theorem setKernel_objPoison (t : Nat) (k : Kernel) : (setKernel s t k).objPoison = s.objPoison := rfl
@[simp] theorem setKernel_errs (t : Nat) (k : Kernel) : (setKernel s t k).errs = s.errs := rfl
@[simp] theorem setKernel_beads (t : Nat) (k : Kernel) : (setKernel s t k).beads = s.beads := rfl
@[simp] theorem setKernel_watches (t : Nat) (k : Kernel) : (setKernel s t k).watches = s.watches := rfl
@[simp] theorem setKernel_msgs (t : Nat) (k : Kernel) : (setKernel s t k).msgs = s.msgs := rfl
@[simp] theorem setKernel_stewards (t : Nat) (k : Kernel) : (setKernel s t k).stewards = s.stewards := rfl
@[simp] theorem setKernel_prara (t : Nat) (k : Kernel) : (setKernel s t k).prara = s.prara := rfl
@[simp] theorem setKernel_parts (t : Nat) (k : Kernel) : (setKernel s t k).parts = s.parts := rfl
@[simp] theorem setKernel_ports (t : Nat) (k : Kernel) : (setKernel s t k).ports = s.ports := rfl
@[simp] theorem setKernel_spanHeld (t : Nat) (k : Kernel) : (setKernel s t k).spanHeld = s.spanHeld := rfl
@[simp] theorem setKernel_dieLog (t : Nat) (k : Kernel) : (setKernel s t k).dieLog = s.dieLog := rfl
@[simp] theorem setKernel_objs (t : Nat) (k : Kernel) : (setKernel s t k).objs = s.objs := rfl
@[simp] theorem setKernel_counters (t : Nat) (k : Kernel) : (setKernel s t k).counters = s.counters := rfl
@[simp] theorem setKernel_staged (t : Nat) (k : Kernel) : (setKernel s t k).staged = s.staged := rfl
@[simp] theorem setKernel_commit (t : Nat) (k : Kernel) : (setKernel s t k).commit = s.commit := rfl
@[simp] theorem setKernel_principals (t : Nat) (k : Kernel) : (setKernel s t k).principals = s.principals := rfl
@[simp] theorem setKernel_transfers (t : Nat) (k : Kernel) : (setKernel s t k).transfers = s.transfers := rfl
@[simp] theorem setKernel_spdm (t : Nat) (k : Kernel) : (setKernel s t k).spdm = s.spdm := rfl
@[simp] theorem setKernel_cad (t : Nat) (k : Kernel) : (setKernel s t k).cad = s.cad := rfl
@[simp] theorem setKernel_power (t : Nat) (k : Kernel) : (setKernel s t k).power = s.power := rfl
@[simp] theorem setKernel_link (t : Nat) (k : Kernel) : (setKernel s t k).link = s.link := rfl
@[simp] theorem setKernel_faultsum (t : Nat) (k : Kernel) : (setKernel s t k).faultsum = s.faultsum := rfl
@[simp] theorem setKernel_windowErrs (t : Nat) (k : Kernel) : (setKernel s t k).windowErrs = s.windowErrs := rfl
@[simp] theorem setKernel_windowCrossed (t : Nat) (k : Kernel) : (setKernel s t k).windowCrossed = s.windowCrossed := rfl
@[simp] theorem setKernel_samples (t : Nat) (k : Kernel) : (setKernel s t k).samples = s.samples := rfl
@[simp] theorem setKernel_alert (t : Nat) (k : Kernel) : (setKernel s t k).alert = s.alert := rfl
@[simp] theorem setKernel_coolantHigh (t : Nat) (k : Kernel) : (setKernel s t k).coolantHigh = s.coolantHigh := rfl
@[simp] theorem getStack_setKernel (t : Nat) (k : Kernel) (x : Nat) : getStack (setKernel s t k) x = getStack s x := rfl
@[simp] theorem getPart_setKernel (t : Nat) (k : Kernel) (x : Nat) : getPart (setKernel s t k) x = getPart s x := rfl
@[simp] theorem getSteward_setKernel (t : Nat) (k : Kernel) (x : Nat) : getSteward (setKernel s t k) x = getSteward s x := rfl
@[simp] theorem getPort_setKernel (t : Nat) (k : Kernel) (x : Nat) : getPort (setKernel s t k) x = getPort s x := rfl
@[simp] theorem getBead_setKernel (t : Nat) (k : Kernel) (x y : Nat) : getBead (setKernel s t k) x y = getBead s x y := rfl
@[simp] theorem counter_setKernel (t : Nat) (k : Kernel) (x y : Nat) : counter (setKernel s t k) x y = counter s x y := rfl
@[simp] theorem isReady_setKernel (t : Nat) (k : Kernel) : isReady (setKernel s t k) = isReady s := rfl
@[simp] theorem corePresent_setKernel (t : Nat) (k : Kernel) (x : Nat) : corePresent (setKernel s t k) x = corePresent s x := rfl
@[simp] theorem linkUp_setKernel (t : Nat) (k : Kernel) : linkUp (setKernel s t k) = linkUp s := rfl

/-! ### contain -/

@[simp] theorem contain_pending (p : Nat) (h : Option Nat) (c e : Nat) : (contain s p h c e).pending = s.pending := rfl
@[simp] theorem contain_free (p : Nat) (h : Option Nat) (c e : Nat) : (contain s p h c e).free = s.free := rfl
@[simp] theorem contain_boot (p : Nat) (h : Option Nat) (c e : Nat) : (contain s p h c e).boot = s.boot := rfl
@[simp] theorem contain_now (p : Nat) (h : Option Nat) (c e : Nat) : (contain s p h c e).now = s.now := rfl
@[simp] theorem contain_prev (p : Nat) (h : Option Nat) (c e : Nat) : (contain s p h c e).prev = s.prev := rfl
@[simp] theorem contain_order (p : Nat) (h : Option Nat) (c e : Nat) : (contain s p h c e).order = s.order := rfl
@[simp] theorem contain_out (p : Nat) (h : Option Nat) (c e : Nat) : (contain s p h c e).out = s.out := rfl
@[simp] theorem contain_hw (p : Nat) (h : Option Nat) (c e : Nat) : (contain s p h c e).hw = s.hw := rfl
@[simp] theorem contain_fw (p : Nat) (h : Option Nat) (c e : Nat) : (contain s p h c e).fw = s.fw := rfl
@[simp] theorem contain_tripl (p : Nat) (h : Option Nat) (c e : Nat) : (contain s p h c e).tripl = s.tripl := rfl
@[simp] theorem contain_voteFatal (p : Nat) (h : Option Nat) (c e : Nat) : (contain s p h c e).voteFatal = s.voteFatal := rfl
@[simp] theorem contain_mem (p : Nat) (h : Option Nat) (c e : Nat) : (contain s p h c e).mem = s.mem := rfl
@[simp] theorem contain_poison (p : Nat) (h : Option Nat) (c e : Nat) : (contain s p h c e).poison = s.poison := rfl
@[simp] theorem contain_cache (p : Nat) (h : Option Nat) (c e : Nat) : (contain s p h c e).cache = s.cache := rfl
@[simp] theorem contain_lineErr (p : Nat) (h : Option Nat) (c e : Nat) : (contain s p h c e).lineErr = s.lineErr := rfl
@[simp] theorem contain_objPoison (p : Nat) (h : Option Nat) (c e : Nat) : (contain s p h c e).objPoison = s.objPoison := rfl
@[simp] theorem contain_errs (p : Nat) (h : Option Nat) (c e : Nat) : (contain s p h c e).errs = s.errs := rfl
@[simp] theorem contain_beads (p : Nat) (h : Option Nat) (c e : Nat) : (contain s p h c e).beads = s.beads := rfl
@[simp] theorem contain_watches (p : Nat) (h : Option Nat) (c e : Nat) : (contain s p h c e).watches = s.watches := rfl
@[simp] theorem contain_msgs (p : Nat) (h : Option Nat) (c e : Nat) : (contain s p h c e).msgs = s.msgs := rfl
@[simp] theorem contain_cores (p : Nat) (h : Option Nat) (c e : Nat) : (contain s p h c e).cores = s.cores := rfl
@[simp] theorem contain_stewards (p : Nat) (h : Option Nat) (c e : Nat) : (contain s p h c e).stewards = s.stewards := rfl
@[simp] theorem contain_prara (p : Nat) (h : Option Nat) (c e : Nat) : (contain s p h c e).prara = s.prara := rfl
@[simp] theorem contain_ports (p : Nat) (h : Option Nat) (c e : Nat) : (contain s p h c e).ports = s.ports := rfl
@[simp] theorem contain_spanHeld (p : Nat) (h : Option Nat) (c e : Nat) : (contain s p h c e).spanHeld = s.spanHeld := rfl
@[simp] theorem contain_dieLog (p : Nat) (h : Option Nat) (c e : Nat) : (contain s p h c e).dieLog = s.dieLog := rfl
@[simp] theorem contain_objs (p : Nat) (h : Option Nat) (c e : Nat) : (contain s p h c e).objs = s.objs := rfl
@[simp] theorem contain_counters (p : Nat) (h : Option Nat) (c e : Nat) : (contain s p h c e).counters = s.counters := rfl
@[simp] theorem contain_staged (p : Nat) (h : Option Nat) (c e : Nat) : (contain s p h c e).staged = s.staged := rfl
@[simp] theorem contain_commit (p : Nat) (h : Option Nat) (c e : Nat) : (contain s p h c e).commit = s.commit := rfl
@[simp] theorem contain_principals (p : Nat) (h : Option Nat) (c e : Nat) : (contain s p h c e).principals = s.principals := rfl
@[simp] theorem contain_transfers (p : Nat) (h : Option Nat) (c e : Nat) : (contain s p h c e).transfers = s.transfers := rfl
@[simp] theorem contain_spdm (p : Nat) (h : Option Nat) (c e : Nat) : (contain s p h c e).spdm = s.spdm := rfl
@[simp] theorem contain_cad (p : Nat) (h : Option Nat) (c e : Nat) : (contain s p h c e).cad = s.cad := rfl
@[simp] theorem contain_power (p : Nat) (h : Option Nat) (c e : Nat) : (contain s p h c e).power = s.power := rfl
@[simp] theorem contain_link (p : Nat) (h : Option Nat) (c e : Nat) : (contain s p h c e).link = s.link := rfl
@[simp] theorem contain_faultsum (p : Nat) (h : Option Nat) (c e : Nat) : (contain s p h c e).faultsum = s.faultsum := rfl
@[simp] theorem contain_windowErrs (p : Nat) (h : Option Nat) (c e : Nat) : (contain s p h c e).windowErrs = s.windowErrs := rfl
@[simp] theorem contain_windowCrossed (p : Nat) (h : Option Nat) (c e : Nat) : (contain s p h c e).windowCrossed = s.windowCrossed := rfl
@[simp] theorem contain_samples (p : Nat) (h : Option Nat) (c e : Nat) : (contain s p h c e).samples = s.samples := rfl
@[simp] theorem contain_alert (p : Nat) (h : Option Nat) (c e : Nat) : (contain s p h c e).alert = s.alert := rfl
@[simp] theorem contain_coolantHigh (p : Nat) (h : Option Nat) (c e : Nat) : (contain s p h c e).coolantHigh = s.coolantHigh := rfl
@[simp] theorem getCore_contain (p : Nat) (h : Option Nat) (c e : Nat) (x : Nat) : getCore (contain s p h c e) x = getCore s x := rfl
@[simp] theorem getStack_contain (p : Nat) (h : Option Nat) (c e : Nat) (x : Nat) : getStack (contain s p h c e) x = getStack s x := rfl
@[simp] theorem getSteward_contain (p : Nat) (h : Option Nat) (c e : Nat) (x : Nat) : getSteward (contain s p h c e) x = getSteward s x := rfl
@[simp] theorem getPort_contain (p : Nat) (h : Option Nat) (c e : Nat) (x : Nat) : getPort (contain s p h c e) x = getPort s x := rfl
@[simp] theorem getBead_contain (p : Nat) (h : Option Nat) (c e : Nat) (x y : Nat) : getBead (contain s p h c e) x y = getBead s x y := rfl
@[simp] theorem counter_contain (p : Nat) (h : Option Nat) (c e : Nat) (x y : Nat) : counter (contain s p h c e) x y = counter s x y := rfl
@[simp] theorem isReady_contain (p : Nat) (h : Option Nat) (c e : Nat) : isReady (contain s p h c e) = isReady s := rfl
@[simp] theorem corePresent_contain (p : Nat) (h : Option Nat) (c e : Nat) (x : Nat) : corePresent (contain s p h c e) x = corePresent s x := rfl
@[simp] theorem linkUp_contain (p : Nat) (h : Option Nat) (c e : Nat) : linkUp (contain s p h c e) = linkUp s := rfl

/-! ### report -/

@[simp] theorem report_pending (i c d : Nat) : (report s i c d).pending = s.pending := rfl
@[simp] theorem report_free (i c d : Nat) : (report s i c d).free = s.free := rfl
@[simp] theorem report_boot (i c d : Nat) : (report s i c d).boot = s.boot := rfl
@[simp] theorem report_now (i c d : Nat) : (report s i c d).now = s.now := rfl
@[simp] theorem report_prev (i c d : Nat) : (report s i c d).prev = s.prev := rfl
@[simp] theorem report_order (i c d : Nat) : (report s i c d).order = s.order := rfl
@[simp] theorem report_hw (i c d : Nat) : (report s i c d).hw = s.hw := rfl
@[simp] theorem report_fw (i c d : Nat) : (report s i c d).fw = s.fw := rfl
@[simp] theorem report_tripl (i c d : Nat) : (report s i c d).tripl = s.tripl := rfl
@[simp] theorem report_voteFatal (i c d : Nat) : (report s i c d).voteFatal = s.voteFatal := rfl
@[simp] theorem report_mem (i c d : Nat) : (report s i c d).mem = s.mem := rfl
@[simp] theorem report_poison (i c d : Nat) : (report s i c d).poison = s.poison := rfl
@[simp] theorem report_cache (i c d : Nat) : (report s i c d).cache = s.cache := rfl
@[simp] theorem report_lineErr (i c d : Nat) : (report s i c d).lineErr = s.lineErr := rfl
@[simp] theorem report_objPoison (i c d : Nat) : (report s i c d).objPoison = s.objPoison := rfl
@[simp] theorem report_errs (i c d : Nat) : (report s i c d).errs = s.errs := rfl
@[simp] theorem report_beads (i c d : Nat) : (report s i c d).beads = s.beads := rfl
@[simp] theorem report_watches (i c d : Nat) : (report s i c d).watches = s.watches := rfl
@[simp] theorem report_msgs (i c d : Nat) : (report s i c d).msgs = s.msgs := rfl
@[simp] theorem report_cores (i c d : Nat) : (report s i c d).cores = s.cores := rfl
@[simp] theorem report_stewards (i c d : Nat) : (report s i c d).stewards = s.stewards := rfl
@[simp] theorem report_prara (i c d : Nat) : (report s i c d).prara = s.prara := rfl
@[simp] theorem report_parts (i c d : Nat) : (report s i c d).parts = s.parts := rfl
@[simp] theorem report_ports (i c d : Nat) : (report s i c d).ports = s.ports := rfl
@[simp] theorem report_spanHeld (i c d : Nat) : (report s i c d).spanHeld = s.spanHeld := rfl
@[simp] theorem report_dieLog (i c d : Nat) : (report s i c d).dieLog = s.dieLog := rfl
@[simp] theorem report_objs (i c d : Nat) : (report s i c d).objs = s.objs := rfl
@[simp] theorem report_counters (i c d : Nat) : (report s i c d).counters = s.counters := rfl
@[simp] theorem report_staged (i c d : Nat) : (report s i c d).staged = s.staged := rfl
@[simp] theorem report_commit (i c d : Nat) : (report s i c d).commit = s.commit := rfl
@[simp] theorem report_principals (i c d : Nat) : (report s i c d).principals = s.principals := rfl
@[simp] theorem report_transfers (i c d : Nat) : (report s i c d).transfers = s.transfers := rfl
@[simp] theorem report_spdm (i c d : Nat) : (report s i c d).spdm = s.spdm := rfl
@[simp] theorem report_cad (i c d : Nat) : (report s i c d).cad = s.cad := rfl
@[simp] theorem report_power (i c d : Nat) : (report s i c d).power = s.power := rfl
@[simp] theorem report_link (i c d : Nat) : (report s i c d).link = s.link := rfl
@[simp] theorem report_faultsum (i c d : Nat) : (report s i c d).faultsum = s.faultsum := rfl
@[simp] theorem report_windowErrs (i c d : Nat) : (report s i c d).windowErrs = s.windowErrs := rfl
@[simp] theorem report_windowCrossed (i c d : Nat) : (report s i c d).windowCrossed = s.windowCrossed := rfl
@[simp] theorem report_samples (i c d : Nat) : (report s i c d).samples = s.samples := rfl
@[simp] theorem report_alert (i c d : Nat) : (report s i c d).alert = s.alert := rfl
@[simp] theorem report_coolantHigh (i c d : Nat) : (report s i c d).coolantHigh = s.coolantHigh := rfl
@[simp] theorem getCore_report (i c d : Nat) (x : Nat) : getCore (report s i c d) x = getCore s x := rfl
@[simp] theorem getStack_report (i c d : Nat) (x : Nat) : getStack (report s i c d) x = getStack s x := rfl
@[simp] theorem getPart_report (i c d : Nat) (x : Nat) : getPart (report s i c d) x = getPart s x := rfl
@[simp] theorem getSteward_report (i c d : Nat) (x : Nat) : getSteward (report s i c d) x = getSteward s x := rfl
@[simp] theorem getPort_report (i c d : Nat) (x : Nat) : getPort (report s i c d) x = getPort s x := rfl
@[simp] theorem getBead_report (i c d : Nat) (x y : Nat) : getBead (report s i c d) x y = getBead s x y := rfl
@[simp] theorem counter_report (i c d : Nat) (x y : Nat) : counter (report s i c d) x y = counter s x y := rfl
@[simp] theorem isReady_report (i c d : Nat) : isReady (report s i c d) = isReady s := rfl
@[simp] theorem corePresent_report (i c d : Nat) (x : Nat) : corePresent (report s i c d) x = corePresent s x := rfl
@[simp] theorem linkUp_report (i c d : Nat) : linkUp (report s i c d) = linkUp s := rfl

/-! ### Reads of the changed unit -/

@[simp] theorem getCore_updCore_same (t : Nat) (f : Core → Core) : getCore (updCore s t f) t = f (getCore s t) := by
  simp [getCore, updCore]

theorem getCore_updCore (t : Nat) (f : Core → Core) (x : Nat) :
    getCore (updCore s t f) x = if x = t then f (getCore s t) else getCore s x := by simp [getCore, updCore, sGet_sMod]

@[simp] theorem getStack_updStack_same (n : Nat) (f : Stack → Stack) : getStack (updStack s n f) n = f (getStack s n) := by
  simp [getStack, updStack]

theorem getStack_updStack (n : Nat) (f : Stack → Stack) (x : Nat) :
    getStack (updStack s n f) x = if x = n then f (getStack s n) else getStack s x := by simp [getStack, updStack, sGet_sMod]

@[simp] theorem getPart_updPart_same (p : Nat) (f : Part → Part) : getPart (updPart s p f) p = f (getPart s p) := by
  simp [getPart, updPart]

theorem getPart_updPart (p : Nat) (f : Part → Part) (x : Nat) :
    getPart (updPart s p f) x = if x = p then f (getPart s p) else getPart s x := by simp [getPart, updPart, sGet_sMod]

@[simp] theorem getSteward_updSteward_same (i : Nat) (f : Steward → Steward) :
    getSteward (updSteward s i f) i = f (getSteward s i) := by simp [getSteward, updSteward]

theorem getSteward_updSteward (i : Nat) (f : Steward → Steward) (x : Nat) :
    getSteward (updSteward s i f) x = if x = i then f (getSteward s i) else getSteward s x := by
  simp [getSteward, updSteward, sGet_sMod]

@[simp] theorem getPort_updPort_same (n : Nat) (f : Port → Port) : getPort (updPort s n f) n = f (getPort s n) := by
  simp [getPort, updPort]

theorem getPort_updPort (n : Nat) (f : Port → Port) (x : Nat) :
    getPort (updPort s n f) x = if x = n then f (getPort s n) else getPort s x := by simp [getPort, updPort, sGet_sMod]

@[simp] theorem getEngine_updEngine_same (n q : Nat) (f : Engine → Engine) :
    getEngine (getStack (updEngine s n q f) n) q = f (getEngine (getStack s n) q) := by simp [getEngine, updEngine]

@[simp] theorem getBead_setBead_same (d n : Nat) (b : Bead) : getBead (setBead s d n b) d n = b := by simp [getBead, setBead]

@[simp] theorem counter_setCounter_same (i j n : Nat) : counter (setCounter s i j n) i j = n := by simp [counter, setCounter]

@[simp] theorem counter_bump_same (i j n : Nat) : counter (bump s i j n) i j = counter s i j + n := by simp [counter, bump]

@[simp] theorem emit_out (o : Output) : (emit s o).out = s.out ++ [o] := rfl

@[simp] theorem drew_free : (drew s).free = s.free + 1 := rfl

end Sys2Proof.Machine
end

