-- ==== Sys2Proof/Laws/Memory.lean ====
section
/-! SUPPORT. What every access of memory can do: which fields it may change, and that it keeps the canonical form. -/

namespace Sys2Proof.Machine

open Sys2Proof

/-! ### The lines of the shared cache -/

theorem length_putBytes (l : List Byte) (n : Nat) (v : List Byte) : (putBytes l n v).length = l.length := by
  unfold putBytes
  split
  · rw [List.length_take, List.length_append, List.length_append, List.length_take, List.length_drop]; omega
  · rfl

theorem mem_sDel {β : Type} {k : Nat} : ∀ {m : Store β} {e : Nat × β}, e ∈ sDel m k → e ∈ m
  | (a, b) :: r, e, h => by
    simp only [sDel] at h
    split at h
    · exact List.mem_cons_of_mem _ (mem_sDel h)
    · obtain rfl | h := List.mem_cons.1 h
      · exact List.mem_cons_self
      · exact List.mem_cons_of_mem _ (mem_sDel h)

theorem mem_sIns {β : Type} {k : Nat} {v : β} : ∀ {m : Store β} {e : Nat × β}, e ∈ sIns m k v → e = (k, v) ∨ e ∈ m
  | [], e, h => by simpa [sIns] using h
  | (a, b) :: r, e, h => by
    simp only [sIns] at h
    split at h
    · simpa using h
    · split at h
      · exact (List.mem_cons.1 h).imp_right (List.mem_cons_of_mem _)
      · obtain rfl | h := List.mem_cons.1 h
        · exact .inr List.mem_cons_self
        · exact (mem_sIns h).imp_right (List.mem_cons_of_mem _)

theorem linesWf_sDel {m : Store Line} (k : Nat) (w : Lines.wf m) : Lines.wf (sDel m k) := by
  refine ⟨?_, fun e h => w.2 e (mem_sDel h)⟩
  have p := w.1
  clear w
  induction m with
  | nil => exact p
  | cons x r ih =>
    obtain ⟨a, b⟩ := x
    simp only [List.map_cons, List.pairwise_cons] at p
    simp only [sDel]
    split
    · exact ih p.2
    · refine List.pairwise_cons.2 ⟨fun c hc => ?_, ih p.2⟩
      obtain ⟨e, he, rfl⟩ := List.mem_map.1 hc
      exact p.1 _ (List.mem_map.2 ⟨e, mem_sDel he, rfl⟩)

theorem linesWf_sIns {m : Store Line} (k : Nat) {x : Line} (h : x.data.length = 128) (w : Lines.wf m) : Lines.wf (sIns m k x) := by
  refine ⟨?_, fun e he => (mem_sIns he).elim (fun y => y ▸ h) (w.2 e)⟩
  have p := w.1
  clear w
  induction m with
  | nil => exact List.pairwise_singleton _ _
  | cons y r ih =>
    obtain ⟨a, b⟩ := y
    have q := p
    simp only [List.map_cons, List.pairwise_cons] at p
    simp only [sIns]
    split
    · rename_i hk
      refine List.pairwise_cons.2 ⟨fun c hc => ?_, q⟩
      obtain rfl | hc := List.mem_cons.1 hc
      · exact hk
      · exact Nat.lt_trans hk (p.1 c hc)
    · split
      · rename_i e; subst e; exact List.pairwise_cons.2 p
      · refine List.pairwise_cons.2 ⟨fun c hc => ?_, ih p.2⟩
        obtain ⟨e, he, rfl⟩ := List.mem_map.1 hc
        obtain rfl | he := mem_sIns he
        · show a < k; omega
        · exact p.1 _ (List.mem_map.2 ⟨e, he, rfl⟩)

/-- A line that is present holds 128 bytes. -/
theorem length_of_find {s : State} (w : Lines.wf s.cache) {f : Nat × Line → Bool} {e : Nat × Line} (h : s.cache.find? f = some e) :
    e.2.data.length = 128 := w.2 e (List.mem_of_find?_eq_some h)

theorem length_fillLine (s : State) (l : Nat) : (fillLine s l).data.length = 128 := length_sGetMany _ _ _ _

/-- What a line of memory is taken as, from the cache or else from memory, holds 128 bytes. -/
theorem length_lineOr {s : State} (w : Lines.wf s.cache) (a l : Nat) : ((lineOf s a).getD (fillLine s l)).data.length = 128 := by
  unfold lineOf
  cases h : s.cache.find? (fun e => e.1 == a / 128) with
  | none => exact length_fillLine s l
  | some e => exact length_of_find w h

/-- `t` is `s` but for what an access of memory may change: memory with its poison marks, latent errors and cached lines; the error
logs, counts and interrupts of the errors it meets; the triplicated words it votes; the back-invalidations it sends; the stalls that it
gives engines; the free values it draws. -/
structure MemStep (s t : State) : Prop where
  frame : t =
    { s with
      free := t.free, out := t.out, mem := t.mem, poison := t.poison, cache := t.cache, lineErr := t.lineErr, errs := t.errs, prara := t.prara, dieLog := t.dieLog,
      counters := t.counters, link := t.link, faultsum := t.faultsum, windowErrs := t.windowErrs, windowCrossed := t.windowCrossed, tripl := t.tripl, voteFatal := t.voteFatal }
  wf : s.memWf → t.memWf
  level : t.link.level = s.link.level
  sameStack : ∀ n, getStack t n =
    { getStack s n with errBursts := (getStack t n).errBursts, log := (getStack t n).log, engines := (getStack t n).engines,
                        launch := (getStack t n).launch }
  engines : ∀ n q, getEngine (getStack t n) q = { getEngine (getStack s n) q with stallext := (getEngine (getStack t n) q).stallext }
  launches : ∀ n, (getStack t n).launch.map (fun l => { l with stallext := 0 }) = (getStack s n).launch.map (fun l => { l with stallext := 0 })
  still : ∀ n q, (getEngine (getStack s n) q).running = false → getEngine (getStack t n) q = getEngine (getStack s n) q

theorem MemStep.refl (s : State) : MemStep s s := ⟨rfl, id, rfl, fun _ => rfl, fun _ _ => rfl, fun _ => rfl, fun _ _ _ => rfl⟩

theorem MemStep.trans {s t u : State} (h : MemStep s t) (k : MemStep t u) : MemStep s u := by
  refine ⟨?_, fun w => k.wf (h.wf w), k.level.trans h.level, fun n => ?_, fun n q => ?_, fun n => (k.launches n).trans (h.launches n),
    fun n q r => (k.still n q (by rw [h.still n q r]; exact r)).trans (h.still n q r)⟩
  · have := k.frame; rw [h.frame] at this; exact this
  · have := k.sameStack n; rw [h.sameStack n] at this; exact this
  · have := k.engines n q; rw [h.engines n q] at this; exact this

/-- A step that leaves every stack as it was. -/
theorem MemStep.ofPrara {s t : State} (h : t =
    { s with
      free := t.free, out := t.out, mem := t.mem, poison := t.poison, cache := t.cache, lineErr := t.lineErr, errs := t.errs,
      dieLog := t.dieLog, counters := t.counters, link := t.link, faultsum := t.faultsum, windowErrs := t.windowErrs, windowCrossed := t.windowCrossed, tripl := t.tripl, voteFatal := t.voteFatal })
    (w : s.memWf → t.memWf) (l : t.link.level = s.link.level) : MemStep s t := by
  have e : t.prara = s.prara := by rw [h]
  have g : ∀ n, getStack t n = getStack s n := fun n => by unfold getStack; rw [e]
  refine ⟨?_, w, l, fun n => ?_, fun n q => ?_, fun n => ?_, fun n q _ => ?_⟩
  · rw [e]; exact h
  all_goals rw [g n]

theorem MemStep.foldl {α : Type} (f : State → α → State) (l : List α) (h : ∀ s a, MemStep s (f s a)) :
    ∀ s, MemStep s (l.foldl f s) := by
  induction l with
  | nil => exact fun s => MemStep.refl s
  | cons x r ih => exact fun s => (h s x).trans (ih _)

/-- A fold over a state paired with something else. -/
theorem MemStep.foldlFst {α γ : Type} (f : State × γ → α → State × γ) (l : List α) (h : ∀ x a, MemStep x.1 (f x a).1) :
    ∀ x, MemStep x.1 (l.foldl f x).1 := by
  induction l with
  | nil => exact fun x => MemStep.refl x.1
  | cons y r ih => exact fun x => (h x y).trans (ih _)

/-- The lines held replaced after a step, in their canonical form. -/
theorem MemStep.withCache {s t : State} (h : MemStep s t) (m : Store Line) (w : Lines.wf s.cache → Lines.wf m) :
    MemStep s { t with cache := m } :=
  ⟨congrArg (fun x : State => { x with cache := m }) h.frame, fun k => ⟨(h.wf k).1, (h.wf k).2.1, w k.2.2⟩, h.level, h.sameStack, h.engines,
   h.launches, h.still⟩

/-! ### Counts, logs and interrupts -/

theorem memStep_emit (s : State) (o : Output) : MemStep s (emit s o) := MemStep.ofPrara rfl id rfl

theorem memStep_drew (s : State) : MemStep s (drew s) := MemStep.ofPrara rfl id rfl

theorem memStep_bump (s : State) (i j n : Nat) : MemStep s (bump s i j n) := MemStep.ofPrara rfl id rfl

theorem memStep_setFaultBit (s : State) (i : Nat) : MemStep s (setFaultBit s i) := by
  unfold setFaultBit; split <;> exact MemStep.ofPrara rfl id rfl

theorem memStep_noteDie (s : State) (d : Nat) (e : LogEntry) : MemStep s (noteDie s d e) := by
  unfold noteDie; dsimp only; split <;> exact MemStep.ofPrara rfl id rfl

theorem memStep_stackLog (s : State) (n : Nat) (f : Stack → Stack)
    (h : ∀ k, f k = { k with errBursts := (f k).errBursts, log := (f k).log }) : MemStep s (updStack s n f) := by
  have e : ∀ m, getStack (updStack s n f) m = getStack s m ∨ getStack (updStack s n f) m = f (getStack s m) := fun m => by
    rw [getStack_updStack]; split
    · subst m; exact .inr rfl
    · exact .inl rfl
  refine ⟨rfl, id, rfl, fun m => ?_, fun m q => ?_, fun m => ?_, fun m q _ => ?_⟩ <;> obtain x | x := e m <;> rw [x]
  · rw [h]
  · rw [h]; rfl
  · rw [h]
  · rw [h]; rfl

theorem memStep_noteStack (s : State) (n : Nat) (e : LogEntry) : MemStep s (noteStack s n e) := by
  unfold noteStack
  dsimp only
  split
  · exact (memStep_stackLog _ _ _ (fun _ => rfl)).trans (memStep_bump _ _ _ _)
  · exact memStep_stackLog _ _ _ (fun _ => rfl)

theorem memStep_countCorrected (s : State) : MemStep s (countCorrected s) := by
  have h : MemStep s { bump s 0x4800 0x11 1 with windowErrs := s.windowErrs + 1 } := MemStep.ofPrara rfl id rfl
  unfold countCorrected
  dsimp only
  split
  · refine h.trans (MemStep.trans ?_ (memStep_setFaultBit _ _)); exact MemStep.ofPrara rfl id rfl
  · exact h

theorem memStep_countDeferred (s : State) : MemStep s (countDeferred s) :=
  (memStep_bump s _ _ _).trans (memStep_setFaultBit _ _)

theorem memStep_markPoison (s : State) (g : Nat) : MemStep s (markPoison s g) :=
  MemStep.ofPrara rfl (fun w => ⟨w.1, sWf_sSet g true w.2.1, w.2.2⟩) rfl

theorem memStep_errs (s : State) (m : Store ErrKind) : MemStep s { s with errs := m } := MemStep.ofPrara rfl id rfl

/-- Reading a granule that holds a latent error. -/
theorem memStep_detect (s : State) (g : Nat) : MemStep s (detect s g) := by
  have hs : ∀ n c b, MemStep s (updStack (countDeferred (bump s (0x4810 + n) 5 1)) n
      (fun x => { x with errBursts := addBurst x.errBursts c b s.now })) := fun n c b =>
    ((memStep_bump _ _ _ _).trans (memStep_countDeferred _)).trans (memStep_stackLog _ _ _ (fun _ => rfl))
  unfold detect
  split
  · exact MemStep.refl s
  · dsimp only
    split
    · exact (memStep_bump _ _ _ _).trans (memStep_countCorrected _)
    · split
      · exact ((memStep_bump _ _ _ _).trans (memStep_noteStack _ _ _)).trans (memStep_countCorrected _)
      · exact (memStep_bump _ _ _ _).trans (memStep_countCorrected _)
    · split
      · exact (hs _ _ _).trans (memStep_noteStack _ _ _)
      · exact hs _ _ _
    · exact memStep_errs s _
    · exact memStep_countCorrected s
    · exact memStep_countDeferred s
    · exact memStep_errs s _
    · exact (((memStep_bump _ _ _ _).trans (memStep_noteDie _ _ _)).trans (memStep_countCorrected _)).trans (memStep_errs _ _)
    · exact ((((memStep_bump _ _ _ _).trans (memStep_noteDie _ _ _)).trans (memStep_countDeferred _)).trans
        (memStep_markPoison _ _)).trans (memStep_errs _ _)

/-! ### Stores, lines, reads and writes -/

theorem memStep_pokeRaw (s : State) (a : Nat) (v : List Byte) (poison : Bool) : MemStep s (pokeRaw s a v poison) := by
  refine MemStep.ofPrara rfl (fun w => ⟨sWf_sSetMany v a w.1, sWf_foldl _ _ (fun m b h => ?_) w.2.1, w.2.2⟩) rfl
  dsimp only
  split
  · exact sWf_sSet b _ h
  · split
    · exact sWf_sSet b _ h
    · exact h

/-- The lines held change, in their canonical form. -/
theorem memStep_cache (s : State) (m : Store Line) (h : Lines.wf s.cache → Lines.wf m) : MemStep s { s with cache := m } :=
  MemStep.ofPrara rfl (fun w => ⟨w.1, w.2.1, h w.2.2⟩) rfl

theorem memStep_lines (s : State) (m : Store Line) (e : Store ErrKind) (h : Lines.wf s.cache → Lines.wf m) :
    MemStep s { s with cache := m, lineErr := e } :=
  MemStep.ofPrara rfl (fun w => ⟨w.1, w.2.1, h w.2.2⟩) rfl

theorem memStep_lineErr (s : State) (e : Store ErrKind) : MemStep s { s with lineErr := e } := MemStep.ofPrara rfl id rfl

/-- Meeting the latent error of a cached line. -/
theorem memStep_meetLine (s : State) (k : Nat) : MemStep s (meetLine s k) := by
  have note : ∀ (d sub : Nat) (e : LogEntry), MemStep s (noteDie (bump { s with lineErr := sDel s.lineErr k } (0x4820 + d) sub 1) d e) :=
    fun _ _ _ => ((memStep_lineErr s _).trans (memStep_bump _ _ _ _)).trans (memStep_noteDie _ _ _)
  unfold meetLine
  split
  · rename_i l h
    dsimp only
    split
    · exact memStep_lineErr s _
    · exact (note _ _ _).trans (memStep_countCorrected _)
    · exact MemStep.withCache ((note _ _ _).trans (memStep_countCorrected _)) _ (linesWf_sDel k)
    · exact MemStep.withCache ((note _ _ _).trans (memStep_countDeferred _)) _ (fun w => linesWf_sIns k (length_of_find w h) w)
  · exact MemStep.refl s

theorem memStep_writeBack (s : State) (k : Nat) (l : Line) : MemStep s (writeBack s k l) := by
  unfold writeBack
  dsimp only
  split
  · split
    · exact MemStep.refl s
    · exact memStep_pokeRaw _ _ _ _
  · split
    · exact MemStep.refl s
    · exact memStep_pokeRaw _ _ _ _

theorem memStep_dropLine (s : State) (k : Nat) (wb : Bool) : MemStep s (dropLine s k wb) := by
  have h : MemStep s (if wb then meetLine s k else s) := by
    split
    · exact memStep_meetLine s k
    · exact MemStep.refl s
  unfold dropLine
  dsimp only
  generalize (if wb = true then meetLine s k else s) = x at h ⊢
  split
  · exact h
  · refine h.trans (MemStep.trans ?_ (memStep_lines _ _ _ (linesWf_sDel _)))
    split
    · exact memStep_writeBack _ _ _
    · exact MemStep.refl _

theorem cache_writeBack (s : State) (k : Nat) (l : Line) : (writeBack s k l).cache = s.cache := by
  unfold writeBack; dsimp only; split <;> split <;> rfl

theorem memStep_cleanLine (s : State) (k : Nat) : MemStep s (cleanLine s k) := by
  unfold cleanLine
  dsimp only
  split
  · exact memStep_meetLine s k
  · rename_i h
    split
    · refine ((memStep_meetLine s k).trans (memStep_writeBack _ _ _)).trans (memStep_cache _ _ (fun w => linesWf_sIns _ ?_ w))
      rw [cache_writeBack] at w
      exact length_of_find w h
    · exact memStep_meetLine s k

theorem memStep_maybeReplace (s : State) (k : Nat) : MemStep s (maybeReplace s k) := by
  unfold maybeReplace
  split
  · dsimp only
    split
    · exact (memStep_drew s).trans (memStep_dropLine _ _ _)
    · exact memStep_drew s
  · exact MemStep.refl s

theorem memStep_makeRoom (s : State) (k : Nat) : MemStep s (makeRoom s k) := by
  unfold makeRoom
  split
  · exact MemStep.refl s
  · dsimp only
    split
    · exact MemStep.refl s
    · exact (memStep_drew s).trans (memStep_dropLine _ _ _)

theorem memStep_holdLine (s : State) (k : Nat) (x : Line) (h : Lines.wf s.cache → x.data.length = 128) :
    MemStep s (holdLine s k x) :=
  have m := memStep_makeRoom s k
  ⟨congrArg (fun y : State => { y with cache := sIns (makeRoom s k).cache k x, lineErr := sDel (makeRoom s k).lineErr k }) m.frame,
   fun w => ⟨(m.wf w).1, (m.wf w).2.1, linesWf_sIns _ (h w.2.2) (m.wf w).2.2⟩, m.level, m.sameStack, m.engines, m.launches,
   m.still⟩

theorem memStep_readLine (s : State) (l : Nat) : MemStep s (readLine s l) := MemStep.foldl _ _ memStep_detect _

theorem memStep_hostResponse (s : State) (h : Nat) : MemStep s (hostResponse s h) := by
  have hf : ∀ n, MemStep s { s with free := n } := fun _ => MemStep.ofPrara rfl id rfl
  unfold hostResponse
  dsimp only
  split
  · refine MemStep.trans ?_ (memStep_holdLine _ _ _ (fun w => by rw [length_putBytes]; exact length_lineOr w _ _))
    split
    · exact hf _
    · exact (hf _).trans (memStep_readLine _ _)
  · exact memStep_drew s

theorem memStep_backInvalidate (s : State) (h : Nat) : MemStep s (backInvalidate s h) :=
  ((memStep_bump s _ _ _).trans (memStep_emit _ _)).trans (memStep_hostResponse _ _)

theorem memStep_snoop (s : State) (l : Nat) : MemStep s (snoop s l) := by
  unfold snoop
  split
  · dsimp only
    split
    · exact MemStep.refl s
    · refine MemStep.trans ?_ (MemStep.foldl _ _ memStep_backInvalidate _)
      exact MemStep.ofPrara rfl id rfl
  · exact MemStep.refl s

theorem memStep_touchPiece (s : State) (p : Path) (a n l : Nat) : MemStep s (touchPiece s p a n l).1 := by
  unfold touchPiece
  dsimp only
  have h1 := memStep_maybeReplace s (l / 128)
  split
  · split
    · have h2 : MemStep s (if (n == 0) = true then snoop (maybeReplace s (l / 128)) l
          else meetLine (snoop (maybeReplace s (l / 128)) l) (l / 128)) := by
        split
        · exact h1.trans (memStep_snoop _ _)
        · exact (h1.trans (memStep_snoop _ _)).trans (memStep_meetLine _ _)
      generalize (if (n == 0) = true then snoop (maybeReplace s (l / 128)) l
          else meetLine (snoop (maybeReplace s (l / 128)) l) (l / 128)) = x at h2 ⊢
      split
      · exact h2
      · exact h2.trans (memStep_readLine _ _)
    · exact h1.trans (MemStep.foldl _ _ memStep_detect _)
  · exact MemStep.foldl _ _ memStep_detect _

/-- A stall that an access gives a running engine. -/
theorem memStep_stallBank (s : State) (b : Nat × Nat) : MemStep s (stallBank s b) := by
  unfold stallBank
  split
  · rename_i run
    refine ⟨rfl, id, rfl, fun n => ?_, fun n q => ?_, fun n => ?_, fun n q r => ?_⟩ <;> rw [getStack_updStack] <;> split <;> try rfl
    · rename_i h; subst h; rfl
    · rename_i h; subst h
      simp only [getEngine, sGet_sMod]
      split
      · rename_i h; subst h; rfl
      · rfl
    · rename_i h; subst h
      cases (getStack s b.1).launch <;> rfl
    · rename_i h; subst h
      simp only [getEngine, sGet_sMod]
      split
      · rename_i h; subst h; exact absurd (r.symm.trans run) (by decide)
      · rfl
  · exact MemStep.refl s

theorem memStep_stallBanks (s : State) (p : Path) (l : List Nat) : MemStep s (stallBanks s p l) := by
  unfold stallBanks
  split
  · exact MemStep.refl s
  · exact MemStep.foldl _ _ memStep_stallBank _

theorem memStep_readWord (w : Nat) (s : State) : MemStep s (readWord w s) := by
  unfold readWord
  split
  · exact MemStep.refl s
  · dsimp only
    unfold voteWord
    dsimp only
    have hb : ∀ x : State, MemStep s x → MemStep s (bump x 0x4800 0x15 1) := fun x h => h.trans (memStep_bump _ _ _ _)
    split <;> split
    · exact MemStep.ofPrara rfl id rfl
    · exact MemStep.ofPrara rfl id rfl
    · split <;> exact MemStep.ofPrara rfl id rfl
    · split <;> exact MemStep.ofPrara rfl id rfl

theorem memStep_readMap (s : State) (a : Nat) : MemStep s (readMap s a) := by
  unfold readMap
  split
  · exact (memStep_readWord _ _).trans (memStep_readWord _ _)
  · exact MemStep.refl s

theorem memStep_touch (s : State) (p : Path) (a n : Nat) : MemStep s (touch s p a n) := by
  unfold touch
  refine MemStep.trans ((memStep_readMap s a).trans (MemStep.foldlFst _ _ (fun x l => ?_) (readMap s a, []))) (memStep_stallBanks _ _ _)
  dsimp only
  split
  · exact (memStep_touchPiece _ _ _ _ _).trans (memStep_holdLine _ _ _ (fun _ => length_fillLine _ _))
  · exact memStep_touchPiece _ _ _ _ _

/-- What a read can do. -/
theorem memStep_readMem (s : State) (p : Path) (a n : Nat) : MemStep s (readMem s p a n).1 := memStep_touch s p a n

theorem memStep_mergeBurst (s : State) (l : Nat) : MemStep s (mergeBurst s l) := by
  have h : MemStep s { detect s l with errs := sDel (detect s l).errs l } := (memStep_detect s l).trans (memStep_errs _ _)
  unfold mergeBurst
  split
  · split
    · dsimp only
      split
      · split
        · exact h.trans (memStep_markPoison _ _)
        · exact h
      · exact h
    · exact MemStep.refl s
  · exact MemStep.refl s

theorem memStep_writePiece (s : State) (p : Path) (a : Nat) (v : List Byte) (poison : Bool) :
    MemStep s (writePiece s p a v poison).1 := by
  unfold writePiece
  dsimp only
  have h1 : MemStep s (if isCached (a / 128 * 128) then maybeReplace s (a / 128 * 128 / 128) else s) := by
    split
    · exact memStep_maybeReplace _ _
    · exact MemStep.refl s
  have h2 : ∀ x, MemStep s x → MemStep s (if v.length < 128 then mergeBurst x (a / 128 * 128) else x) := fun x h => by
    split
    · exact h.trans (memStep_mergeBurst _ _)
    · exact h
  split <;>
  · split
    · exact MemStep.refl s
    · split
      · exact (memStep_touchPiece _ _ _ _ _).trans
          (memStep_holdLine _ _ _ (fun w => by rw [length_putBytes]; exact length_lineOr w _ _))
      · exact (h2 _ h1).trans (memStep_pokeRaw _ _ _ _)

/-- What a write can do. -/
theorem memStep_writeMem (s : State) (p : Path) (a : Nat) (v : List Byte) (poison : Bool) :
    MemStep s (writeMem s p a v poison).1 := by
  unfold writeMem
  refine MemStep.trans ((memStep_readMap s a).trans ?_) (memStep_stallBanks _ _ _)
  exact MemStep.foldlFst (γ := Bool × List Nat) _ (splitPieces a v) (fun x e => memStep_writePiece x.1 p e.1 e.2 poison)
    (readMap s a, false, [])

/-! ### Accesses of units -/

/-- `t` is `s` but for what an access of a unit may change: what an access of memory may, and the beads, with their watches and the
messages of those that fire. -/
def UnitStep (s t : State) : Prop := MemStep { s with beads := t.beads, watches := t.watches, msgs := t.msgs } t

theorem MemStep.beads {s t : State} (h : MemStep s t) (b : Store Bead) (w : List Watch) (m : List Msg) :
    MemStep { s with beads := b, watches := w, msgs := m } { t with beads := b, watches := w, msgs := m } :=
  ⟨congrArg (fun x : State => { x with beads := b, watches := w, msgs := m }) h.frame, h.wf, h.level, h.sameStack, h.engines, h.launches, h.still⟩

theorem UnitStep.ofMem {s t : State} (h : MemStep s t) : UnitStep s t := by
  have b : t.beads = s.beads := by rw [h.frame]
  have w : t.watches = s.watches := by rw [h.frame]
  have m : t.msgs = s.msgs := by rw [h.frame]
  unfold UnitStep
  rw [b, w, m]
  exact h

theorem UnitStep.trans {s t u : State} (h : UnitStep s t) (k : UnitStep t u) : UnitStep s u :=
  (MemStep.beads h u.beads u.watches u.msgs).trans k

theorem UnitStep.foldl {α : Type} (f : State → α → State) (l : List α) (h : ∀ s a, UnitStep s (f s a)) :
    ∀ s, UnitStep s (l.foldl f s) := by
  induction l with
  | nil => exact fun s => UnitStep.ofMem (MemStep.refl s)
  | cons x r ih => exact fun s => (h s x).trans (ih _)

theorem unitStep_setBead (s : State) (d n : Nat) (b : Bead) : UnitStep s (setBead s d n b) := MemStep.ofPrara rfl id rfl

theorem unitStep_touchBead (s : State) (d n : Nat) : UnitStep s (touchBead s d n) := by
  unfold touchBead
  dsimp only
  split
  · exact (UnitStep.ofMem ((((memStep_bump _ _ _ _).trans (memStep_noteDie _ _ _)).trans (memStep_countDeferred _)).trans
      (memStep_errs _ _))).trans (unitStep_setBead _ _ _ _)
  · exact UnitStep.ofMem ((((memStep_bump _ _ _ _).trans (memStep_noteDie _ _ _)).trans (memStep_countCorrected _)).trans
      (memStep_errs _ _))
  · exact UnitStep.ofMem (memStep_errs _ _)
  · exact UnitStep.ofMem (MemStep.refl s)

theorem unitStep_evalWatches (s : State) (d n : Nat) : UnitStep s (evalWatches s d n) := by
  have h : ∀ (x : State) (w : Watch), UnitStep x (sendWatch x w 0) := fun _ _ => MemStep.ofPrara rfl id rfl
  refine UnitStep.trans ?_ (UnitStep.foldl _ _ h _)
  exact MemStep.ofPrara rfl id rfl

theorem unitStep_beadAdd (s : State) (d n : Nat) (v : W32) (poison : Bool) : UnitStep s (beadAdd s d n v poison) :=
  ((unitStep_touchBead s d n).trans (unitStep_setBead _ _ _ _)).trans (unitStep_evalWatches _ _ _)

theorem unitStep_beadWindow (s : State) (d off : Nat) (v : List Byte) : UnitStep s (beadWindow s d off v) := by
  unfold beadWindow
  split
  · exact unitStep_beadAdd _ _ _ _ _
  · exact UnitStep.ofMem (memStep_bump _ _ _ _)

/-- What a unit's read can do. -/
theorem unitStep_unitRead (s : State) (a n : Nat) (w : Who) : UnitStep s (unitRead s a n w).1 := by
  have r := UnitStep.ofMem (MemStep.refl s)
  unfold unitRead
  split
  · exact r
  · split
    · exact r
    · split
      · split
        · exact UnitStep.foldl _ _ (fun x b => unitStep_touchBead x _ b) s
        · split <;> exact UnitStep.ofMem (memStep_readMem _ _ _ _)
      · dsimp only
        split
        · split
          · exact UnitStep.ofMem (memStep_bump _ _ _ _)
          · exact r
        · exact r

/-- What a unit's write can do. -/
theorem unitStep_unitWrite (s : State) (p : Path) (a : Nat) (v : List Byte) (poison : Bool) (w : Who) :
    UnitStep s (unitWrite s p a v poison w).1 := by
  have r := UnitStep.ofMem (MemStep.refl s)
  have b : ∀ i j, UnitStep s (bump s i j 1) := fun i j => UnitStep.ofMem (memStep_bump _ _ _ _)
  unfold unitWrite
  split
  · exact r
  · split
    · exact b _ _
    · split
      · split
        · split
          · exact b _ _
          · exact r
        · split
          · split <;> exact unitStep_beadWindow _ _ _ _
          · exact UnitStep.ofMem (memStep_writeMem _ _ _ _ _)
      · split
        · split <;> exact b _ _
        · exact b _ _

/-- What a write of a core's own scratchpad can do. -/
theorem memStep_spadPut (s : State) (t off : Nat) (l : List (Byte × Bool)) : MemStep s (spadPut s t off l) := by
  unfold spadPut
  refine MemStep.foldl _ _ (fun x w => ?_) s
  dsimp only
  split
  · exact memStep_pokeRaw _ _ _ _
  · exact MemStep.ofPrara rfl (fun w => ⟨sWf_sSetMany _ _ w.1, w.2⟩) rfl

theorem memStep_spadPutBytes (s : State) (t off : Nat) (v : List Byte) : MemStep s (spadPutBytes s t off v) :=
  memStep_spadPut _ _ _ _

end Sys2Proof.Machine
end

