-- ==== Sys2Proof/WellFormed.lean ====
section
/-! DEFINITION. Which commands are well formed: every operand within the range that the family of parts gives it. -/

namespace Sys2Proof

/-- Tensor cores TC0 to TC63 (R3). -/
def coreOk (t : Nat) : Bool := decide (t < 64)

/-- Steward cores SC0 to SC15 (R3). -/
def stewardOk (i : Nat) : Bool := decide (i < 16)

/-- Stacks 0 to 11 (R3). -/
def stackOk (s : Nat) : Bool := decide (s < 12)

/-- Partitions 0 to 15 (R365). -/
def partOk (p : Nat) : Bool := decide (p < 16)

/-- Dies D0 and D1 (R3). -/
def dieOk (d : Nat) : Bool := decide (d < 2)

/-- Span ports 0 to 8 (R3, R413). -/
def portOk (n : Nat) : Bool := decide (n < 9)

/-- The queues MQ, VQ, TQ, XLQ, XSQ and SIQ (R50). -/
def queueOk (q : Nat) : Bool := decide (q < 6)

/-- A bank-linear engine index: at most 12 engines for each of 48 channels (R137, R143). -/
def engineOk (q : Nat) : Bool := decide (q < 576)

/-- Channels 0 to 47 (R137). -/
def channelOk (c : Nat) : Bool := decide (c < 48)

/-- Adapter slots 0 to 63 of a partition (12, adapter slots). -/
def slotOk (n : Nat) : Bool := decide (n < 64)

/-- Intake lanes 0 to 15 (R394). -/
def laneOk (l : Nat) : Bool := decide (l < 16)

/-- A target of a watch is a tensor core or a steward (R238). -/
def targetOk : Target → Bool
  | .xq t => coreOk t
  | .steward i => stewardOk i

/-- A stop of a core or a partition names one that a variant may have. -/
def scopeOk : StopScope → Bool
  | .core t => coreOk t
  | .partition p => partOk p
  | .device => true

/-- The header fields of a Span packet fit their bits, and its payload is 0 to 1,024 words (R420). -/
def packetOk (k : Packet) : Bool :=
  decide (k.dstDev < 4096) && decide (k.dstPart < 16) && decide (k.kind < 16) && decide (k.tag < 4096) && decide (k.cls < 4) &&
  decide (k.seq < 65536) && decide (k.offset < 2 ^ 32) && decide (k.payload.length ≤ 4096) && k.payload.length % 4 == 0

/-- A Span frame's control block fields fit their bits, and its packets do (R415, R416). -/
def frameOk (f : Frame) : Bool :=
  decide (f.number < 65536) && decide (f.ack < 65536) && decide (f.device < 4096) && f.packets.all packetOk

/-- A stream command is 64 bytes (R110). -/
def cmdOk (b : List Byte) : Bool := b.length == 64

/-- The command is well formed. -/
def Instr.wf : Instr → Bool
  | .coldStart _ => true
  | .resetAssert _ => true
  | .railOutOfRange _ _ => true
  | .hotReset _ _ => true
  | .firmwareTrialTimeout _ => true
  | .issue t => coreOk t
  | .mov t => coreOk t
  | .movi t => coreOk t
  | .add t => coreOk t
  | .addi t => coreOk t
  | .sub t => coreOk t
  | .shl t => coreOk t
  | .shli t => coreOk t
  | .shr t => coreOk t
  | .shri t => coreOk t
  | .and t => coreOk t
  | .andi t => coreOk t
  | .or t => coreOk t
  | .ori t => coreOk t
  | .nop t => coreOk t
  | .loop t => coreOk t
  | .barrier t => coreOk t
  | .barrierMarkerRelease t q => coreOk t && queueOk q
  | .endKernel t => coreOk t
  | .kernelEnd t => coreOk t
  | .stallLimit t q => coreOk t && queueOk q
  | .workPacket t sc packet => coreOk t && stewardOk sc && decide (packet.length = 64)
  | .packetStart t => coreOk t
  | .kernelAbort t => coreOk t
  | .mma t => coreOk t
  | .aclr t => coreOk t
  | .mpush t => coreOk t
  | .ast t => coreOk t
  | .ald t => coreOk t
  | .vmov t => coreOk t
  | .vadd t => coreOk t
  | .vmul t => coreOk t
  | .vfma t => coreOk t
  | .vmin t => coreOk t
  | .vmax t => coreOk t
  | .vcmp t => coreOk t
  | .vsel t => coreOk t
  | .vcvt t => coreOk t
  | .mlogic t => coreOk t
  | .vtget t => coreOk t
  | .vexp2 t => coreOk t
  | .vlog2 t => coreOk t
  | .vrcp t => coreOk t
  | .vrsqrt t => coreOk t
  | .vocc t => coreOk t
  | .vtwr t => coreOk t
  | .vtrd t => coreOk t
  | .traypopVq t => coreOk t
  | .vflagsVq t => coreOk t
  | .tsum t => coreOk t
  | .tsumsq t => coreOk t
  | .tmax t => coreOk t
  | .tmin t => coreOk t
  | .targmax t => coreOk t
  | .targmin t => coreOk t
  | .rowstat t => coreOk t
  | .rsmerge t => coreOk t
  | .traypopTq t => coreOk t
  | .ttwr t => coreOk t
  | .ttrd t => coreOk t
  | .vflagsTq t => coreOk t
  | .xld t => coreOk t
  | .xst t => coreOk t
  | .xsend t => coreOk t
  | .inval t => coreOk t
  | .wb t => coreOk t
  | .wbinv t => coreOk t
  | .badd t => coreOk t
  | .bset t => coreOk t
  | .bwait t => coreOk t
  | .brd t => coreOk t
  | .watchMessage target => targetOk target
  | .watchTimeout die => dieOk die
  | .lend t => coreOk t
  | .lendReclaim t => coreOk t
  | .reckoning p => partOk p
  | .svuAdd i c => stewardOk i && cmdOk c
  | .svuMul i c => stewardOk i && cmdOk c
  | .svuFma i c => stewardOk i && cmdOk c
  | .svuMin i c => stewardOk i && cmdOk c
  | .svuMax i c => stewardOk i && cmdOk c
  | .svuCmp i c => stewardOk i && cmdOk c
  | .svuSel i c => stewardOk i && cmdOk c
  | .svuCvt i c => stewardOk i && cmdOk c
  | .svuExp2 i c => stewardOk i && cmdOk c
  | .svuLog2 i c => stewardOk i && cmdOk c
  | .svuRcp i c => stewardOk i && cmdOk c
  | .svuRsqrt i c => stewardOk i && cmdOk c
  | .svuSum i c => stewardOk i && cmdOk c
  | .svuSumsq i c => stewardOk i && cmdOk c
  | .svuReduceMax i c => stewardOk i && cmdOk c
  | .svuReduceMin i c => stewardOk i && cmdOk c
  | .svuArgmax i c => stewardOk i && cmdOk c
  | .svuArgmin i c => stewardOk i && cmdOk c
  | .svuRowstat i c => stewardOk i && cmdOk c
  | .svuRand i c => stewardOk i && cmdOk c
  | .svuTopk i c => stewardOk i && cmdOk c
  | .svuSort i c => stewardOk i && cmdOk c
  | .svuTopp i c => stewardOk i && cmdOk c
  | .svuSample i c => stewardOk i && cmdOk c
  | .programLoad k q0 q1 _ p => stackOk k && engineOk q0 && engineOk q1 && partOk p
  | .launch _ sc => stewardOk sc
  | .launchStart k => stackOk k
  | .launchComplete k => stackOk k
  | .launchAbort k => stackOk k
  | .runLimit k q => stackOk k && engineOk q
  | .beMov k q => stackOk k && engineOk q
  | .beMovi k q => stackOk k && engineOk q
  | .beAdd k q => stackOk k && engineOk q
  | .beAddi k q => stackOk k && engineOk q
  | .beSub k q => stackOk k && engineOk q
  | .beAnd k q => stackOk k && engineOk q
  | .beAndi k q => stackOk k && engineOk q
  | .beOr k q => stackOk k && engineOk q
  | .beOri k q => stackOk k && engineOk q
  | .beShl k q => stackOk k && engineOk q
  | .beShli k q => stackOk k && engineOk q
  | .beShr k q => stackOk k && engineOk q
  | .beShri k q => stackOk k && engineOk q
  | .beNop k q => stackOk k && engineOk q
  | .beLoop k q => stackOk k && engineOk q
  | .ldw k q => stackOk k && engineOk q
  | .stw k q => stackOk k && engineOk q
  | .astl k q => stackOk k && engineOk q
  | .aldl k q => stackOk k && engineOk q
  | .wst k q => stackOk k && engineOk q
  | .wld k q => stackOk k && engineOk q
  | .ropen k q => stackOk k && engineOk q
  | .crd k q => stackOk k && engineOk q
  | .zsk k q => stackOk k && engineOk q
  | .mac k q => stackOk k && engineOk q
  | .fold k q => stackOk k && engineOk q
  | .beAclr k q => stackOk k && engineOk q
  | .push k q => stackOk k && engineOk q
  | .halt k q => stackOk k && engineOk q
  | .refresh k q => stackOk k && engineOk q
  | .forcedRefresh k q => stackOk k && engineOk q
  | .seal k => stackOk k
  | .unseal k => stackOk k
  | .stripOperationComplete k _ => stackOk k
  | .channelDeclaredFailing k c => stackOk k && channelOk c
  | .stackRefreshDoubled k _ _ => stackOk k
  | .stackRefreshNormal k _ _ => stackOk k
  | .stackThrottle k _ _ => stackOk k
  | .stackThrottleRelease k _ _ => stackOk k
  | .stackTrip k _ _ => stackOk k
  | .stackTripRelease k _ _ => stackOk k
  | .dieThrottle d _ => dieOk d
  | .dieThrottleRelease d _ => dieOk d
  | .dieTrip d _ => dieOk d
  | .dieTripRelease d _ => dieOk d
  | .dieShutdown d _ => dieOk d
  | .coolantFault _ => true
  | .coolantFaultRelease _ => true
  | .patrolScrub => true
  | .regulatorFault => true
  | .hostCxlMemRead _ _ => true
  | .hostCxlMemWrite _ _ _ => true
  | .beadWindowWrite die _ acc => dieOk die && (match acc with | .host _ => true | .steward i _ => decide (i < 16))
  | .scratchpadWindowAccess t _ _ => coreOk t
  | .faultsumClear _ => true
  | .lreset p _ => partOk p
  | .intakeSlotWrite p _ _ => partOk p
  | .tornPacketTimeout p lane => partOk p && laneOk lane
  | .intakeQueueRoom p => partOk p
  | .cmdOpen p => partOk p
  | .append p => partOk p
  | .cancel p => partOk p
  | .close p => partOk p
  | .park p => partOk p
  | .resume p => partOk p
  | .adopt p => partOk p
  | .setdue p => partOk p
  | .adapterLoad p => partOk p
  | .adapterRetire p => partOk p
  | .negPin p => partOk p
  | .negUnpin p => partOk p
  | .train p => partOk p
  | .fence p => partOk p
  | .unknownOpcode p => partOk p
  | .adapterLoadComplete p slot => partOk p && slotOk slot
  | .printComplete p _ => partOk p
  | .receiveTimeout p _ => partOk p
  | .pagePacketHoldExpiry p _ => partOk p
  | .stepStart p _ => partOk p
  | .stepComplete p _ => partOk p
  | .statusOnlyRecord p => partOk p
  | .partitionResume p => partOk p
  | .ringControlWrite p _ _ => partOk p
  | .controlBlockPoll p => partOk p
  | .ringModerationTimer p => partOk p
  | .linkTrained _ => true
  | .linkDown => true
  | .linkDownLimit => true
  | .cadenceTick => true
  | .ptpMessage _ _ => true
  | .cadencePulse _ => true
  | .sourceLost => true
  | .lockLost _ => true
  | .powerLeaseRenewal _ => true
  | .regulatorRefill => true
  | .regulatedTrafficStart p _ _ => partOk p
  | .stopEntry scope _ => scopeOk scope
  | .stopExit scope _ => scopeOk scope
  | .latencyToleranceWrite p _ => partOk p
  | .stop6Request _ msg => decide (msg.length ≤ 2048)
  | .powerDownReady => true
  | .telemetrySample _ => true
  | .commitRequest _ msg => decide (msg.length ≤ 2048)
  | .commitTick => true
  | .partitionHold p => partOk p
  | .phasedCommitApply => true
  | .phaseComplete _ => true
  | .holdLimit p => partOk p
  | .rollbackComplete => true
  | .shadowClear _ msg => decide (msg.length ≤ 2048)
  | .ebRead _ msg => decide (msg.length ≤ 2048)
  | .ebWrite _ msg => decide (msg.length ≤ 2048)
  | .segRead _ msg => decide (msg.length ≤ 2048)
  | .segBegin _ msg => decide (msg.length ≤ 2048)
  | .segWrite _ msg => decide (msg.length ≤ 2048)
  | .segEnd _ msg => decide (msg.length ≤ 2048)
  | .segAbort _ msg => decide (msg.length ≤ 2048)
  | .describe _ msg => decide (msg.length ≤ 2048)
  | .unknownOp _ msg => decide (msg.length ≤ 2048)
  | .segmentTimeout _ => true
  | .hmacKeyWrite _ msg => decide (msg.length ≤ 2048)
  | .stackLogClear _ msg => decide (msg.length ≤ 2048)
  | .dieLogClear _ msg => decide (msg.length ≤ 2048)
  | .firmwareWrite => true
  | .firmwareActivate => true
  | .firmwareCancel => true
  | .flashWriteComplete => true
  | .firmwareVerifyComplete => true
  | .spanFrame n f => portOk n && frameOk f
  | .spanPacketSend n => portOk n
  | .spanWrite n k => portOk n && packetOk k
  | .spanRead n k => portOk n && packetOk k
  | .spanPage n k => portOk n && packetOk k
  | .spanAck n k => portOk n && packetOk k
  | .spanIdle n => portOk n
  | .trainingComplete n _ _ _ => portOk n
  | .trainingTimeout n => portOk n
  | .downRetry n => portOk n
  | .blockLockLoss n => portOk n
  | .portLoss n => portOk n
  | .spanHoldExpiry _ => true
  | .doeDiscovery _ => true
  | .cdatTableAccess _ => true
  | .getVersion _ msg => decide (msg.length ≤ 2048)
  | .getCapabilities _ msg => decide (msg.length ≤ 2048)
  | .negotiateAlgorithms _ msg => decide (msg.length ≤ 2048)
  | .getDigests _ msg => decide (msg.length ≤ 2048)
  | .getCertificate _ msg => decide (msg.length ≤ 2048)
  | .challenge _ msg => decide (msg.length ≤ 2048)
  | .getMeasurements _ msg => decide (msg.length ≤ 2048)
  | .configurationRequest _ => true

end Sys2Proof
end

