-- ==== Sys2Proof/Tests/Slice0.lean ====
section
/-! SUPPORT. The block's own tests: terms that WellFormed refuses, and for each statement a state and operands that meet all its
hypotheses together. Every state is State.reset with a few fields set. -/

namespace Sys2Proof.Tests

open Sys2Proof Sys2Proof.Machine Sys2Proof.Says

set_option Elab.async false

/-! ### Helpers -/

/-- Bytes placed in memory. -/
def put (a : Nat) (b : List Byte) (s : State) : State := { s with mem := sSetMany 0 s.mem a b }

/-- An address of host memory. -/
def hostA : Nat := 0x8000000001000

/-- An object given a value. -/
def obj (index sub n v : Nat) (s : State) : State := setObj s index sub (natLe n v)

/-- The host link up. -/
def upLink (s : State) : State := { s with link := { s.link with level := 1, width := 16, speed := 5 } }

/-- A core as given. -/
def core (t : Nat) (c : Core) (s : State) : State := updCore s t (fun _ => c)

/-- A partition as given. -/
def part (p : Nat) (x : Part) (s : State) : State := updPart s p (fun _ => x)

/-- A packet of partition 0 with its image at `hostA`. -/
def pkt0 : WorkPkt :=
  { image := hostA, presets := 0, record := hostA + 0x10000, a0 := 5, a1 := 6, l0 := 7, l1 := 8, signal := 0, tag := 9, partition := 0,
    flags := 0, sc := 0 }

/-- Its kernel, of two instructions. -/
def ker0 : Kernel := newKernel pkt0 2 0 0

/-- An instruction word from its opcode, queue code and the other bits. -/
def wrd (op q rest : Nat) : BitVec 128 := BitVec.ofNat 128 (op * 2 ^ 120 + q * 2 ^ 116 + rest)

/-- Core 0 about to issue a word. -/
def issuing (c : Core) (k : Kernel) (w : BitVec 128) : State :=
  core 0 { c with kernel := some k } (put (hostA + 64 + 16 * k.next) (natLe 16 w.toNat) (upLink State.reset))

/-- An entry of a queue that captured registers. -/
def qe (w : BitVec 128) (a : Store W64) (l : Store W32) : QEntry :=
  { marker := false, word := w, a := a, l := l, index := 0, iter := 0xFFFFFFFF, waits := [], started := false, since := some 0, send := none, desc := none }

/-- Core `t` with an instruction at the head of a queue. -/
def heading (t q : Nat) (e : QEntry) (c : Core) (s : State) : State :=
  core t (setQueue { c with kernel := some ker0 } q [e]) s

theorem waits_none {k : Kernel} {c : Core} (h : k.stall = none) : ∀ x, k.stall = some x → waitsMet c x = true := by
  intro x hx; rw [h] at hx; cases hx

/-- The state a command answers. -/
def after : Res → State
  | .next u => u
  | _ => State.reset

/-- Whether it answers a next state. -/
def went : Res → Bool
  | .next _ => true
  | _ => false

theorem says_next {r : Res} {u : State} (h : went r = true) (e : after r = u) : r = .next u := by
  cases r with
  | next v => simp [after] at e; rw [e]
  | fault _ => simp [went] at h
  | refused _ => simp [went] at h

theorem atHead_of {s : State} {t q op : Nat} {e : QEntry}
    (h : isReady s = true ∧ corePresent s t = true ∧ (getCore s t).kernel.isSome = true ∧ (queueOf (getCore s t) q).head? = some e ∧
      e.marker = false ∧ wOp e.word = op ∧ sGet false (getCore s t).parityErr q = false ∧ (getCore s t).lent = false) : AtHead s t q op e :=
  ⟨h.1, h.2.1, h.2.2.1, h.2.2.2.1, h.2.2.2.2.1, h.2.2.2.2.2.1, h.2.2.2.2.2.2.1, fun _ => h.2.2.2.2.2.2.2⟩

theorem counted_of {s : State} {t q op n : Nat} {e : QEntry} (h : AtHead s t q op e)
    (k : (match slotNamed e with | some i => (slotAcc (getCore s t) i).isSome | none => true) = true ∧ countOf e = n ∧ 0 < n ∧ n ≤ 8192) :
    Counted s t q op e n := ⟨h, fun i hi => by have := k.1; rw [hi] at this; exact this, k.2.1, k.2.2.1, k.2.2.2⟩

/-- A vector or tally instruction: opcode, queue, count, destination and source format, destination kind and number, source kind and
number, and the other bits; A0 to A3 are 0, 64, 128 and 4,096. -/
def vi (op q n dfmt sfmt dk d sk s1 rest : Nat) : QEntry :=
  qe (wrd op q (n * 2 ^ 102 + dfmt * 2 ^ 94 + sfmt * 2 ^ 90 + dk * 2 ^ 88 + d * 2 ^ 83 + sk * 2 ^ 81 + s1 * 2 ^ 76 + rest))
    [(1, 64), (2, 128), (3, 4096)] []

/-- A core with bytes in V1 to V3, a mask, tally entries, tile cells, accumulator elements and flags. -/
def full : Core :=
  { Core.init with v := sSetMany 0 (sSetMany 0 (sSetMany 0 [] 512 [0, 0, 0x80, 0x3F, 0, 0, 0, 0xC0]) 1024 [0, 0, 0, 0x40]) 1536 [0, 0, 0x40, 0x41],
                   m := [(0, true), (8193, true)], t := [(128, 0x3F80000040000000)], tile := [(0, 7), (33, 9)],
                   acc := [(0, 0x3F800000), (257, 0x40000000)], vstatVq := 3, vstatTq := 5, tray := [(0, 1)], l := [(1, 2)] }

/-- It, with an instruction at the head of a queue, and bytes in its scratchpad. -/
def loaded (q : Nat) (e : QEntry) : State :=
  heading 0 q e full (put (spadBase 0) [0, 0, 0x80, 0x3F, 0, 0, 0, 0x40] (put (spadBase 0 + 64) [0x80, 0x3F, 1, 2, 3] State.reset))

theorem spadSound_of {s : State} {t off n : Nat}
    (h : (List.range n).all (fun b => !sGet false s.poison ((spadBase t + off + b) / 64 * 64) &&
      (s.errs.find? (fun x => x.1 == (spadBase t + off + b) / 64 * 64)).isNone) = true) : SpadSound s t off n := by
  intro b hb
  have := List.all_eq_true.mp h b (List.mem_range.mpr hb)
  simp only [Bool.and_eq_true, Bool.not_eq_true', Option.isNone_iff_eq_none] at this
  exact this

/-- Nothing in these states is poisoned or hides an error. -/
theorem sound_clear {s : State} {t off n : Nat} (p : s.poison = []) (e : s.errs = []) : SpadSound s t off n := by
  intro b _; rw [p, e]; exact ⟨rfl, rfl⟩

/-! ### Well-formedness refuses each ill-formed operand -/

/-- A Span packet with every field 0 but its kind. -/
def packet0 : Packet :=
  { dstDev := 0, dstPart := 0, kind := 1, poison := false, tag := 0, cls := 0, ackreq := false, seq := 0, offset := 0, signal := 0, payload := [] }

/-- A frame with no packet. -/
def frame0 : Frame :=
  { number := 0, ack := 0, nak := false, retrain := false, credits := [0, 0, 0], device := 0, caps := false, packets := [], corrected := 0,
    fecOk := true, crcOk := true }

/-- A stream command (R110): operation, source format, FP32 destination, count, sources, destination, selected count. -/
def stream (op count src1 src2 dst k : Nat) : List Byte :=
  natLe 1 op ++ natLe 3 0 ++ natLe 4 count ++ natLe 8 src1 ++ natLe 8 src2 ++ natLe 8 dst ++ List.replicate 20 0 ++ natLe 2 k ++ List.replicate 10 0

theorem test_wf_units : (Instr.mov 63).wf = true ∧ (Instr.mov 64).wf = false ∧ (Instr.launch 0 15).wf = true ∧ (Instr.launch 0 16).wf = false ∧
    (Instr.seal 11).wf = true ∧ (Instr.seal 12).wf = false ∧ (Instr.fence 15).wf = true ∧ (Instr.fence 16).wf = false ∧
    (Instr.dieTrip 1 0).wf = true ∧ (Instr.dieTrip 2 0).wf = false ∧ (Instr.portLoss 8).wf = true ∧ (Instr.portLoss 9).wf = false := by decide

theorem test_wf_parts_of_units : (Instr.stallLimit 0 5).wf = true ∧ (Instr.stallLimit 0 6).wf = false ∧ (Instr.mac 0 575).wf = true ∧
    (Instr.mac 0 576).wf = false ∧ (Instr.channelDeclaredFailing 0 47).wf = true ∧ (Instr.channelDeclaredFailing 0 48).wf = false ∧
    (Instr.adapterLoadComplete 0 63).wf = true ∧ (Instr.adapterLoadComplete 0 64).wf = false ∧
    (Instr.tornPacketTimeout 0 15).wf = true ∧ (Instr.tornPacketTimeout 0 16).wf = false := by decide

theorem test_wf_targets : (Instr.watchMessage (.xq 64)).wf = false ∧ (Instr.watchMessage (.steward 16)).wf = false ∧
    (Instr.watchMessage (.steward 15)).wf = true ∧ (Instr.stopEntry (.partition 16) 1).wf = false ∧
    (Instr.stopEntry .device 4).wf = true := by decide

theorem test_wf_packets : (Instr.spanWrite 8 packet0).wf = true ∧ (Instr.spanWrite 0 { packet0 with dstDev := 4096 }).wf = false ∧
    (Instr.spanWrite 0 { packet0 with dstPart := 16 }).wf = false ∧ (Instr.spanWrite 0 { packet0 with kind := 16 }).wf = false ∧
    (Instr.spanWrite 0 { packet0 with tag := 4096 }).wf = false ∧ (Instr.spanWrite 0 { packet0 with cls := 4 }).wf = false ∧
    (Instr.spanWrite 0 { packet0 with seq := 65536 }).wf = false ∧ (Instr.spanWrite 0 { packet0 with offset := 2 ^ 32 }).wf = false ∧
    (Instr.spanWrite 0 { packet0 with payload := [0, 0, 0] }).wf = false ∧
    (Instr.spanWrite 0 { packet0 with payload := List.replicate 4100 0 }).wf = false := by decide +kernel

theorem test_wf_frames : (Instr.spanFrame 0 frame0).wf = true ∧ (Instr.spanFrame 0 { frame0 with number := 65536 }).wf = false ∧
    (Instr.spanFrame 0 { frame0 with ack := 65536 }).wf = false ∧ (Instr.spanFrame 0 { frame0 with device := 4096 }).wf = false ∧
    (Instr.spanFrame 0 { frame0 with packets := [{ packet0 with kind := 16 }] }).wf = false := by decide

theorem test_wf_streams : (Instr.svuAdd 15 (stream 1 2 0 0 0 0)).wf = true ∧ (Instr.svuAdd 16 (stream 1 2 0 0 0 0)).wf = false ∧
    (Instr.svuAdd 0 []).wf = false := by decide

theorem test_wf_messages : (Instr.workPacket 0 0 (List.replicate 64 0)).wf = true ∧ (Instr.workPacket 0 0 []).wf = false ∧
    (Instr.ebRead .mctp (List.replicate 2049 0)).wf = false := by decide +kernel

theorem test_no_row_spells_bits : decodeTableWord 32 0 = none ∧ State.reset.withFetchWord 32 0 = State.reset := ⟨rfl, rfl⟩

/-! ### The block as a whole -/

theorem test_wit_step : State.reset.pending = [] ∧ State.reset.memWf := ⟨rfl, by decide, by decide, by decide, by decide⟩

theorem test_wit_step_answers : step { State.reset with pending := [.linkDown] } = .next State.reset :=
  says_next (by decide +kernel) (by decide +kernel)

theorem test_wit_memory_step : step { put hostA [1] State.reset with pending := [.linkDown] } = .next (put hostA [1] State.reset) ∧
    (put hostA [1] State.reset).memWf := ⟨says_next (by decide +kernel) (by decide +kernel), by decide, by decide, by decide, by decide⟩

/-! ### The issue stage -/

/-- Core `t` is about to handle a word that the image of its kernel `ker0` holds. -/
theorem issuing_of {s : State} {t : Nat} {k : Kernel} {w : BitVec 128}
    (a : isReady s = true ∧ corePresent s t = true ∧ (getCore s t).kernel = some k ∧ sGet false (getCore s t).parityErr 0xF = false ∧
      k.ended = false ∧ k.stall = none ∧ k.next < k.count)
    (f : (fetchWord s t (k.pkt.image + 64 + 16 * k.next)).2.1 = w ∧
      (fetchWord s t (k.pkt.image + 64 + 16 * k.next)).2.2 = false ∧ fetchHeld s t (k.pkt.image + 64 + 16 * k.next) = false) : Issuing s t k w :=
  { ready := a.1, present := a.2.1, kernel := a.2.2.1, parity := a.2.2.2.1, goesOn := a.2.2.2.2.1, released := waits_none a.2.2.2.2.2.1,
    inside := a.2.2.2.2.2.2, word := f.1, sound := f.2.1, linked := f.2.2 }

/-- ADD A3 ← L7 + A1. -/
def wAdd : BitVec 128 := wrd 0xE2 0xF (3 * 2 ^ 110 + 39 * 2 ^ 104 + 1 * 2 ^ 98)

/-- A core with A1 = 2^64 - 1 and L7 = 2. -/
def cAdd : Core := { Core.init with a := [(1, BitVec.allOnes 64)], l := [(7, 2)] }

theorem test_wit_scalar : Issuing (issuing cAdd ker0 wAdd) 0 ker0 wAdd ∧ wOp wAdd = 0xE2 ∧ wf' wAdd 119 116 = 0xF ∧ wf' wAdd 115 110 < 40 ∧
    specRead (getCore (issuing cAdd ker0 wAdd) 0) (wf' wAdd 109 104) = some 2 ∧
    specRead (getCore (issuing cAdd ker0 wAdd) 0) (wf' wAdd 103 98) = some (2 ^ 64 - 1) :=
  ⟨issuing_of (by decide +kernel) (by decide +kernel), by decide +kernel⟩

theorem test_add_wraps : sGet 0 (getCore (after (exec (.add 0) (issuing cAdd ker0 wAdd))) 0).a 3 = 1#64 := by decide +kernel

/-! ### Control instructions, queues and kernels -/

def wNop : BitVec 128 := wrd 0xF2 0xF 0
def wEnd : BitVec 128 := wrd 0xF3 0xF 0
/-- LOOP of one instruction, as many times as L1 says. -/
def wLoop : BitVec 128 := wrd 0xF0 0xF (1 * 2 ^ 113 + 1 * 2 ^ 101)
/-- BARRIER that waits on MQ and holds MQ and the issue stage. -/
def wBarrier : BitVec 128 := wrd 0xF1 0xF (1 * 2 ^ 110 + 0x41 * 2 ^ 103)
def wAclr : BitVec 128 := wrd 0x09 0 0
def cLoop : Core := { Core.init with l := [(1, 3)] }

theorem test_wit_issue_stage : Issuing (issuing Core.init ker0 wNop) 0 ker0 wNop ∧ Issuing (issuing Core.init ker0 wEnd) 0 ker0 wEnd ∧
    Issuing (issuing cLoop ker0 wLoop) 0 ker0 wLoop ∧ Issuing (issuing Core.init ker0 wBarrier) 0 ker0 wBarrier ∧
    Issuing (issuing Core.init ker0 wAclr) 0 ker0 wAclr :=
  ⟨issuing_of (by decide +kernel) (by decide +kernel), issuing_of (by decide +kernel) (by decide +kernel),
   issuing_of (by decide +kernel) (by decide +kernel), issuing_of (by decide +kernel) (by decide +kernel),
   issuing_of (by decide +kernel) (by decide +kernel)⟩

theorem test_wit_issue_stage_words : wOp wNop = 0xF2 ∧ wf' wNop 119 116 = 0xF ∧ wOp wEnd = 0xF3 ∧ wf' wEnd 119 116 = 0xF ∧
    (wOp wLoop = 0xF0 ∧ wf' wLoop 119 116 = 0xF ∧ wf' wLoop 112 101 = 1 ∧ wf' wLoop 115 113 = 1 ∧ ker0.next + 1 + 1 ≤ ker0.count ∧
      ∀ f, ker0.loops.head? = some f → ker0.next + 1 + 1 ≤ f.last) ∧
    (wOp wBarrier = 0xF1 ∧ wf' wBarrier 119 116 = 0xF ∧ wf' wBarrier 109 103 = 0x41 ∧ wf' wBarrier 115 110 ≠ 0 ∧
      ∀ q, q < 6 → bitAt 0x41 q = true → (queueOf (getCore (issuing Core.init ker0 wBarrier) 0) q).length < 16) ∧
    (opQueue (wOp wAclr) = some 0 ∧ wf' wAclr 119 116 = 0 ∧ issueIllegal wAclr = false ∧
      (queueOf (getCore (issuing Core.init ker0 wAclr) 0) 0).length < 16) := by
  refine ⟨by decide +kernel, by decide +kernel, by decide +kernel, by decide +kernel, ⟨by decide +kernel, by decide +kernel, by decide +kernel,
    by decide +kernel, by decide +kernel, fun f h => by cases h⟩, by decide +kernel, by decide +kernel⟩

/-- A marker that waits for `n` instructions of MQ. -/
def marker (n : Nat) : QEntry := { qe 0 [] [] with marker := true, waits := [n, 0, 0, 0, 0, 0] }

/-- Core 0 with a kernel and a queue. -/
def queued (k : Kernel) (q : Nat) (l : List QEntry) : State := core 0 (setQueue { Core.init with kernel := some k } q l) State.reset

/-- Core 0 whose MQ holds an instruction that waits behind a marker, past the stall limit of 10 ct. -/
def sStall : State :=
  obj 0x3000 0xB 4 10 { queued ker0 1 [marker 1, { qe wAclr [] [] with index := 3 }] with now := 11 }

theorem test_wit_kernel_events :
    (isReady (queued ker0 1 [marker 0]) = true ∧ corePresent (queued ker0 1 [marker 0]) 0 = true ∧
      (queueOf (getCore (queued ker0 1 [marker 0]) 0) 1).head? = some (marker 0) ∧
      waitsMet (getCore (queued ker0 1 [marker 0]) 0) (marker 0).waits = true) ∧
    ((getCore (queued { ker0 with ended := true } 1 [marker 0]) 0).kernel = some { ker0 with ended := true } ∧
      accessHeld (upLink (queued { ker0 with ended := true } 1 [marker 0])) ker0.pkt.record 64 = false ∧
      ∀ q, q < 6 → (queueOf (getCore (queued { ker0 with ended := true } 1 [marker 0]) 0) q).all (fun e => e.marker) = true) ∧
    ((getCore (queued ker0 1 [qe wAclr [] []]) 0).kernel = some ker0 ∧ ker0.fault = none ∧ ker0.aborted = false) ∧
    (queueOf (getCore sStall 0) 1 = [marker 1] ++ { qe wAclr [] [] with index := 3 } :: [] ∧ (marker 1).marker = true ∧
      waitsMet (getCore sStall 0) (marker 1).waits = false ∧ objNat sStall (0x3000 + ker0.pkt.partition) 0xB = 10 ∧ 0 + 10 < sStall.now) ∧
    corePresent { State.reset with hw := { State.reset.hw with variant := .wdn2406 } } 63 = false := by decide +kernel

/-- A packet whose image of one instruction lies in host memory, ready at core 0 of partition 0. -/
def starting : State :=
  core 0 { Core.init with pend := [pkt0] }
    (obj 0x3000 1 8 1 (upLink (put hostA (natLe 4 0x31494B54 ++ natLe 4 1 ++ natLe 4 1) State.reset)))

theorem test_wit_packet_start : PacketReady starting 0 pkt0 [] (natLe 4 0x31494B54 ++ natLe 4 1 ++ natLe 4 1 ++ List.replicate 52 0)
    (List.replicate 304 0) :=
  { ready := by decide +kernel, present := by decide +kernel, owner := by decide +kernel, awake := ⟨by decide +kernel, by decide +kernel⟩, idle := by decide +kernel,
    front := by decide +kernel, link := ⟨by decide +kernel, by decide +kernel, fun h => by revert h; decide⟩, record := by decide +kernel, unit := by decide +kernel,
    aligned := by decide +kernel,
    header := by
      intro x y h k; subst h; subst k
      exact ⟨by decide +kernel, by decide +kernel, by decide +kernel, fun h => by revert h; decide, fun _ => rfl⟩
    format := by decide +kernel }

/-! ### Matrix, vector and tally instructions -/

/-- MMA of one row, column and BF16 K-block; A1 and A2 name the panels; it pushes accumulator 0. -/
def eMma : QEntry :=
  qe (wrd 0x00 0 (1 * 2 ^ 108 + 2 * 2 ^ 103 + 1 * 2 ^ 96 + 1 * 2 ^ 75 + 1 * 2 ^ 71 + 1 * 2 ^ 51)) [(1, 64), (2, 128), (3, 4096)] []

/-- The core of `loaded` with an empty tray. -/
def untrayed (q : Nat) (e : QEntry) : State :=
  heading 0 q e { full with tray := [] } (put (spadBase 0 + 64) [0x80, 0x3F] (put (spadBase 0 + 128) [0, 0x40] State.reset))

theorem test_wit_mma : AtHead (untrayed 0 eMma) 0 0 0x00 eMma ∧ mqReady 0 (wf' eMma.word 96 96 == 1) true (untrayed 0 eMma) eMma = true ∧
    MmaOk (untrayed 0 eMma) 0 eMma :=
  ⟨atHead_of (by decide +kernel), by decide +kernel,
   { formats := by decide +kernel
     map := fun h => absurd h (by decide +kernel)
     fits := fun _ => ⟨fun a h => by subst h; exact ⟨by decide +kernel, by decide +kernel⟩,
                       fun b h => by subst h; exact ⟨by decide +kernel, by decide +kernel⟩⟩
     sound := fun _ _ _ => ⟨fun _ _ => sound_clear rfl rfl, fun _ _ => sound_clear rfl rfl, fun h => absurd h (by decide +kernel)⟩ }⟩

def eAclr : QEntry := qe wAclr [] []
def eAclr8 : QEntry := qe (wrd 0x08 0 (1 * 2 ^ 113)) [] []
/-- AST of two FP32 rows from row 126, the last that fit, to A1. -/
def eAst : QEntry := qe (wrd 0x10 0 (1 * 2 ^ 108 + 126 * 2 ^ 96 + 1 * 2 ^ 89)) [(1, 64)] []
def eAld : QEntry := qe (wrd 0x11 0 (1 * 2 ^ 108 + 126 * 2 ^ 96 + 1 * 2 ^ 89)) [(1, 64)] []

theorem test_wit_accumulators :
    (AtHead (untrayed 0 eAclr8) 0 0 0x08 eAclr8 ∧ mqReady 0 false true (untrayed 0 eAclr8) eAclr8 = true) ∧
    (AtHead (untrayed 0 eAclr) 0 0 0x09 eAclr ∧ mqReady 0 true false (untrayed 0 eAclr) eAclr = true) ∧
    (AtHead (untrayed 0 eAst) 0 0 0x10 eAst ∧ wf' eAst.word 102 96 + (wf' eAst.word 95 89 + 1) = 128 ∧
      isPacked (wf' eAst.word 107 104) = false ∧
      SpadFits (spadOff eAst (wf' eAst.word 112 108)) ((wf' eAst.word 95 89 + 1) * fmtBytes (wf' eAst.word 107 104) 256)) ∧
    (AtHead (untrayed 0 eAld) 0 0 0x11 eAld ∧ mqReady 0 false true (untrayed 0 eAld) eAld = true ∧
      SpadFits (spadOff eAld (wf' eAld.word 112 108)) ((wf' eAld.word 95 89 + 1) * 1024) ∧
      SpadSound (untrayed 0 eAld) 0 (spadOff eAld (wf' eAld.word 112 108)) ((wf' eAld.word 95 89 + 1) * 1024)) :=
  ⟨⟨atHead_of (by decide +kernel), by decide +kernel⟩, ⟨atHead_of (by decide +kernel), by decide +kernel⟩,
   ⟨atHead_of (by decide +kernel), by decide +kernel, by decide +kernel, by decide +kernel, by decide +kernel⟩,
   ⟨atHead_of (by decide +kernel), by decide +kernel, ⟨by decide +kernel, by decide +kernel⟩, sound_clear rfl rfl⟩⟩

/-- V1 and V2 added into the scratchpad at A1, two lanes of FP32, mask M0 in use. -/
def eVadd : QEntry := vi 0x41 1 2 0 0 1 1 0 1 (2 * 2 ^ 59 + 1 * 2 ^ 53)
def eVmov : QEntry := vi 0x40 1 2 0 1 0 4 1 1 0
def eVfma : QEntry := vi 0x44 1 2 1 0 0 4 0 1 (2 * 2 ^ 59 + 3 * 2 ^ 53)
def eVmin : QEntry := vi 0x45 1 2 3 3 0 4 0 1 (2 * 2 ^ 59)
def eVsel : QEntry := vi 0x48 1 2 0 0 0 4 2 0 (1 * 2 ^ 58 + 0x3F800000)
def eVcvt : QEntry := vi 0x49 1 3 3 0 1 1 0 1 (1 * 2 ^ 48)

theorem dest_v {e : QEntry} {f n : Nat} (h : dkOf e = 0 ∧ isMx f = false ∧ dOf e + vSpan f n ≤ 32) : DestOk e f n := by
  unfold DestOk; rw [if_pos h.1]; exact h.2
theorem dest_s {e : QEntry} {f n : Nat} (h : dkOf e ≠ 0 ∧ SpadFits (spadOff e (dOf e)) (fmtBytes f n)) : DestOk e f n := by
  unfold DestOk; rw [if_neg h.1]; exact h.2

theorem test_wit_vadd : Counted (loaded 1 eVadd) 0 1 0x41 eVadd 2 ∧ TwoOk Arith (loaded 1 eVadd) 0 eVadd 2 ∧ DestOk eVadd (dfmtOf eVadd) 2 :=
  ⟨counted_of (atHead_of (by decide +kernel)) (by decide +kernel),
   ⟨⟨by decide +kernel, by decide +kernel, by decide +kernel⟩, .inl (by decide +kernel), .inr ⟨by decide +kernel, by decide +kernel⟩⟩,
   dest_s ⟨by decide +kernel, by decide +kernel, by decide +kernel⟩⟩

theorem test_wit_vmov : Counted (loaded 1 eVmov) 0 1 0x40 eVmov 2 ∧ holdsAll (dfmtOf eVmov) (srcFmt eVmov) = true ∧
    FirstOk (loaded 1 eVmov) 0 eVmov 2 ∧ DestOk eVmov (dfmtOf eVmov) 2 :=
  ⟨counted_of (atHead_of (by decide +kernel)) (by decide +kernel), by decide +kernel,
   .inr (.inl ⟨by decide +kernel, fun h => by revert h; decide +kernel, ⟨by decide +kernel, by decide +kernel⟩, sound_clear rfl rfl⟩),
   dest_v (by decide +kernel)⟩

theorem test_wit_vfma : Counted (loaded 1 eVfma) 0 1 0x44 eVfma 2 ∧ (TwoOk Arith (loaded 1 eVfma) 0 eVfma 2 ∧
    GroupOk eVfma (wf' eVfma.word 57 53) 2 ∧ sfmtOf eVfma ≤ 2) ∧ DestOk eVfma (dfmtOf eVfma) 2 :=
  ⟨counted_of (atHead_of (by decide +kernel)) (by decide +kernel),
   ⟨⟨⟨by decide +kernel, by decide +kernel, by decide +kernel⟩, .inl (by decide +kernel), .inr ⟨by decide +kernel, by decide +kernel⟩⟩,
    ⟨by decide +kernel, by decide +kernel⟩, by decide +kernel⟩, dest_v (by decide +kernel)⟩

theorem test_wit_vmin : Counted (loaded 1 eVmin) 0 1 0x45 eVmin 2 ∧ TwoOk Exact (loaded 1 eVmin) 0 eVmin 2 ∧ DestOk eVmin (dfmtOf eVmin) 2 :=
  ⟨counted_of (atHead_of (by decide +kernel)) (by decide +kernel),
   ⟨.inr ⟨by decide +kernel, by decide +kernel, by decide +kernel, .inr (by decide +kernel)⟩, .inl (by decide +kernel),
    .inr ⟨by decide +kernel, by decide +kernel⟩⟩, dest_v (by decide +kernel)⟩

theorem test_wit_vsel : Counted (loaded 1 eVsel) 0 1 0x48 eVsel 2 ∧ TwoOk Exact (loaded 1 eVsel) 0 eVsel 2 ∧ DestOk eVsel (dfmtOf eVsel) 2 :=
  ⟨counted_of (atHead_of (by decide +kernel)) (by decide +kernel),
   ⟨.inl (by decide +kernel), .inr (.inr (by decide +kernel)), .inl (by decide +kernel)⟩, dest_v (by decide +kernel)⟩

theorem test_wit_vcvt : Counted (loaded 1 eVcvt) 0 1 0x49 eVcvt 3 ∧ isMx (dfmtOf eVcvt) = false ∧
    (wf' eVcvt.word 48 48 = 1 → srcFmt eVcvt = 0) ∧ FirstOk (loaded 1 eVcvt) 0 eVcvt 3 ∧ DestOk eVcvt (dfmtOf eVcvt) 3 :=
  ⟨counted_of (atHead_of (by decide +kernel)) (by decide +kernel), by decide +kernel, fun _ => by decide +kernel, .inl (by decide +kernel),
   dest_s ⟨by decide +kernel, by decide +kernel, by decide +kernel⟩⟩

/-- 32 FP32 values of V1 on to MXFP4 at A1. -/
def eVcvtMx : QEntry := vi 0x49 1 32 14 0 1 1 0 1 0

theorem test_wit_vcvt_mx : Counted (loaded 1 eVcvtMx) 0 1 0x49 eVcvtMx 32 ∧ isMx (dfmtOf eVcvtMx) = true ∧ dkOf eVcvtMx = 1 ∧
    (wf' eVcvtMx.word 48 48 = 1 → srcFmt eVcvtMx = 0) ∧ FirstOk (loaded 1 eVcvtMx) 0 eVcvtMx 32 ∧
    SpadFits (spadOff eVcvtMx (dOf eVcvtMx)) (fmtBytes (dfmtOf eVcvtMx) 32) ∧
    SpadSound (loaded 1 eVcvtMx) 0 (spadOff eVcvtMx (dOf eVcvtMx)) (fmtBytes (dfmtOf eVcvtMx) 32) :=
  ⟨counted_of (atHead_of (by decide +kernel)) (by decide +kernel), by decide +kernel, by decide +kernel, fun _ => by decide +kernel,
   .inl (by decide +kernel), ⟨by decide +kernel, by decide +kernel⟩, sound_clear rfl rfl⟩

def eVexp2 : QEntry := vi 0x50 1 2 0 0 0 4 0 1 0

theorem test_wit_curve : Counted (loaded 1 eVexp2) 0 1 0x50 eVexp2 2 ∧ dfmtOf eVexp2 ≤ 2 ∧ srcFmt eVexp2 ≤ 2 ∧ FirstOk (loaded 1 eVexp2) 0 eVexp2 2 ∧
    DestOk eVexp2 (dfmtOf eVexp2) 2 :=
  ⟨counted_of (atHead_of (by decide +kernel)) (by decide +kernel), by decide +kernel, by decide +kernel, .inl (by decide +kernel),
   dest_v (by decide +kernel)⟩

/-- V1 < V2 into M7, the last mask. -/
def eVcmp : QEntry := vi 0x47 1 2 0 0 2 7 0 1 (2 * 2 ^ 59)
def eMlogic : QEntry := vi 0x4C 1 2 0 0 2 7 0 0 (1 * 2 ^ 59 + 1 * 2 ^ 44)

theorem test_wit_masks : (Counted (loaded 1 eVcmp) 0 1 0x47 eVcmp 2 ∧ (srcFmt eVcmp ≤ 2 ∧ secondFmt eVcmp ≤ 2) ∧
    FirstOk (loaded 1 eVcmp) 0 eVcmp 2 ∧ SecondOk eVcmp 2) ∧ Counted (loaded 1 eMlogic) 0 1 0x4C eMlogic 2 :=
  ⟨⟨counted_of (atHead_of (by decide +kernel)) (by decide +kernel), ⟨by decide +kernel, by decide +kernel⟩, .inl (by decide +kernel),
    .inr ⟨by decide +kernel, by decide +kernel⟩⟩, counted_of (atHead_of (by decide +kernel)) (by decide +kernel)⟩

def eVtget : QEntry := vi 0x4E 1 128 0 0 0 4 0 1 (1 * 2 ^ 44)
def eVocc : QEntry := vi 0x58 1 64 0 0 1 1 0 1 32
def eVtwr : QEntry := vi 0x60 1 32 0 0 3 31 0 1 0
def eVtrd : QEntry := vi 0x61 1 32 0 0 0 4 0 31 0
/-- TRAYPOP of slot 0. -/
def ePop : QEntry := vi 0x7E 1 0 0 0 0 0 3 0 0
def eVflags : QEntry := vi 0x7F 1 0 0 0 1 1 0 0 0
def eTflags : QEntry := vi 0x9F 2 0 0 0 1 1 0 0 0

theorem test_wit_tile_and_words :
    (Counted (loaded 1 eVtget) 0 1 0x4E eVtget 128 ∧ dfmtOf eVtget = 0 ∧ DestOk eVtget 0 128) ∧
    (Counted (loaded 1 eVocc) 0 1 0x58 eVocc 64 ∧ wf' eVocc.word 31 0 = 32 ∧ FirstOk (loaded 1 eVocc) 0 eVocc 64 ∧
      SpadFits (spadOff eVocc (dOf eVocc)) (8 * ceilDiv (32 / 32) 64)) ∧
    (Counted (loaded 1 eVtwr) 0 1 0x60 eVtwr 32 ∧ dOf eVtwr + 32 / 32 = 32 ∧ isMx (srcFmt eVtwr) = false ∧ FirstOk (loaded 1 eVtwr) 0 eVtwr 32) ∧
    (Counted (loaded 1 eVtrd) 0 1 0x61 eVtrd 32 ∧ s1Of eVtrd + 32 / 32 = 32 ∧ isMx (dfmtOf eVtrd) = false ∧ DestOk eVtrd (dfmtOf eVtrd) 32) :=
  ⟨⟨counted_of (atHead_of (by decide +kernel)) (by decide +kernel), by decide +kernel, dest_v (by decide +kernel)⟩,
   ⟨counted_of (atHead_of (by decide +kernel)) (by decide +kernel), by decide +kernel, .inl (by decide +kernel), by decide +kernel, by decide +kernel⟩,
   ⟨counted_of (atHead_of (by decide +kernel)) (by decide +kernel), by decide +kernel, by decide +kernel, .inl (by decide +kernel)⟩,
   ⟨counted_of (atHead_of (by decide +kernel)) (by decide +kernel), by decide +kernel, by decide +kernel, dest_v (by decide +kernel)⟩⟩

theorem test_wit_pops_and_flags :
    (AtHead (loaded 1 ePop) 0 1 0x7E ePop ∧ slotNamed ePop = some 0 ∧ (slotAcc (getCore (loaded 1 ePop) 0) 0).isSome = true) ∧
    (AtHead (loaded 1 eVflags) 0 1 0x7F eVflags ∧ SpadFits (spadOff eVflags (dOf eVflags)) 64) ∧
    (AtHead (loaded 2 eTflags) 0 2 0x9F eTflags ∧ SpadFits (spadOff eTflags (dOf eTflags)) 64) :=
  ⟨⟨atHead_of (by decide +kernel), by decide +kernel, by decide +kernel⟩, ⟨atHead_of (by decide +kernel), by decide +kernel, by decide +kernel⟩,
   ⟨atHead_of (by decide +kernel), by decide +kernel, by decide +kernel⟩⟩

/-! ### Tally reductions, transfers, beads, streams -/

/-- TSUM of two rows of two from V1 to tally register 1, accumulating. -/
def eTsum : QEntry := vi 0x80 2 4 0 0 0 1 0 1 (2 * 2 ^ 50 + 1 * 2 ^ 45)
/-- TARGMAX of one row to the scratchpad at A3. -/
def eTarg : QEntry := vi 0x84 2 2 0 0 1 3 0 1 (2 * 2 ^ 50 + 7)
def eStat : QEntry := vi 0x86 2 4 0 0 0 1 0 1 (2 * 2 ^ 50 + 0x3F800000)

theorem test_wit_tally : Counted (loaded 2 eTsum) 0 2 0x80 eTsum 4 ∧ RowsOk (loaded 2 eTsum) 0 eTsum 4 ∧ FirstOk (loaded 2 eTsum) 0 eTsum 4 :=
  ⟨counted_of (atHead_of (by decide +kernel)) (by decide +kernel),
   ⟨by decide +kernel, by decide +kernel, fun _ => by decide +kernel, fun h => absurd (by decide +kernel) h, fun h => absurd (by decide +kernel) h⟩,
   .inl (by decide +kernel)⟩

theorem test_wit_tally_to_scratchpad : Counted (loaded 2 eTarg) 0 2 0x84 eTarg 2 ∧ RowsOk (loaded 2 eTarg) 0 eTarg 2 ∧
    FirstOk (loaded 2 eTarg) 0 eTarg 2 :=
  ⟨counted_of (atHead_of (by decide +kernel)) (by decide +kernel),
   ⟨by decide +kernel, by decide +kernel, fun h => absurd h (by decide +kernel), fun _ => ⟨by decide +kernel, by decide +kernel⟩,
    fun _ h => absurd (by decide +kernel) h⟩, .inl (by decide +kernel)⟩

theorem test_wit_rowstat : Counted (loaded 2 eStat) 0 2 0x86 eStat 4 ∧ RowsOk (loaded 2 eStat) 0 eStat 4 ∧ FirstOk (loaded 2 eStat) 0 eStat 4 :=
  ⟨counted_of (atHead_of (by decide +kernel)) (by decide +kernel),
   ⟨by decide +kernel, by decide +kernel, fun _ => by decide +kernel, fun h => absurd (by decide +kernel) h, fun h => absurd (by decide +kernel) h⟩,
   .inl (by decide +kernel)⟩

/-- RSMERGE of two pairs for one row, from A1, its weights to A3. -/
def eMerge : QEntry := vi 0x87 2 1 0 0 0 1 1 1 (1 * 2 ^ 50 + 1 * 2 ^ 44 + 3 * 2 ^ 39 + 2)

theorem test_wit_rsmerge : Counted (loaded 2 eMerge) 0 2 0x87 eMerge 1 ∧ RowsOk (loaded 2 eMerge) 0 eMerge 1 ∧ 1 / lenOf eMerge = 1 ∧
    wf' eMerge.word 31 0 = 2 ∧ SpadFits (spadOff eMerge (s1Of eMerge)) (8 * 2 * 1) ∧
    SpadSound (loaded 2 eMerge) 0 (spadOff eMerge (s1Of eMerge)) (8 * 2 * 1) ∧ SpadFits (spadOff eMerge (wf' eMerge.word 43 39)) (4 * 2 * 1) :=
  ⟨counted_of (atHead_of (by decide +kernel)) (by decide +kernel),
   ⟨by decide +kernel, by decide +kernel, fun _ => by decide +kernel, fun h => absurd (by decide +kernel) h, fun h => absurd (by decide +kernel) h⟩,
   by decide +kernel, by decide +kernel, ⟨by decide +kernel, by decide +kernel⟩, sound_clear rfl rfl, ⟨by decide +kernel, by decide +kernel⟩⟩

/-- VADD and TSUM with a count of 0. -/
def eZero : QEntry := vi 0x41 1 0 0 0 0 0 3 0 (1 * 2 ^ 64)
def eZeroT : QEntry := vi 0x80 2 0 0 0 0 0 0 0 0

theorem test_wit_count_zero : (AtHead (loaded 1 eZero) 0 1 0x41 eZero ∧ slotNamed eZero = some 0 ∧ (slotAcc (getCore (loaded 1 eZero) 0) 0).isSome = true ∧ countOf eZero = 0) ∧
    (AtHead (loaded 2 eZeroT) 0 2 0x80 eZeroT ∧ slotNamed eZeroT = none ∧ countOf eZeroT = 0) :=
  ⟨⟨atHead_of (by decide +kernel), by decide +kernel, by decide +kernel⟩, ⟨atHead_of (by decide +kernel), by decide +kernel, by decide +kernel⟩⟩

theorem test_wit_touches_only_its_core : (Instr.vadd, 1) ∈ computeRows ∧ went (exec (.vadd 0) (loaded 1 eVadd)) = true ∧
    (queueOf (getCore (loaded 1 eVadd) 0) 1).head? = some eVadd ∧ (spadBase 0 + 64 : Nat) < spadBase 0 + 64 + (fmtBytes 1 2) :=
  ⟨by simp [computeRows], by decide +kernel, by decide +kernel, by decide +kernel⟩

/-- A side of a descriptor: base, one row of four elements of four bytes. -/
def side (base : Nat) : List Byte :=
  natLe 8 base ++ natLe 4 4 ++ natLe 4 1 ++ natLe 4 1 ++ natLe 4 1 ++ natLe 4 1 ++ natLe 4 4 ++ List.replicate 16 0

/-- A descriptor of four FP32 elements, with a signal that adds 3 to bead 5 of die 0. -/
def desc (src dst : Nat) : List Byte :=
  natLe 4 0 ++ natLe 2 0x4688 ++ List.replicate 10 0 ++ side src ++ side dst ++ natLe 4 0 ++ natLe 4 (sigWord 0 5 3) ++ List.replicate 8 0
where
  /-- A signal word: valid, die, bead, increment. -/
  sigWord (d n i : Nat) : Nat := 2 ^ 31 + d * 2 ^ 30 + n * 2 ^ 16 + i

def eXld : QEntry := qe (wrd 0xA0 3 (1 * 2 ^ 111)) [(1, BitVec.ofNat 64 (hostA + 0x1000))] []
def eXst : QEntry := qe (wrd 0xA8 4 (1 * 2 ^ 111)) [(1, BitVec.ofNat 64 (hostA + 0x1000))] []

/-- Core 0 of partition 0, its link up, with a transfer at the head of a queue and its descriptor in host memory. -/
def moving (q : Nat) (e : QEntry) (d : List Byte) : State :=
  heading 0 q e Core.init (obj 0x3000 1 8 1 (obj 0x3000 0xD 4 0x00100000 (upLink (put (hostA + 0x1000) d
    (put (spadBase 0 + 64) [1, 2, 3, 4] (put hostA [5, 6, 7, 8] State.reset))))))

/-- What the checks of a transfer came to. -/
abbrev XferRun := EStateM.Result (Nat × Option Nat) State (Xfer × List Byte)

/-- The transfer that passed its checks. -/
def xferOf : XferRun → Xfer
  | .ok x _ => x.1
  | .error _ _ => parseXfer 0 true (qe 0 [] []) []

/-- The descriptor that it read. -/
def descOf : XferRun → List Byte
  | .ok x _ => x.2
  | .error _ _ => []

/-- The state after them. -/
def xferState : XferRun → State
  | .ok _ s => s
  | .error _ s => s

def passed : XferRun → Bool
  | .ok _ _ => true
  | .error _ _ => false

theorem passed_of {r : XferRun} (h : passed r = true) : r = .ok (xferOf r, descOf r) (xferState r) := by
  cases r with
  | ok _ _ => rfl
  | error _ _ => simp [passed] at h

def sXld : State := moving 3 eXld (desc hostA 64)
def sXst : State := moving 4 eXst (desc 64 hostA)
def rXld : XferRun := (startXfer 0 true eXld).run sXld
def rXst : XferRun := (startXfer 0 false eXst).run sXst

theorem plainRow_of {x : Xfer} {n w : Nat} {src dst : Int}
    (h : x.src.code = x.dst.code ∧ (wholeBytes x.src.code = w ∧ 0 < w) ∧ (x.src.rawSt 0 = w ∧ x.dst.rawSt 0 = w) ∧
      (x.src.base = src ∧ x.src.ext = [n, 1, 1, 1, 1]) ∧ (x.dst.base = dst ∧ x.dst.ext = [n, 1, 1, 1, 1]) ∧ x.perm = [0, 1, 2, 3, 4] ∧
      x.lo = [0, 0, 0, 0, 0] ∧ x.padw = false ∧ x.reduce = 0 ∧ x.rnd = false) : PlainRow x n w src dst :=
  ⟨h.1, h.2.1, h.2.2.1, h.2.2.2.1, h.2.2.2.2.1, h.2.2.2.2.2.1, h.2.2.2.2.2.2.1, h.2.2.2.2.2.2.2⟩

theorem test_wit_xld : AtHead sXld 0 3 0xA0 eXld ∧ (startXfer 0 true eXld).run sXld = .ok (xferOf rXld, descOf rXld) (xferState rXld) ∧
    PlainRow (xferOf rXld) 4 4 hostA ((spadBase 0 + 64 : Nat) : Int) ∧
    (eXld.desc = none ∧ accessHeld sXld (descAddr eXld) 128 = false ∧ accessHeld (xferState rXld) hostA (4 * 4) = false ∧
      regOpen (xferState rXld) (kernelPart sXld 0) .hostLink = true) ∧
    RawSound (xferState rXld) hostA (4 * 4) :=
  ⟨atHead_of (by decide +kernel), passed_of (by decide +kernel),
   plainRow_of (by decide +kernel), by decide +kernel, by unfold RawSound; decide +kernel⟩

theorem test_wit_xst : AtHead sXst 0 4 0xA8 eXst ∧ (startXfer 0 false eXst).run sXst = .ok (xferOf rXst, descOf rXst) (xferState rXst) ∧
    PlainRow (xferOf rXst) 4 4 ((spadBase 0 + 64 : Nat) : Int) hostA ∧
    (eXst.desc = none ∧ accessHeld sXst (descAddr eXst) 128 = false ∧ accessHeld (xferState rXst) hostA (4 * 4) = false ∧
      regOpen (xferState rXst) (kernelPart sXst 0) .hostLink = true) ∧
    SpadSound (xferState rXst) 0 64 (4 * 4) ∧
    (wf' eXst.word 88 88 = 0 ∧ sigValid (xferOf rXst).signal = true ∧ sigInc (xferOf rXst).signal = 3 ∧ BeadSound (xferState rXst) 0 5 ∧
      sigDie (xferOf rXst).signal = 0 ∧ sigBead (xferOf rXst).signal = 5 ∧ beadOwned sXst (kernelPart sXst 0) 0 5 = true) :=
  ⟨atHead_of (by decide +kernel), passed_of (by decide +kernel),
   plainRow_of (by decide +kernel), by decide +kernel, spadSound_of (by decide +kernel), by unfold BeadSound; decide +kernel⟩

/-- WBINV of 200 bytes of stack 0, two cached lines and a part of the second, one of them dirty. -/
def eWb (op q : Nat) : QEntry := qe (wrd op q (1 * 2 ^ 111 + 2 * 2 ^ 106)) [(1, 64), (2, 200)] []
def line0 (dirty : Bool) : Line := { data := List.replicate 128 1, dirty := dirty, poison := false }
def sWb (op q : Nat) : State :=
  heading 0 q (eWb op q) Core.init (obj 0x3000 1 8 1 (obj 0x3000 3 24 0xFFFF
    { State.reset with cache := [(0, line0 true), (2, line0 false), (5, line0 true)], prara := [(0, { Stack.init with prot := 0xFFFF })] }))

theorem test_wit_maintenance : AtHead (sWb 0xB9 4) 0 4 0xB9 (eWb 0xB9 4) ∧ capA (eWb 0xB9 4) (wf' (eWb 0xB9 4).word 115 111) % 2 ^ 52 = 64 ∧
    capA (eWb 0xB9 4) (wf' (eWb 0xB9 4).word 110 106) = 200 ∧ absentIn (sWb 0xB9 4) 64 (64 + 200) = none ∧ isCached 64 = true ∧ firstOutside (sWb 0xB9 4) 64 (64 + 200) = none ∧
    fenced (sWb 0xB9 4) (kernelPart (sWb 0xB9 4) 0) 64 200 = false ∧ (sWb 0xB9 4).memWf ∧
    (sWb 0xB9 4).link.level = 0 ∧ maintReady (sWb 0xB9 4) (eWb 0xB9 4) = true :=
  ⟨atHead_of (by decide +kernel), by decide +kernel, by decide +kernel, by decide +kernel, by decide +kernel, by decide +kernel,
   by decide +kernel, ⟨by decide +kernel, by decide +kernel, by decide +kernel, by decide +kernel⟩, by decide +kernel, by decide +kernel⟩

/-- Bead 15 of die 0, the last that partition 0 has here; two watches on it. -/
def eXq (op rest : Nat) : QEntry := qe (wrd op 5 (15 * 2 ^ 103 + rest)) [(1, 64)] []
def watch0 (v : W32) : Watch := { die := 0, bead := 15, cond := 0, value := v, target := .steward 0, timeout := 10, reg := 0 }
def sXq (e : QEntry) : State :=
  heading 0 5 e Core.init (obj 0x3000 1 8 1 (obj 0x3000 0xD 4 0x00100000
    { State.reset with beads := [(15, ⟨7, true⟩)], watches := [watch0 9, watch0 100] }))

theorem beadHead_of {s : State} {t op : Nat} {e : QEntry} {d n : Nat} (a : AtHead s t 5 op e)
    (b : xqBead e = (d, n) ∧ beadOwned s (xqPart s t) d n = true ∧ s.errs.find? (fun x => x.1 == beadAddr d (4 * n)) = none) : BeadHead s t op e d n :=
  ⟨a, b.1, b.2.1, b.2.2⟩

theorem test_wit_beads : BeadHead (sXq (eXq 0xC0 2)) 0 0xC0 (eXq 0xC0 2) 0 15 ∧ BeadHead (sXq (eXq 0xC1 100)) 0 0xC1 (eXq 0xC1 100) 0 15 ∧
    (BeadHead (sXq (eXq 0xC9 (1 * 2 ^ 88))) 0 0xC9 (eXq 0xC9 (1 * 2 ^ 88)) 0 15 ∧
      SpadFits (spadOff (eXq 0xC9 (1 * 2 ^ 88)) (wf' (eXq 0xC9 (1 * 2 ^ 88)).word 92 88)) 64) :=
  ⟨beadHead_of (atHead_of (by decide +kernel)) (by decide +kernel), beadHead_of (atHead_of (by decide +kernel)) (by decide +kernel),
   beadHead_of (atHead_of (by decide +kernel)) (by decide +kernel), by decide +kernel, by decide +kernel⟩

/-- BWAIT for bead 15 to be 7, which it is, and 8, which it is not. -/
def msg0 : Msg :=
  { target := .xq 0, die := 0, bead := 15, status := 0, poison := false, reclaimed := false, value := 7, stamp := 0, held := false }
def eWaits : QEntry := { eXq 0xC8 8 with started := true }
def sMsg : State := { sXq eWaits with msgs := [msg0], now := 11, watches := [] }

theorem test_wit_watches : (BeadHead (sXq (eXq 0xC8 7)) 0 0xC8 (eXq 0xC8 7) 0 15 ∧ (eXq 0xC8 7).started = false) ∧
    BeadHead (sXq (eXq 0xC8 0x80000000)) 0 0xC8 (eXq 0xC8 0x80000000) 0 15 ∧
    (AtHead sMsg 0 5 0xC8 eWaits ∧ eWaits.started = true ∧ sMsg.msgs.find? (fun x => x.target == Target.xq 0) = some msg0 ∧ msg0.held = false ∧
      msg0.status = 0 ∧ msg0.poison = false) ∧
    ({ sMsg with msgs := [{ msg0 with target := .steward 3 }] }.msgs.find? (fun x => x.target == Target.steward 3) =
      some { msg0 with target := .steward 3 }) ∧
    ({ sXq eWaits with now := 11 }.watches.find? (fun x => x.die == 0 && x.timeout != 0 && decide (x.reg + x.timeout ≤ 11)) = some (watch0 9)) :=
  ⟨⟨beadHead_of (atHead_of (by decide +kernel)) (by decide +kernel), rfl⟩, beadHead_of (atHead_of (by decide +kernel)) (by decide +kernel),
   ⟨atHead_of (by decide +kernel), by decide +kernel⟩, by decide +kernel, by decide +kernel⟩

/-- Core 0 of partition 0 waits on a BWAIT since tick 0, core 1 of it does not. -/
def sLend : State :=
  updCore (obj 0x3000 1 8 3 (obj 0x2040 1 4 200 { sXq eWaits with now := 201, watches := [{ watch0 9 with target := .xq 0 }] })) 0
    (fun c => { c with share := 40 })
/-- Partition 0 at a multiple of its period, with one pair: producer bead 1, consumer bead 2, limit 5. -/
def sReckon : State :=
  obj 0x3000 0xD 4 0x00100000 <| obj 0x3000 0xF 8 (1 + 65536 * 2 + 2 ^ 32 * 5) { State.reset with now := 1000, beads := [(1, ⟨9, false⟩), (2, ⟨4, false⟩)] }
def pair0 : Pair := { index := 0, producer := (0, 1), consumer := (0, 2), limit := 5 }

theorem test_wit_lending : isReady sLend = true ∧ (getCore sLend 0).lent = false ∧ ownerOfCore sLend 0 = some 0 ∧ ownerOfCore sLend 1 = some 0 ∧
    waiting (getCore sLend 0) = true ∧ (queueOf (getCore sLend 0) 5).head? = some eWaits ∧ objNat sLend 0x2040 1 = 200 ∧ 0 + 200 < sLend.now ∧
    (getCore sLend 1).lent = false ∧ waiting (getCore sLend 1) = false ∧ (∀ q, q < 5 → queueIdle (getCore sLend 0) q = true) ∧
    sLend.watches.any (fun w => w.target == .xq 0) = true ∧ corePresent sLend 0 = true ∧
    (coresOf sLend 0).all (fun y => !(getCore sLend y).lent) = true ∧
    takers (updCore sLend 0 (fun c => { c with lent := true, lends := c.lends + 1 })) 0 = [1] := by decide +kernel

/-- Core 0 lends, and a message that its watch released waits for it. -/
def sReclaim : State :=
  updCore { sLend with msgs := [{ target := .xq 0, die := 0, bead := 15, status := 0, poison := false, reclaimed := false, value := 7, stamp := 0, held := true }] }
    0 (fun c => { c with lent := true })

theorem test_wit_reclaim : (getCore sReclaim 0).lent = true ∧ sReclaim.msgs.any (fun m => m.target == .xq 0 && m.held) = true ∧
    ownerOfCore sReclaim 0 = some 0 ∧ ((coresOf sReclaim 0).filter (fun y => y != 0)).all (fun y => !(getCore sReclaim y).lent) = true := by
  decide +kernel

theorem test_wit_reckoning : isReady sReckon = true ∧ objNat sReckon 0x3010 4 = 1000 ∧
    (getPart sReckon 0).reckoned / 1000 < sReckon.now / 1000 ∧ (getPart sReckon 0).flight = none ∧ sReckon.order < partPlace 0 1 ∧
    ((getBead sReckon 0 1).value - (getBead sReckon 0 2).value).toNat = pair0.limit ∧ BeadSound sReckon 0 1 ∧ BeadSound sReckon 0 2 ∧
    beadOwned sReckon 0 0 1 = true ∧ beadOwned sReckon 0 0 2 = true := by
  unfold BeadSound; decide +kernel

/-- A stream command over two FP32 elements of the lower half of steward 0's memory. -/
def cmdS (op : Nat) : List Byte := stream op 2 0x30100000000 0x30100000100 0x30100000200 1
def sSvu : State := put 0x30100000000 [0, 0, 0x80, 0x3F, 0, 0, 0, 0x40] (put 0x30100000100 [0, 0, 0x40, 0x40] State.reset)

theorem runs_of {s : State} {i op : Nat} {b : List Byte} {c : SvuCmd} {n1 n2 nD dr : Nat} (f : parseStream b = c)
    (a : (isReady s = true ∧ stewardPresent s i = true ∧ bytesAt b 0 1 = op) ∧ (0 < c.count ∧ c.count ≤ 16777216) ∧
      (n1 ≠ 0 → streamPlace s i c.src1 n1 = true) ∧ (n2 ≠ 0 → streamPlace s i c.src2 n2 = true) ∧ streamPlace s i c.dst nD = true ∧
      (accessHeld s c.src1 n1 = false ∧ accessHeld s c.src2 n2 = false ∧ accessHeld s c.dst nD = false) ∧
      (unitRead { s with free := s.free + dr } c.src1 n1 .steward).2.2 = false ∧
      (unitRead (unitRead { s with free := s.free + dr } c.src1 n1 .steward).1 c.src2 n2 .steward).2.2 = false ∧
      (n1 = 0 ∨ c.src1 = c.dst ∨ overlaps c.src1 n1 c.dst nD = false) ∧ (n2 = 0 ∨ c.src2 = c.dst ∨ overlaps c.src2 n2 c.dst nD = false)) :
    SvuRuns s i op b c n1 n2 nD dr (unitRead { s with free := s.free + dr } c.src1 n1 .steward).2.1
      (unitRead (unitRead { s with free := s.free + dr } c.src1 n1 .steward).1 c.src2 n2 .steward).2.1
      (unitRead { s with free := s.free + dr } c.src1 n1 .steward).1
      (unitRead (unitRead { s with free := s.free + dr } c.src1 n1 .steward).1 c.src2 n2 .steward).1 where
  ready := a.1.1
  present := a.1.2.1
  operation := a.1.2.2
  fields := f
  count := a.2.1
  place1 := a.2.2.1
  place2 := a.2.2.2.1
  placeD := a.2.2.2.2.1
  open1 := a.2.2.2.2.2.1.1
  open2 := a.2.2.2.2.2.1.2.1
  openD := a.2.2.2.2.2.1.2.2
  read1 := by rw [← a.2.2.2.2.2.2.1]
  read2 := by rw [← a.2.2.2.2.2.2.2.1]
  apart1 := a.2.2.2.2.2.2.2.2.1
  apart2 := a.2.2.2.2.2.2.2.2.2

/-- The fields of that command. -/
def fieldsS : SvuCmd :=
  { sfmt := 0, dfmt := 0, rnd := false, sat := false, cond := 0, count := 2, src1 := 0x30100000000, src2 := 0x30100000100, dst := 0x30100000200,
    key := 0, base := 0, scalar := 0, k := 1 }

theorem test_stream_fields : parseStream (cmdS 1) = fieldsS ∧ (cmdS 1).length = 64 := by decide +kernel

theorem test_wit_stream_two : (∃ b1 b2 r1 r2, SvuRuns sSvu 0 1 (cmdS 1) fieldsS 8 8 8 2 b1 b2 r1 r2) ∧ dBytes fieldsS = 8 ∧
    fmtBytes (wholeSrc fieldsS).1 (wholeSrc fieldsS).2 = 8 ∧ arithOk fieldsS ∧ bothWhole fieldsS ∧ fieldsS.src2 ≠ 0 :=
  ⟨⟨_, _, _, _, runs_of (by decide +kernel) (by decide +kernel)⟩, by decide +kernel, by decide +kernel,
   ⟨by decide, fun h => by revert h; decide +kernel⟩, ⟨fun h => by revert h; decide +kernel, fun h => by revert h; decide +kernel⟩, by decide⟩

theorem test_wit_stream_one : (∃ b1 b2 r1 r2, SvuRuns sSvu 0 9 (cmdS 9) fieldsS 8 0 8 2 b1 b2 r1 r2) ∧ (fieldsS.rnd = true → fieldsS.sfmt = 0) :=
  ⟨⟨_, _, _, _, runs_of (by decide +kernel) (by decide +kernel)⟩, fun _ => rfl⟩

theorem test_wit_stream_count : (Instr.svuAdd, 0x01) ∈ svuRows ∧ (isReady sSvu = true ∧ stewardPresent sSvu 0 = true) ∧
    (16777216 < bytesAt (stream 1 16777217 0 0 0 0) 4 4 % 2 ^ 25 ∧ bytesAt (stream 1 0 0 0 0 0) 4 4 % 2 ^ 25 = 0) :=
  ⟨by simp [svuRows], by decide +kernel, by decide +kernel⟩

theorem test_wit_stream_reduces : (∃ b1 b2 r1 r2, SvuRuns sSvu 0 0x10 (cmdS 0x10) fieldsS 8 0 8 3 b1 b2 r1 r2) ∧ srcWhole fieldsS :=
  ⟨⟨_, _, _, _, runs_of (by decide +kernel) (by decide +kernel)⟩, fun h => by revert h; decide +kernel⟩

theorem test_wit_stream_selects : (∃ b1 b2 r1 r2, SvuRuns sSvu 0 0x20 (cmdS 0x20) fieldsS 0 0 8 0 b1 b2 r1 r2) ∧
    (∃ b1 b2 r1 r2, SvuRuns sSvu 0 0x21 (cmdS 0x21) fieldsS 8 0 8 0 b1 b2 r1 r2) ∧ (1 ≤ fieldsS.k ∧ fieldsS.k ≤ 1024) ∧
    (∃ b1 b2 r1 r2, SvuRuns sSvu 0 0x23 (cmdS 0x23) fieldsS (8 * fieldsS.count) 0 4 0 b1 b2 r1 r2) :=
  ⟨⟨_, _, _, _, runs_of (by decide +kernel) (by decide +kernel)⟩, ⟨_, _, _, _, runs_of (by decide +kernel) (by decide +kernel)⟩, by decide,
   ⟨_, _, _, _, runs_of (by decide +kernel) (by decide +kernel)⟩⟩

/-! ### Bank engines, sequencers, temperature -/

/-- An engine word: opcode and the other bits. -/
def ewrd (op rest : Nat) : W64 := BitVec.ofNat 64 (op * 2 ^ 56 + rest)

/-- A running engine of partition 0 with a word at index 0, and something in its registers and memories. -/
def eng (w : W64) : Engine :=
  { Engine.init with pm := [(0, w)], running := true, g := [(1, 5), (2, 3), (3, 0xFFFFFFFF)], dm := [(0, 1), (64, 7)], w := [(0, 0x80), (1, 0x3F), (32, 9)],
                     x := [(0, 0x3F80), (1, 0x4000)], xfmt := 1, z := [(0, true), (1, true)], acc := [(0, 0x3F800000), (256, 0x40000000)] }

/-- Stack 0, its last region unprotected and of partition 0, with an engine. -/
def engined (e : Engine) (k : Stack) : State :=
  obj 0x3000 3 24 0x8000 { State.reset with prara := [(0, { k with prot := 0x7FFF, engines := [(0, e)] })] }

theorem engineAt_of {s : State} {n q op : Nat} {w : W64}
    (h : (isReady s = true ∧ stackPresent s n = true ∧ q < engineCount (getStack s n) ∧ (getEngine (getStack s n) q).running = true ∧
      bitAt (getStack s n).failing (chanOfBank (getStack s n) q) = false) ∧ (getEngine (getStack s n) q).pc < 512 ∧
      (getEngine (getStack s n) q).ecc = false ∧ (getEngine (getStack s n) q).arrErr = [] ∧
      sGet 0 (getEngine (getStack s n) q).pm (getEngine (getStack s n) q).pc = w ∧ engineLegal w = true ∧ fld w.toNat 63 56 = op) : EngineAt s n q op w :=
  ⟨h.1.1, h.1.2.1, h.1.2.2.1, h.1.2.2.2.1, h.1.2.2.2.2, h.2.1, h.2.2.1, h.2.2.2.1, h.2.2.2.2.1, h.2.2.2.2.2.1, h.2.2.2.2.2.2⟩

/-- BE_ADD G4 ← G1 + G3. -/
def wBeAdd : W64 := ewrd 0x03 (4 * 2 ^ 52 + 1 * 2 ^ 48 + 3 * 2 ^ 44)
/-- BE_SHLI by 33 and BE_NOP. -/
def wBeShli : W64 := ewrd 0x0B (4 * 2 ^ 52 + 1 * 2 ^ 48 + 33)
def wBeNop : W64 := ewrd 0x0E 0
/-- LOOP of 255 instructions, 5 times. -/
def wBeLoop : W64 := ewrd 0x40 (1 * 2 ^ 48 + 255 * 2 ^ 40)
/-- ZSK of two lines from entry 0, skipping 3, moving G0 on. -/
def wZsk : W64 := ewrd 0x38 (1 * 2 ^ 47 + 3 * 2 ^ 43 + 1 * 2 ^ 42)

theorem test_wit_engine : EngineAt (engined (eng wBeAdd) Stack.init) 0 0 0x03 wBeAdd ∧ EngineAt (engined (eng wBeShli) Stack.init) 0 0 0x0B wBeShli ∧
    EngineAt (engined (eng wBeNop) Stack.init) 0 0 0x0E wBeNop :=
  ⟨engineAt_of (by decide +kernel), engineAt_of (by decide +kernel), engineAt_of (by decide +kernel)⟩

theorem test_wit_engine_loop : EngineAt (engined (eng wBeLoop) Stack.init) 0 0 0x40 wBeLoop ∧ ew wBeLoop 47 40 = 255 ∧ (eng wBeLoop).loops.length < 4 ∧
    (eng wBeLoop).pc + 1 + 255 ≤ 512 ∧ (∀ f, (eng wBeLoop).loops.head? = some f → (eng wBeLoop).pc + 1 + 255 ≤ f.last) :=
  ⟨engineAt_of (by decide +kernel), by decide +kernel, by decide +kernel, by decide +kernel, fun f h => by cases h⟩

theorem test_wit_engine_skip : EngineAt (engined (eng wZsk) Stack.init) 0 0 0x38 wZsk ∧ (eReg (eng wZsk) (ew wZsk 55 52)).toNat = 0 ∧
    ew wZsk 51 47 + 1 = 2 ∧ (List.range 2).all (fun l => sGet false (eng wZsk).z (0 + l)) = true ∧ ew wZsk 46 43 = 3 ∧ (eng wZsk).pc + 1 + 3 ≤ 512 :=
  ⟨engineAt_of (by decide +kernel), by decide +kernel⟩

/-- Local accesses that end at the last byte, 12,288: LDW and STW at 12,284, ASTL at 11,264, WST of one slot at 12,256. -/
def wLdw : W64 := ewrd 0x10 (4 * 2 ^ 52 + 12284)
def wStw : W64 := ewrd 0x11 (1 * 2 ^ 44 + 12284)
def wAstl : W64 := ewrd 0x12 (1 * 2 ^ 54 + 11264)
def wAldl : W64 := ewrd 0x13 (1 * 2 ^ 54 + 11264)
def wWst : W64 := ewrd 0x14 (31 * 2 ^ 39 + 12256)
def wWld : W64 := ewrd 0x15 (31 * 2 ^ 39 + 0)

theorem settled_of {e : Engine} {a f n : Nat} (h : e.stage = []) : Settled e a f n := by
  intro l _; unfold hasProducts; rw [h]; rfl

theorem test_wit_local_memory :
    (EngineAt (engined (eng wLdw) Stack.init) 0 0 0x10 wLdw ∧ Local (eAddr (eng wLdw) wLdw) 4 4 ∧
      sGet false (eng wLdw).dmPoison (eAddr (eng wLdw) wLdw / 4) = false) ∧
    (EngineAt (engined (eng wStw) Stack.init) 0 0 0x11 wStw ∧ Local (eAddr (eng wStw) wStw) 4 4) ∧
    (EngineAt (engined (eng wAstl) Stack.init) 0 0 0x12 wAstl ∧ Local (eAddr (eng wAstl) wAstl) 64 1024 ∧ Settled (eng wAstl) (ew wAstl 55 54) 0 256) ∧
    (EngineAt (engined (eng wAldl) Stack.init) 0 0 0x13 wAldl ∧ Local (eAddr (eng wAldl) wAldl) 64 1024) ∧
    (EngineAt (engined (eng wWst) Stack.init) 0 0 0x14 wWst ∧ Local (eAddr (eng wWst) wWst) 32 (32 * (ew wWst 38 34 + 1)) ∧
      ew wWst 43 39 + (ew wWst 38 34 + 1) = 32) ∧
    (EngineAt (engined (eng wWld) Stack.init) 0 0 0x15 wWld ∧ Local (eAddr (eng wWld) wWld) 32 (32 * (ew wWld 38 34 + 1))) :=
  ⟨⟨engineAt_of (by decide +kernel), ⟨by decide +kernel, by decide +kernel⟩, by decide +kernel⟩,
   ⟨engineAt_of (by decide +kernel), ⟨by decide +kernel, by decide +kernel⟩⟩,
   ⟨engineAt_of (by decide +kernel), ⟨by decide +kernel, by decide +kernel⟩, settled_of rfl⟩,
   ⟨engineAt_of (by decide +kernel), ⟨by decide +kernel, by decide +kernel⟩⟩,
   ⟨engineAt_of (by decide +kernel), ⟨by decide +kernel, by decide +kernel⟩, by decide +kernel⟩,
   ⟨engineAt_of (by decide +kernel), ⟨by decide +kernel, by decide +kernel⟩⟩⟩

/-- ROPEN of row 65,535, the last. -/
def wRopen : W64 := ewrd 0x20 (1 * 2 ^ 48)
def eRopen : Engine := { eng wRopen with g := [(1, 65535)] }
/-- CRD of two columns, 62 and 63, into slots 30 and 31. -/
def wCrd : W64 := ewrd 0x21 (30 * 2 ^ 51 + 1 * 2 ^ 46 + 62 * 2 ^ 40)
def sCrd : State := put (bankAddr { Stack.init with prot := 0x7FFF } 0 65535 (32 * 62)) [1, 2] (engined { eng wCrd with row := some 65535 } Stack.init)

theorem test_wit_row : EngineAt (engined eRopen Stack.init) 0 0 0x20 wRopen ∧ (eReg eRopen (ew wRopen 51 48)).toNat = 65535 ∧
    rowOpen (engined eRopen Stack.init) 0 eRopen.partition 65535 = true :=
  ⟨engineAt_of (by decide +kernel), by decide +kernel⟩

theorem test_wit_columns : EngineAt sCrd 0 0 0x21 wCrd ∧ rowOpen sCrd 0 0 65535 = true ∧
    (ew wCrd 55 51 = 30 ∧ ew wCrd 50 46 + 1 = 2 ∧ 2 ^ ew wCrd 34 33 = 1 ∧ ew wCrd 31 27 = 0 ∧ ew wCrd 45 40 = 62 ∧ ew wCrd 39 39 = 0 ∧
      ew wCrd 32 32 = 0) ∧
    (∀ j, j < 2 → lineOf sCrd (stackWindow 0 + bankAddr (getStack sCrd 0) 0 65535 (32 * (62 + j))) = none ∧
      granulePoison sCrd (stackWindow 0 + bankAddr (getStack sCrd 0) 0 65535 (32 * (62 + j))) = false) ∧ sCrd.errs = [] :=
  ⟨engineAt_of (by decide +kernel), by decide +kernel⟩

/-- An OUTER and an INNER MAC of BF16: one slot, one line. -/
def wMac : W64 := ewrd 0x30 (1 * 2 ^ 54 + 1 * 2 ^ 36 + 255 * 2 ^ 19 - 15 * 2 ^ 19)
def wMacI : W64 := ewrd 0x30 (1 * 2 ^ 54 + 1 * 2 ^ 40 + 1 * 2 ^ 36 + 255 * 2 ^ 19)
/-- FOLD of accumulator 0 with scales from slot 24, the last that fits 256 lanes. -/
def wFold : W64 := ewrd 0x31 (24 * 2 ^ 49 + 1 * 2 ^ 48)
def eFold : Engine := { eng wFold with stage := [(255, { sum := num32 0x40000000, count := 1 })], w := [(32 * 31 + 31, 128)] }
def wBeAclr : W64 := ewrd 0x32 (1 * 2 ^ 54)

theorem test_wit_mac : EngineAt (engined (eng wMac) Stack.init) 0 0 0x30 wMac ∧
    macPair (macArgs (eng wMac) wMac).wfmt (eng wMac).xfmt = some (16, 16, true) ∧
    (macArgs (eng wMac) wMac).inner = false ∧ (macArgs (eng wMac) wMac).n % (macArgs (eng wMac) wMac).lw = 0 ∧
    (macArgs (eng wMac) wMac).ws + (macArgs (eng wMac) wMac).n ≤ 32 ∧ (macArgs (eng wMac) wMac).useLe = false ∧
    (macArgs (eng wMac) wMac).lb + (macArgs (eng wMac) wMac).lw * 16 = 256 ∧ macLines (eng wMac) (macArgs (eng wMac) wMac) = [0] ∧
    (∀ i, i < 16 → (sGet { sum := Machine.Num.zero false, count := 0 } (eng wMac).stage (256 * 1 + 240 + i)).count + 1 ≤ 16) :=
  ⟨engineAt_of (by decide +kernel), by decide +kernel⟩

theorem test_wit_mac_inner : EngineAt (engined (eng wMacI) Stack.init) 0 0 0x30 wMacI ∧
    macPair (macArgs (eng wMacI) wMacI).wfmt (eng wMacI).xfmt = some (16, 16, true) ∧ (macArgs (eng wMacI) wMacI).inner = true ∧
    (macArgs (eng wMacI) wMacI).lb + (macArgs (eng wMacI) wMacI).lof + (macArgs (eng wMacI) wMacI).n / (macArgs (eng wMacI) wMacI).lw = 256 ∧
    macLines (eng wMacI) (macArgs (eng wMacI) wMacI) = [0] :=
  ⟨engineAt_of (by decide +kernel), by decide +kernel⟩

theorem test_wit_fold : EngineAt (engined eFold Stack.init) 0 0 0x31 wFold ∧ ew wFold 55 54 = 0 ∧ ew wFold 53 49 = 24 ∧ (ew wFold 48 48 == 1) = true ∧
    24 + 255 / 32 = 31 ∧ EngineAt (engined (eng wBeAclr) Stack.init) 0 0 0x32 wBeAclr :=
  ⟨engineAt_of (by decide +kernel), by decide +kernel, by decide +kernel, by decide +kernel, by decide +kernel, engineAt_of (by decide +kernel)⟩

/-- A launch record of stack 0, engines 0 and 1, and a group that takes two pushes of 16 lanes. -/
def rec0 : LaunchRec :=
  { vec := 0, groups := 0, record := hostA + 64, signal := 0, arg := 9, p0 := 10, pstride := 3, kstride := 0, q0 := 0, q1 := 1, entry := 4, vlen := 0,
    xoff := 0, kwrap := 1, stack := 0, vfmt := 1, ngroups := 0, partition := 0, tag := 0, sc := 0 }
def group0 : Group := { dst := hostA, op := 0, fmt := 0, pushes := 2, width := 16, scale := 0, signal := 0, got := [], written := false }
def launch0 : LaunchRun := newLaunch rec0 [group0] 0
/-- PUSH of 16 lanes of accumulator 1 from lane 240; G5 and G6 are 0. -/
def wPush : W64 := ewrd 0x48 (1 * 2 ^ 54 + 240 * 2 ^ 46 + 15 * 2 ^ 38 + 5 * 2 ^ 34 + 6 * 2 ^ 30)
def wHalt : W64 := ewrd 0x7F 0
def sLaunched (w : W64) : State := engined (eng w) { Stack.init with launch := some launch0 }

theorem test_wit_push_and_halt : EngineAt (sLaunched wPush) 0 0 0x48 wPush ∧
    ((getStack (sLaunched wPush) 0).launch = some launch0 ∧ (eReg (eng wPush) (ew wPush 37 34)).toNat = 0 ∧
      (eReg (eng wPush) (ew wPush 33 30)).toNat = 0 ∧ ew wPush 55 54 = 1 ∧ ew wPush 53 46 = 240 ∧ ew wPush 45 38 + 1 = 16 ∧
      launch0.groups[0]? = some group0 ∧ groupTakes group0 0 0 16 = true ∧ 240 + 16 = 256 ∧ group0.got.length + 1 < group0.pushes) ∧
    Settled (eng wPush) 1 240 16 ∧ EngineAt (sLaunched wHalt) 0 0 0x7F wHalt :=
  ⟨engineAt_of (by decide +kernel), by decide +kernel, settled_of rfl, engineAt_of (by decide +kernel)⟩

/-- The same push as the last that the group takes. -/
def group1 : Group := { group0 with dst := spadBase 0 + 64, pushes := 1 }
def sLast (w : W64) : State := obj 0x3000 1 8 1 (engined (eng w) { Stack.init with launch := some (newLaunch rec0 [group1] 0) })

theorem test_wit_last_push : EngineAt (sLast wPush) 0 0 0x48 wPush ∧ (newLaunch rec0 [group1] 0).groups[0]? = some group1 ∧
    groupTakes group1 0 0 16 = true ∧ group1.got.length + 1 = group1.pushes ∧ accessHeld (sLast wPush) group1.dst (groupSize group1) = false ∧
    (group1.op ≤ 1 ∧ group1.dst = spadBase 0 + 64 ∧ 64 + groupSize group1 ≤ spadBytes ∧ corePresent (sLast wPush) 0 = true ∧
      windowShut (sLast wPush) .other group1.dst = false ∧ inTransition (sLast wPush) group1.dst (groupSize group1) = false) :=
  ⟨engineAt_of (by decide +kernel), by decide +kernel⟩

theorem test_wit_engine_frame : Instr.mac ∈ engineRows ∧ went (exec (.mac 0 0) (engined (eng wMac) Stack.init)) = true :=
  ⟨by simp [engineRows], by decide +kernel⟩

/-- A program image of one word and four bytes of data, in host memory, with the link up. -/
def image0 : List Byte :=
  natLe 4 0x314B4E42 ++ natLe 2 1 ++ natLe 2 0 ++ natLe 2 1 ++ natLe 2 4 ++ natLe 2 0 ++ List.replicate 18 0 ++ natLe 8 0x7F00000000000000 ++ [1, 2, 3, 4]
def sLoad : State := upLink (put hostA image0 State.reset)

theorem test_wit_load : isReady sLoad = true ∧ SequencerIdle sLoad 11 ∧ accessHeld sLoad (hostA % 2 ^ 52) 32 = false ∧
    LoadOk (taken sLoad 11 0) 11 0 575 (hostA % 2 ^ 52) 0 (image0.take 32) image0 (unitRead (taken sLoad 11 0) hostA 32).1
      (unitRead (unitRead (taken sLoad 11 0) hostA 32).1 hostA 44).1 :=
  ⟨by decide +kernel, by unfold SequencerIdle; decide +kernel, by decide +kernel,
   { engines := by decide +kernel
     place := by decide +kernel
     header := by
       show _ = (_, _, _)
       rw [show unitRead (taken sLoad 11 0) (hostA % 2 ^ 52) 32 =
         ((unitRead (taken sLoad 11 0) hostA 32).1, (unitRead (taken sLoad 11 0) hostA 32).2) from rfl]
       exact Prod.ext rfl (by decide +kernel)
     format := by decide +kernel
     whole := by decide +kernel
     range := by decide +kernel
     read := Prod.ext rfl (by decide +kernel)
     same := by decide +kernel }⟩

/-- A part without bank engines, and a stack that is busy. -/
theorem test_wit_load_refused_or_kept : hasEngines { State.reset with hw := { State.reset.hw with variant := .wdn4812P } } = false ∧
    (getStack (sLaunched wHalt) 0).launch = some launch0 ∧ (getStack (sLaunched wHalt) 0).reload = [] ∧ isReady (sLaunched wHalt) = true := by
  decide +kernel

/-- The record of a launch with no vector and no group, in host memory. -/
def launchBytes : List Byte :=
  natLe 16 0 ++ natLe 8 (hostA + 64) ++ natLe 20 0 ++ natLe 2 0 ++ natLe 2 575 ++ natLe 6 511 ++ natLe 2 1 ++ natLe 1 0 ++ natLe 1 1 ++ natLe 6 0
def sLaunch : State := upLink (put hostA launchBytes State.reset)

/-- The state after the sequencer of steward 15 has read it. -/
def sRead : State := (unitRead (readWord wPartition sLaunch) hostA 64 .steward).1
def recL : LaunchRec := parseLaunch launchBytes 15

theorem test_wit_launch : (unitRead (readWord wPartition sLaunch) (hostA % 2 ^ 52) 64 .steward).2 = (launchBytes, false) ∧
    recL.record = hostA + 64 ∧ recL.record % 64 = 0 ∧ stewardPresent sLaunch 15 = true ∧ accessHeld sLaunch (hostA % 2 ^ 52) 64 = false ∧
    stackPresent sLaunch recL.stack = true ∧ SequencerIdle sRead recL.stack ∧ orderHeld sRead (.launch recL) = false ∧
    LaunchOk (taken sRead recL.stack recL.partition) recL [] (unitRead (taken sRead recL.stack recL.partition) recL.groups (32 * recL.ngroups)).1 :=
  ⟨by decide +kernel, by decide +kernel, by decide +kernel, by decide +kernel, by decide +kernel, by decide +kernel,
   by unfold SequencerIdle; decide +kernel, by decide +kernel,
   { engines := by decide +kernel
     range := by decide +kernel
     fields := by decide +kernel
     table := fun h => absurd (by decide +kernel) h
     read := ⟨[], Prod.ext rfl (by decide +kernel), by decide +kernel⟩
     dests := fun g h => by cases h
     source := fun h => absurd (by decide +kernel) h }⟩

/-- A launch over engines that the stack does not have. -/
theorem test_wit_launch_fails : (match checkLaunch (taken sRead 0 0) 0 { recL with q1 := 576 } with | (_, .error _) => true | _ => false) = true := by
  decide +kernel

def ready0 : State := { State.reset with prara := [(0, { Stack.init with ready := some (newLaunch rec0 [] 0) })], now := 5 }
def running0 : State := { sLaunched wHalt with now := 10001 }
def done0 : State :=
  upLink <| engined { eng wHalt with running := false } { Stack.init with launch := some { launch0 with groups := [{ group0 with written := true }], halted := 2 } }

theorem test_wit_launch_events :
    (stackTripped ready0 0 = false ∧ (getStack ready0 0).ready = some (newLaunch rec0 [] 0) ∧ (getStack ready0 0).launch = none ∧
      (getStack ready0 0).refresh ≤ 1 ∧ (getPart ready0 rec0.partition).stop = 0 ∧ (getStack ready0 0).reload = [] ∧
      accessHeld ready0 rec0.vec (rec0.vlen * vecBytes rec0) = false ∧ launchOpen ready0 0 rec0 = true) ∧
    ((getEngine (getStack running0 0) 0).running = true ∧ objNat running0 0x3000 0xC = 10000 ∧
      (getEngine (getStack running0 0) 0).startAt + 10000 < running0.now ∧ (getStack running0 0).launch = some launch0) ∧
    (stillRunning (getStack done0 0) rec0 = false ∧ writesHeld done0 { launch0 with groups := [{ group0 with written := true }], halted := 2 } = false ∧
      (getStack done0 0).ready = none ∧ (getStack done0 0).seq = [] ∧ (getStack done0 0).reload = []) := by decide +kernel

/-- Stack 3 with four refreshes owed to its last bank; stack 0 at a refresh rate and a thermal state. -/
def owed0 (n : Nat) : State := { State.reset with prara := [(3, { Stack.init with owed := if n = 0 then [] else [(575, n)] })] }
def warm (r t : Nat) : State := { State.reset with prara := [(0, { Stack.init with refresh := r, thermal := t })] }
def hot (d t : Nat) : State := { State.reset with power := { State.reset.power with dieThermal := [(d, t)] } }

theorem test_wit_refresh : refreshable (owed0 0) 3 575 = true ∧ refreshable (owed0 4) 3 575 = true ∧ sGet 0 (getStack (owed0 4) 3).owed 575 = 4 ∧
    refreshable (owed0 3) 3 575 = true ∧ sGet 0 (getStack (owed0 3) 3).owed 575 = 3 := by decide +kernel

theorem test_wit_stack_sensors : (∀ r, r < 2 → ∀ t, t < 3 → isReady (warm r t) = true ∧ stackPresent (warm r t) 0 = true ∧ (warm r t).power.stop < 4 ∧
    (getStack (warm r t) 0).refresh = r ∧ (getStack (warm r t) 0).thermal = t) ∧
    ((8500 : Int) < 8501 ∧ (8299 : Int) < 8300 ∧ (9500 : Int) ≤ max 9500 0 ∧ max (9999 : Int) 0 < 10000 ∧ max (9299 : Int) 0 < 9300 ∧
      (10000 : Int) ≤ max 10000 0 ∧ max (8999 : Int) 0 < 9000) := by decide +kernel

theorem test_wit_die_sensors : (∀ t, t < 3 → isReady (hot 1 t) = true ∧ diePresent (hot 1 t) 1 = true ∧ dieThermal (hot 1 t) 1 = t) ∧
    ((10500 : Int) < 11200 ∧ (10299 : Int) < 10300 ∧ (11999 : Int) < 12000 ∧ (9999 : Int) < 10000) := by decide +kernel

/-- The coolant fault in force, every unit cool; a channel with five bad bursts; a scrub that is due. -/
def cooled : State := { State.reset with power := { State.reset.power with coolant := true } }
def bursts (n c : Nat) : State := { State.reset with now := 10, prara := [(n, { Stack.init with errBursts := [(c, 0, 1), (c, 1, 1), (c, 2, 1), (c, 3, 1), (c, 4, 1)] })] }
def scrubbing : State := { State.reset with now := 64, prev := 63 }

theorem test_wit_coolant_and_channels : isReady cooled = true ∧ cooled.power.coolant = true ∧ State.reset.power.coolant = false ∧
    (∀ d, d < 2 → diePresent cooled d = true → sGet 0 cooled.power.dieTemp d < 10000) ∧
    (∀ n, n < 12 → stackPresent cooled n = true → max (getStack cooled n).dram (getStack cooled n).base < 9000) ∧
    (stackPresent (bursts 0 47) 0 = true ∧ bitAt (getStack (bursts 0 47) 0).mapOut 47 = false ∧ bitAt (getStack (bursts 0 47) 0).failing 47 = false ∧
      4 < recentBursts (bursts 0 47) 0 47) ∧
    (dueEvery scrubbing (objNat scrubbing 0x4800 3) = true ∧ scrubbing.order < 5 ∧ scrubbing.power.stop < 4 ∧ scrubbing.tripl = []) := by decide +kernel

/-- A triplicated word with one copy bad, and one with two. -/
theorem test_wit_votes : 2 ≤ (([true, false, true] : List Bool).filter (fun b => b)).length ∧
    (([true, false, false] : List Bool).filter (fun b => b)).length < 2 ∧
    (∀ e, e ∈ ({ scrubbing with tripl := [(3, [true, false, true])] } : State).tripl → 2 ≤ (e.2.filter (fun b => b)).length) := by decide +kernel

theorem test_wit_early_regulator : ({ State.reset with boot := .starting 3 } : State).boot = .starting 3 := rfl

/-! ### The host's windows, intake and commands -/

/-- The link trained for CXL, 2 GiB of GDDR and nothing else exposed. -/
def sHdm : State := obj 0x6800 0x10 4 (2 * 65536) (put 0x2003FFFFFC0 [1, 2, 3] (put 0x20000000000 [9] { upLink State.reset with link := { (upLink State.reset).link with level := 2 } }))

theorem test_wit_hdm : isReady sHdm = true ∧ 2 ≤ sHdm.link.level ∧ (2147483647 % 64 + 1 ≤ 64) ∧ hdmFind (hdmList sHdm) 2147483647 = some 0x2007FFFFFFF ∧
    hdmFind (hdmList sHdm) 2147483648 = none ∧
    hdmHeld sHdm 2147483647 1 = false ∧ hdmHeld sHdm 2147483648 1 = false := by decide +kernel

/-- Core 0 of partition 0. -/
def sOwned (mode : Nat) : State := obj 0x3000 1 8 1 (obj 0x3000 6 1 mode (upLink State.reset))

theorem test_wit_windows : (isReady (upLink State.reset) = true ∧ linkUp (upLink State.reset) = true ∧ (upLink State.reset).power.stop < 4 ∧
      diePresent (upLink State.reset) 1 = true ∧ stewardPresent (obj 0x3000 2 2 2 (obj 0x3000 0xD 4 0x00100000 State.reset)) 1 = true ∧
      ownerOfSteward (obj 0x3000 2 2 2 (obj 0x3000 0xD 4 0x00100000 State.reset)) 1 = some 0 ∧
      beadOwned (obj 0x3000 2 2 2 (obj 0x3000 0xD 4 0x00100000 State.reset)) 0 0 15 = true ∧
      beadOwned (obj 0x3000 2 2 2 (obj 0x3000 0xD 4 0x00100000 State.reset)) 0 0 16 = false) ∧
    (spadOff' { sOwned 0 with power := { State.reset.power with stop := 4 } } 0 = true ∧
      windowClosed { sOwned 0 with power := { State.reset.power with stop := 4 } } none (spadBase 0) = false) ∧
    (isReady (sOwned 0) = true ∧ linkUp (sOwned 0) = true ∧ corePresent (sOwned 0) 0 = true ∧ windowClosed (sOwned 0) none (spadBase 0) = false ∧
      spadOff' (sOwned 0) 0 = false ∧ 6291455 % 64 + 1 ≤ 64) ∧ SpadSound (sOwned 0) 0 6291455 1 ∧
    (windowClosed (sOwned 1) none (spadBase 0) = true ∧ windowClosed (sOwned 1) none (spadBase 1) = true) :=
  ⟨by decide +kernel, by decide +kernel, by decide +kernel, sound_clear (by decide +kernel) (by decide +kernel), by decide +kernel⟩

/-- A command packet: opcode, partition byte, sequence word, tag and body, its check at bytes 12 to 15. -/
def pkt (op p w tag : Nat) (body : List Byte) : List Byte :=
  let b := natLe 1 op ++ natLe 1 p ++ natLe 2 0 ++ natLe 4 w ++ natLe 4 tag
  let rest := (body ++ List.replicate 48 0).take 48
  b ++ natLe 4 (crc32c (b ++ [0, 0, 0, 0] ++ rest)) ++ rest

/-- Lane 15 of partition 3 waits for the last sequence number. -/
def sLane : State := part 3 { Part.init with lanes := [(15, { Lane.init with expected := 2 ^ 28 - 1 })] } (upLink State.reset)
def fenceLast : List Byte := pkt 0x20 3 (2 ^ 32 - 1) 77 []

theorem test_wit_slot_write : isReady sLane = true ∧ linkUp sLane = true ∧ sLane.power.stop = 0 ∧ fenceLast.length = 64 ∧
    (laneOf sLane 3 15).stopped = false ∧ (laneOf sLane 3 15).expected = 2 ^ 28 - 1 ∧
    (bytesAt fenceLast 4 4 / 2 ^ 28 = 15 ∧ bytesAt fenceLast 4 4 % 2 ^ 28 = 2 ^ 28 - 1 ∧ (2 ^ 28 - 1) % 1024 = 1023 ∧ checkOk fenceLast = true ∧
      (getPart sLane 3).queue.length < 4096) ∧
    (bytesAt (pkt 0x20 3 (15 * 2 ^ 28 + 1023) 0 []) 4 4 % 2 ^ 28 % 1024 = 1023 ∧ bytesAt (pkt 0x20 3 (15 * 2 ^ 28 + 1023) 0 []) 4 4 % 2 ^ 28 ≠ 2 ^ 28 - 1) ∧
    bytesAt (pkt 0x20 3 (14 * 2 ^ 28 + 1023) 0 []) 4 4 / 2 ^ 28 ≠ 15 := by decide +kernel

/-- The lane with a packet that fails its check, late; a queue that had no room. -/
def sTorn : State := part 3 { Part.init with lanes := [(15, { Lane.init with badSince := some 0, fresh := [(0, true)] })] } { State.reset with now := 100 }
def sRoom : State :=
  part 3 { Part.init with waits := [15], lanes := [(15, { Lane.init with expected := 2 ^ 28 - 1, fresh := [(1023, true)] })],
                          slots := sSetMany 0 [] (15 * 65536 + 1023 * 64) fenceLast } State.reset

theorem test_wit_lane_events :
    (isReady sTorn = true ∧ (laneOf sTorn 3 15).stopped = false ∧ (laneOf sTorn 3 15).badSince = some 0 ∧ objNat sTorn 0x6800 6 ≤ sTorn.now ∧
      (getPart sTorn 3).queue.length < 4096) ∧
    (isReady sRoom = true ∧ (getPart sRoom 3).waits = [15]) ∧ fld (BitVec.ofNat 64 (5 * 256 + 15) : W64).toNat 3 0 = 15 := by decide +kernel

theorem test_wit_lane_holds : LaneHolds sRoom 3 15 (2 ^ 28 - 1) fenceLast :=
  ⟨by decide +kernel, by decide +kernel, by decide +kernel, by decide +kernel, by decide +kernel, by decide +kernel, by decide +kernel,
   by decide +kernel⟩

/-- Partition 0, with a ring, and a packet at the head of its queue. -/
def serving (b : List Byte) (x : Part) : State :=
  obj 0x6810 1 8 hostA (part 0 { x with queue := [{ bytes := b, bad := false }] } (upLink State.reset))

theorem head_of {s : State} {p op : Nat} {b : List Byte} {rest : List Accepted}
    (h : admits s p = true ∧ (getPart s p).queue = { bytes := b, bad := false } :: rest ∧ bytesAt b 0 1 = op ∧ reservedSet b = false ∧
      (getPart s p).contained = none ∧ s.power.draining = false) : Head s p op b rest :=
  ⟨⟨h.1, h.2.1⟩, h.2.2.1, h.2.2.2.1, h.2.2.2.2.1, h.2.2.2.2.2⟩

/-- A part of a result that the model decides. -/
theorem pair_ok {α β ε : Type} [DecidableEq β] {r : α × Except ε β} {b : β} (h : (match r.2 with | .ok x => decide (x = b) | .error _ => false) = true) :
    r = (r.1, .ok b) := by
  obtain ⟨x, y⟩ := r
  cases y with
  | error e => simp at h
  | ok v => simp at h; rw [h]

/-- A model of 100 tokens, identity 7. -/
def model0 : Model :=
  { identity := 7, kind := 1, kvclass := 0, layers := 1, dmodel := 64, vocab := 100, kvheads := 1, kvdim := 64, header := [], named := [], weights := [] }

/-- A request block: a prompt of two tokens at `hostA + 128`, no adapter, flags 0, at most five tokens, due at 1,000. -/
def block0 : List Byte :=
  natLe 8 (hostA + 128) ++ natLe 4 2 ++ natLe 4 5 ++ natLe 8 1000 ++ natLe 4 0 ++ natLe 2 0xFFFF ++ natLe 1 0 ++ natLe 1 0 ++ List.replicate 96 0
def openB : List Byte := pkt 0x01 0 0 77 (natLe 4 5 ++ natLe 4 0 ++ natLe 8 hostA)
def sOpen : State := put hostA (block0 ++ natLe 4 3 ++ natLe 4 99) (serving openB { Part.init with model := some model0 })

theorem test_wit_open : Head sOpen 0 0x01 openB [] ∧ promptWaits sOpen openB = false ∧ (getPart sOpen 0).model = some model0 ∧
    ∃ s1 s2, openChecks (takeHead sOpen 0 openB) 0 openB false = (s1, .ok (block0, none)) ∧
      readTokens s1 0 (bytesAt block0 0 8) (bytesAt block0 8 4) model0.vocab = (s2, .ok [3, 99]) :=
  ⟨head_of (by decide +kernel), by decide +kernel, by decide +kernel, _, _, pair_ok (by decide +kernel), pair_ok (by decide +kernel)⟩

/-- The same request with a handle in use, and at an address that is not aligned. -/
theorem test_wit_open_refused : (match (openChecks (takeHead (part 0 { (getPart sOpen 0) with sessions := [sessionFrom [] 5 0 0 none] } sOpen) 0 openB) 0 openB false).2 with
      | .error e => e | .ok _ => 0) = 0x21 ∧
    (match (openChecks (takeHead sOpen 0 openB) 0 (pkt 0x07 0 0 77 (natLe 4 5 ++ natLe 4 0 ++ natLe 8 (hostA + 8))) true).2 with
      | .error e => e | .ok _ => 0) = 0x14 := by decide +kernel

def adoptB : List Byte := pkt 0x07 0 0 77 (natLe 4 5 ++ natLe 4 0 ++ natLe 8 hostA)
def sAdopt : State := put hostA block0 (serving adoptB { Part.init with model := some model0 })

theorem test_wit_adopt : Head sAdopt 0 0x07 adoptB [] ∧ waitsOn sAdopt 24 128 adoptB = false ∧ (getPart sAdopt 0).heldPages = [] ∧
    ∃ s1, openChecks (takeHead sAdopt 0 adoptB) 0 adoptB true = (s1, .ok (block0, none)) :=
  ⟨head_of (by decide +kernel), by decide +kernel, by decide +kernel, _, pair_ok (by decide +kernel)⟩

/-- Session 5 in a state, and commands about it. -/
def sess (z : SessState) : Session := { sessionFrom [] 5 0 0 none with state := z }
def aboutB (op : Nat) (l : List Byte) : List Byte := pkt op 0 0 77 (natLe 4 5 ++ l)
def about (b : List Byte) (l : List Session) (f : Option Flight) : State := serving b { Part.init with model := some model0, sessions := l, flight := f }

def appendB : List Byte := aboutB 0x02 (natLe 4 2 ++ natLe 8 (hostA + 128) ++ natLe 8 1000 ++ natLe 4 5)
def sAppend : State := put (hostA + 128) (natLe 4 3 ++ natLe 4 99) (about appendB [sess .idle] none)

theorem test_wit_append : Head sAppend 0 0x02 appendB [] ∧ waitsOn sAppend 24 (4 * bytesAt appendB 20 4) appendB = false ∧
    sessionOf (getPart sAppend 0) (bytesAt appendB 16 4) = some (sess .idle) ∧ (getPart sAppend 0).model = some model0 ∧
    ∃ s1, readTokens (takeHead sAppend 0 appendB) 0 (bytesAt appendB 24 8) (bytesAt appendB 20 4) model0.vocab = (s1, .ok [3, 99]) :=
  ⟨head_of (by decide +kernel), by decide +kernel, by decide +kernel, by decide +kernel, _, pair_ok (by decide +kernel)⟩

/-- A step committed and not complete. -/
def cstep0 (n : Nat) : CStep := { number := n, shares := [], intake := 0, nodeLimit := 1, depth := 0, branching := 0, sample := 0, decay := 0, inStack := false }

def sCancel (l : List CStep) : State :=
  serving (aboutB 0x03 []) { Part.init with model := some model0, sessions := [sess .decode], committed := l }

theorem test_wit_cancel : Head (sCancel [cstep0 4]) 0 0x03 (aboutB 0x03 []) [] ∧ Head (sCancel []) 0 0x03 (aboutB 0x03 []) [] ∧
    (sessionOf (getPart (sCancel [cstep0 4]) 0) (bytesAt (aboutB 0x03 []) 16 4) = some (sess .decode) ∧ cancellable (sess .decode) = true ∧
      decidingStep (getPart (sCancel [cstep0 4]) 0) = some 4 ∧ decidingStep (getPart (sCancel []) 0) = none) :=
  ⟨head_of (by decide +kernel), head_of (by decide +kernel), by decide +kernel⟩

theorem test_wit_session_rows :
    (Head (about (aboutB 0x04 []) [sess .parked] none) 0 0x04 (aboutB 0x04 []) [] ∧
      sessionOf (getPart (about (aboutB 0x04 []) [sess .parked] none) 0) (bytesAt (aboutB 0x04 []) 16 4) = some (sess .parked)) ∧
    (Head (about (aboutB 0x05 []) [sess .decode] none) 0 0x05 (aboutB 0x05 []) [] ∧
      sessionOf (getPart (about (aboutB 0x05 []) [sess .decode] none) 0) (bytesAt (aboutB 0x05 []) 16 4) = some (sess .decode)) ∧
    (Head (about (aboutB 0x06 []) [] none) 0 0x06 (aboutB 0x06 []) [] ∧
      sessionOf (getPart (about (aboutB 0x06 []) [] none) 0) (bytesAt (aboutB 0x06 []) 16 4) = none) ∧
    (Head (about (aboutB 0x08 (natLe 4 0 ++ natLe 8 9)) [sess .receiving] none) 0 0x08 (aboutB 0x08 (natLe 4 0 ++ natLe 8 9)) [] ∧
      sessionOf (getPart (about (aboutB 0x08 (natLe 4 0 ++ natLe 8 9)) [sess .receiving] none) 0)
        (bytesAt (aboutB 0x08 (natLe 4 0 ++ natLe 8 9)) 16 4) = some (sess .receiving)) :=
  ⟨⟨head_of (by decide +kernel), by decide +kernel⟩, ⟨head_of (by decide +kernel), by decide +kernel⟩,
   ⟨head_of (by decide +kernel), by decide +kernel⟩, ⟨head_of (by decide +kernel), by decide +kernel⟩⟩

/-- ADAPTER_LOAD of adapter 2, version 6, 128 bytes at `hostA`, beside version 5 READY; its image; its retirement. -/
def slot0 (st v : Nat) : Slot := { Slot.init with state := st, id := 2, version := v, tag := 77, image := hostA, bytes := 128, ord := 1 }
def loadB : List Byte := pkt 0x10 0 0 77 (natLe 2 2 ++ natLe 2 6 ++ natLe 4 128 ++ natLe 8 hostA)
def sAdapters (b : List Byte) (st : Nat) : State :=
  put hostA (natLe 4 0x31504441 ++ natLe 2 1 ++ natLe 2 16 ++ natLe 2 0 ++ natLe 1 1 ++ List.replicate 5 0 ++ natLe 4 7 ++ natLe 4 64)
    (serving b { Part.init with model := some model0, adapters := [(0, slot0 st 5)] })

theorem test_wit_adapter_load : Head (sAdapters loadB 2) 0 0x10 loadB [] ∧
    (bytesAt loadB 16 2 = 2 ∧ bytesAt loadB 18 2 = 6 ∧ (getPart (sAdapters loadB 2) 0).model.isSome = true ∧
      locAbsent (sAdapters loadB 2) (locate (bytesAt loadB 24 8)) = false ∧
      locAbsent (sAdapters loadB 2) (locate (bytesAt loadB 24 8 + (max 64 (bytesAt loadB 20 4) - 1))) = false ∧
      (sGet Slot.init (getPart (sAdapters loadB 2) 0).adapters 63).state = 0 ∧
      ∀ e, e ∈ slotsOf (getPart (sAdapters loadB 2) 0) 2 → e.2.version < 6 ∧ e.2.state ≠ 4) :=
  ⟨head_of (by decide +kernel), by decide +kernel⟩

theorem test_wit_adapter_image : (getPart (sAdapters [] 1) 0).flight = none ∧ sGet Slot.init (getPart (sAdapters [] 1) 0).adapters 0 = slot0 1 5 ∧
    accessHeld (sAdapters [] 1) hostA 128 = false ∧ imageBad ((cmdRead (sAdapters [] 1) 0 hostA 128).2.toOption.getD []) 128 = false ∧
    bytesAt ((cmdRead (sAdapters [] 1) 0 hostA 128).2.toOption.getD []) 16 4 = model0.identity ∧
    imageBad ((cmdRead (sAdapters [] 1) 0 hostA 128).2.toOption.getD []) 127 = true := by decide +kernel

def retireB : List Byte := pkt 0x11 0 0 77 (natLe 2 2 ++ natLe 2 5)

theorem test_wit_adapter_retire : Head (sAdapters retireB 2) 0 0x11 retireB [] ∧
    (slotsOf (getPart (sAdapters retireB 2) 0) (bytesAt retireB 16 2)).find? (fun e => e.2.version == bytesAt retireB 18 2) = some (0, slot0 2 5) :=
  ⟨head_of (by decide +kernel), by decide +kernel⟩

/-- A negative of the base model, page 9, its parent page 8, in a pool of eight pages. -/
def neg0 (h par g : Nat) : Negative := { model := 7, adapter := 0xFFFF, aver := 0, hash := h, parent := par, tokens := [], page := g, pinned := false, lastPrint := 0 }
def pinB (v : Nat) : List Byte := pkt 0x12 0 0 77 (natLe 2 0xFFFF ++ natLe 2 0 ++ natLe 1 v ++ natLe 3 0 ++ natLe 8 0x22)
def sPin (v : Nat) : State :=
  serving (pinB v) { Part.init with model := some model0, negatives := [neg0 0x11 0 8, neg0 0x22 0x11 9], pool := [(0, 8)] }

theorem test_wit_pins : Head (sPin 1) 0 0x12 (pinB 1) [] ∧ Head (sPin 0) 0 0x12 (pinB 0) [] ∧
    (bytesAt (pinB 1) 20 1 % 2 = 1 ∧ bytesAt (pinB 0) 20 1 % 2 = 0) ∧ pinTarget (getPart (sPin 1) 0) (pinB 1) = .ok (neg0 0x22 0x11 9) ∧
    pinTarget (getPart (sPin 0) 0) (pinB 0) = .ok (neg0 0x22 0x11 9) ∧
    (ancestry (getPart (sPin 1) 0) 2 (neg0 0x22 0x11 9)).map (fun m => m.page) = [9, 8] ∧
    ((getPart (sPin 1) 0).negatives.filter (fun m => m.pinned || [9, 8].contains m.page)).length ≤ negCapacity (sPin 1) 0 :=
  ⟨head_of (by decide +kernel), head_of (by decide +kernel), by decide +kernel, rfl, rfl, by decide +kernel, by decide +kernel⟩

/-- TRAIN of adapter 2 from version 5, three steps of four tokens on one sequence. -/
def trainQ : List Byte :=
  natLe 8 (hostA + 128) ++ natLe 4 1 ++ natLe 4 3 ++ natLe 2 2 ++ natLe 2 5 ++ natLe 2 0 ++ List.replicate 22 0 ++ natLe 4 4 ++ List.replicate 80 0
def trainB : List Byte := pkt 0x18 0 0 77 (natLe 4 5 ++ natLe 4 0 ++ natLe 8 hostA)
def sTrain : State := put hostA trainQ (serving trainB { Part.init with model := some model0, adapters := [(0, slot0 2 5)] })

theorem test_wit_train : Head sTrain 0 0x18 trainB [] ∧ (waitsOn sTrain 24 128 trainB = false ∧ handleOk (bytesAt trainB 16 4) = true ∧
      bytesAt trainB 24 8 % 64 = 0 ∧ sessionOf (getPart sTrain 0) (bytesAt trainB 16 4) = none ∧ (getPart sTrain 0).sessions.length < 4096 ∧
      (getPart sTrain 0).model.isSome = true) ∧ (∃ s1, cmdRead (takeHead sTrain 0 trainB) 0 (bytesAt trainB 24 8) 128 = (s1, .ok trainQ)) ∧
    (trainBad trainQ = false ∧ locAbsent sTrain (locate (bytesAt trainQ 0 8)) = false ∧ bytesAt trainQ 16 2 = 2 ∧ bytesAt trainQ 18 2 = 5 ∧ (∃ e, e ∈ slotsOf (getPart sTrain 0) 2 ∧ e.2.version = 5) ∧
      (sGet Slot.init (getPart sTrain 0).adapters 1).state = 0 ∧ (∀ e, e ∈ slotsOf (getPart sTrain 0) 2 → e.2.state ≠ 1 ∧ e.2.state ≠ 4) ∧
      maxVersion (getPart sTrain 0) 2 + 1 = 6) :=
  ⟨head_of (by decide +kernel), by decide +kernel, ⟨_, pair_ok (by decide +kernel)⟩, by decide +kernel⟩

def fenceB : List Byte := pkt 0x20 0 0 77 []
def oddB : List Byte := pkt 0x21 0 0 77 []

theorem test_wit_fence : Head (serving fenceB Part.init) 0 0x20 fenceB [] ∧ Queued (serving oddB Part.init) 0 oddB false [] ∧
    usedBytes (bytesAt oddB 0 1) = none ∧ (getPart (serving oddB Part.init) 0).contained = none :=
  ⟨head_of (by decide +kernel), ⟨by decide +kernel, by decide +kernel⟩, by decide +kernel, by decide +kernel⟩

/-- A contained partition, a packet with a reserved byte set, and a device that drains for stop 6. -/
def closeB (r : Nat) : List Byte := pkt 0x04 0 0 77 (natLe 4 5 ++ natLe 1 r)
def sContained : State := serving (closeB 0) { Part.init with contained := some 0x30001, sessions := [sess .idle] }
def sDraining : State := { about (closeB 0) [sess .idle] none with power := { State.reset.power with draining := true } }

theorem test_wit_refused : ((Instr.close, hasOp 0x04, fun (_ : State) (_ : List Byte) => false) ∈ commandRows) ∧
    (Queued sContained 0 (closeB 0) false [] ∧ (getPart sContained 0).contained = some 0x30001 ∧ hasOp 0x04 (closeB 0) = true) ∧
    (Queued (about (closeB 1) [sess .idle] none) 0 (closeB 1) false [] ∧ hasOp 0x04 (closeB 1) = true ∧ reservedSet (closeB 1) = true ∧
      (getPart (about (closeB 1) [sess .idle] none) 0).contained = none) ∧
    (Queued sDraining 0 (closeB 0) false [] ∧ reservedSet (closeB 0) = false ∧ sDraining.power.draining = true ∧
      (getPart sDraining 0).contained = none) :=
  ⟨by simp [commandRows], ⟨⟨by decide +kernel, by decide +kernel⟩, by decide +kernel, by decide +kernel⟩,
   ⟨⟨by decide +kernel, by decide +kernel⟩, by decide +kernel, by decide +kernel, by decide +kernel⟩,
   ⟨⟨by decide +kernel, by decide +kernel⟩, by decide +kernel, by decide +kernel, by decide +kernel⟩⟩

/-! ### Steps, rings, cadence, power, stops, commits -/

/-- Partition 0, with a ring of 1 MiB and its control block, and the link up. -/
def ringed (x : Part) : State := obj 0x6810 3 8 (hostA + 0x200000) (obj 0x6810 1 8 hostA (part 0 x (upLink State.reset)))

/-- A training job of three steps of four tokens. -/
def job0 : Job :=
  { lr := 0, beta1 := 0, beta2 := 0, decay := 0, alpha := 0, modules := 1, next := hostA + 0x400000, left := 0, pos := 0, seq := 0, x := [], m := [],
    v := [], saved := [], counted := 0, ce := [], slot := 1, adapter := 2, version := 6, base := 5, rank := 16, steps := 3, done := 0, batch := 4, tokensDone := 0,
    report := 0, data := hostA + 0x400000, seqs := 1, key := 0 }
def sTraining : State := ringed { Part.init with model := some model0, sessions := [{ sess .training with job := some job0 }] }
/-- The same with the dataset out of reach, and with no session. -/
def sFar : State := { sTraining with link := State.reset.link }
def sEmpty : State := ringed { Part.init with model := some model0 }
/-- The steps committed at a boundary of partition 0. -/
def boundary0 (s : State) : List CStep := (getPart (commitAll (commitsUpTo s 0) 0) 0).committed

theorem test_wit_step_start : (mayStep sTraining 0 = true ∧ mayCommit (commitsUpTo sTraining 0) 0 = true ∧
      (boundary0 sTraining).length = objNat sTraining 0x5000 7 ∧ 0 < objNat sTraining 0x5000 7 ∧
      (boundary0 sTraining)[0]?.map (dataHeld (commitAll (commitsUpTo sTraining 0) 0) 0) = some false) ∧
    (mayStep sFar 0 = true ∧ mayCommit (commitsUpTo sFar 0) 0 = true ∧
      (boundary0 sFar)[0]?.map (dataHeld (commitAll (commitsUpTo sFar 0) 0) 0) = some true) ∧
    (mayStep sEmpty 0 = true ∧ mayCommit (commitsUpTo sEmpty 0) 0 = true ∧ boundary0 sEmpty = []) ∧
    ((getPart (commitOne sTraining 0) 0).committed.map (fun c => (c.shares.map (fun x => x.tokens)).sum)) = [4] := by decide +kernel

/-- A step in flight with no session left, an answer owed, a containment, and a full ring. -/
def entry0 : StatusEntry := { ord := 1, status := 0, opcode := 0x20, handle := 0, tag := 7, detail := 0 }
def flight0 : Flight :=
  { step := cstep0 4, start := 0, trees := [], rows := [], segs := [], marks := [], lists := [], entries := [], splits := [], plan := planOf false }
def nothing0 : StepResult := { logits := [], faults := [], queries := [], kv := [], loss := [], grads := [] }
def sFlight (r : Ring) : State := ringed { Part.init with flight := some flight0, owed := [entry0], ring := r }
def fullRing : Ring := { Ring.init with producer := 0x100000 }

theorem test_wit_step_complete : StepEnds (sFlight Ring.init) 0 flight0 ∧ StepEnds (sFlight fullRing) 0 flight0 ∧
    recordRoom (completeWork (sFlight Ring.init) 0 flight0 nothing0).s 0
      (recordsSize (recordEntries 0 (completeWork (sFlight Ring.init) 0 flight0 nothing0))) = true ∧
    recordRoom (completeWork (sFlight fullRing) 0 flight0 nothing0).s 0
      (recordsSize (recordEntries 0 (completeWork (sFlight fullRing) 0 flight0 nothing0))) = false :=
  ⟨⟨by decide +kernel, by decide +kernel, by decide +kernel, by decide +kernel, by decide +kernel⟩,
   ⟨by decide +kernel, by decide +kernel, by decide +kernel, by decide +kernel, by decide +kernel⟩, by decide +kernel, by decide +kernel⟩

def sOwed : State := ringed { Part.init with owed := [entry0] }

theorem test_wit_step_events :
    (isReady sOwed = true ∧ hasRing sOwed 0 = true ∧ (getPart sOwed 0).flight = none ∧ (getPart sOwed 0).owed ≠ [] ∧
      recordRoom sOwed 0 (recordsSize ((getPart sOwed 0).owed.map statusBytes)) = true) ∧
    ((getPart (ringed { Part.init with contained := some 0x30001 }) 0).contained = some 0x30001 ∧
      workRuns (ringed { Part.init with contained := some 0x30001 }) 0 = false ∧
      causeClear (ringed { Part.init with contained := some 0x30001 }) 0 (fld 0x30001 23 16) = true) ∧
    (sessionOf (getPart (about [] [sess .admitted] none) 0) 5 = some (sess .admitted) ∧
      (returnPages (about [] [sess .admitted] none) 0 5 []).2 = true) ∧
    (sessionOf (getPart { about [] [sess .receiving] none with now := 10000000 } 0) 5 = some (sess .receiving) ∧
      objNat { about [] [sess .receiving] none with now := 10000000 } 0x5000 8 ≤ 10000000) ∧ isReady State.reset = true := by decide +kernel

/-- The ring over CXL, and over PCIe at a poll; a wanted message due; a link lost. -/
def leveled (n : Nat) (s : State) : State := { s with link := { s.link with level := n } }
def polled : State := { leveled 1 (ringed Part.init) with now := 64, prev := 63 }
def wanted : State := ringed { Part.init with ring := { Ring.init with lastseq := some 4, want := 4, lastWant := 0 } }
def lost : State := { State.reset with now := 10000000, counters := [(objKey 0x6800 0x16, 1)] }

theorem test_wit_ring_and_link :
    (isReady (leveled 2 (ringed Part.init)) = true ∧ hasRing (leveled 2 (ringed Part.init)) 0 = true ∧ 2 ≤ (leveled 2 (ringed Part.init)).link.level) ∧
    (isReady polled = true ∧ hasRing polled 0 = true ∧ polled.link.level = 1 ∧ dueEvery polled 64 = true) ∧
    (hasRing wanted 0 = true ∧ linkUp wanted = true ∧ wantFires wanted 0 = true) ∧
    (mayTrain State.reset = true ∧ linkOk { level := 3, width := 16, speed := 64 } = true ∧ linkUp (upLink State.reset) = true ∧
      mayTrain (upLink State.reset) = true) ∧
    (isReady lost = true ∧ linkUp lost = false ∧ counter lost 0x6800 0x16 ≠ 0 ∧ lost.link.since + objNat lost 0x6800 7 ≤ lost.now) := by decide +kernel

/-- A cadence in a lock state from a source, which hears clock 1; groups of ten pulses that last ten ticks. -/
def cad (lock source good bad : Nat) : State :=
  obj 0x2400 5 4 10 (obj 0x2400 6 4 10 { State.reset with
    now := 7,
    cad := { State.reset.cad with lock := lock, source := source, good := good, bad := bad, ptpGood := good, master := some (1, [1]),
                                  groups := 63, lo := 10000000, hi := 10000000, edges := 9, groupPs := 9000000, groupFrom := 5 } })

theorem test_wit_cadence :
    (∀ l, l < 4 → ptpHeard (cad l 1 15 3) = true ∧ sourceSelected (cad l 1 15 3) = 0 ∧ (cad l 1 15 3).cad.master = some (1, [1]) ∧
      (cad l 1 15 3).cad.lock = l ∧ (cad l 1 15 3).cad.source = 1 ∧ 15 ≤ (cad l 1 15 3).cad.good ∧ 3 ≤ (cad l 1 15 3).cad.bad) ∧
    ((cad 1 1 14 0).cad.good < 15 ∧ (cad 2 1 0 2).cad.bad < 3 ∧ 15 ≤ (cad 2 2 15 0).cad.ptpGood) ∧
    (∀ l, l < 4 → (cad l 2 0 0).cad.lock = l ∧ (cad l 2 0 0).cad.source = 2 ∧ pulsesN (cad l 2 0 0) ≤ (cad l 2 0 0).cad.edges + 1 ∧
      groupLength (cad l 2 0 0) 1000000 = 10000000 ∧ rateOk (cad l 2 0 0) 10000000 = true ∧ rateOk (cad l 2 0 0) (9000000 + 1006000) = false ∧
      63 ≤ (cad l 2 0 0).cad.groups ∧ (10000000 - 10000000) * 1000000 ≤ min (cad l 2 0 0).cad.lo 10000000) ∧
    ({ cad 0 2 0 0 with cad := { (cad 0 2 0 0).cad with edges := 8 } } : State).cad.edges + 1 < pulsesN (cad 0 2 0 0) ∧
    (onPulses (cad 1 2 0 0) = false ∧ onPulses (cad 2 2 0 0) = true ∧ (cad 2 2 0 0).now + 1 < groupEnd (cad 2 2 0 0) ∧
      onPulses { cad 2 2 0 0 with now := 14 } = true ∧ groupEnd { cad 2 2 0 0 with now := 14 } ≤ 14 + 1) ∧
    (lossHolds (cad 2 1 0 3) (.offset 10001) = true ∧ lossHolds (cad 2 2 0 0) (.missingEdges 4) = true ∧
      (1000 : Int).natAbs ≤ 1000 ∧ 1000 < (1001 : Int).natAbs ∧ (10000 : Int).natAbs ≤ 10000 ∧ 10000 < (10001 : Int).natAbs) := by decide +kernel

theorem test_wit_pulse_and_sync : PulseHeard (cad 2 2 0 0) 1000000 ∧ SyncHeard (cad 2 1 15 3) 1 :=
  ⟨by unfold PulseHeard; decide +kernel, by decide +kernel, by decide +kernel, [1], rfl⟩

def tick64 : State := { State.reset with now := 64, prev := 63 }
def ms1 : State := { State.reset with now := 100000, prev := 0 }
/-- Partition 0 owns cores 0 and 1, the second gated. -/
def leased : State := obj 0x3000 1 8 3 (core 1 { Core.init with gated := true } tick64)

theorem test_wit_leases : (runningCores leased 0 = [0] ∧ ∀ q, q < 16 → 0 ∈ coresOf leased q → q = 0) ∧ isReady leased = true ∧
    dueEvery leased 64 = true ∧ leased.order < 1 ∧ isReady tick64 = true ∧ dueEvery tick64 64 = true ∧ tick64.order < 1 ∧
    (objNat State.reset 0x3400 (regKey .gddr).2 = 0xFFFFFFFF) ∧
    (objNat (obj 0x3400 (regKey .gddr).2 4 5 State.reset) 0x3400 (regKey .gddr).2 = 5 ∧
      bucket (obj 0x3400 (regKey .gddr).2 4 5 State.reset) 0 .gddr ≤ 0 ∧
      0 < bucket (obj 0x3400 (regKey .gddr).2 4 5 (part 0 { Part.init with buckets := [((regKey .gddr).1, 1)] } State.reset)) 0 .gddr) ∧
    (dueEvery ms1 (objNat ms1 0x7000 1) = true ∧ ms1.order < 4 ∧ ms1.power.stop < 4) := by decide +kernel

/-- A part with every stop allowed and every tolerance given to partition 0. -/
def resting (n : Nat) : State := obj 0x2000 4 1 5 (obj 0x2010 1 4 0xFFFFFFFF { State.reset with now := 10000000, parts := [(0, { Part.init with stop := n })] })
def stopped (n : Nat) : State := { State.reset with power := { State.reset.power with stop := n } }
/-- Partition 0 owns core 0, gated or not, and its stop is `n`. -/
def cored (g : Bool) (n : Nat) : State := obj 0x3000 1 8 1 (core 0 { Core.init with gated := g } (resting n))
/-- Every partition in stop 3, and the tolerances of each. -/
def asleep : State := (List.range 16).foldl (fun s p => obj 0x2010 (p + 1) 4 0xFFFFFFFF (updPart s p (fun x => { x with stop := 3 }))) (resting 3)
def drained (b : Boot) : State := { State.reset with boot := b, power := { State.reset.power with draining := true } }

theorem test_wit_stops :
    (∀ n, n < 3 → isReady (resting n) = true ∧ n + 1 ≤ objNat (resting n) 0x2000 4 ∧ (getPart (resting n) 0).stop < n + 1 ∧
      partStop (resting n) 0 < n + 1 ∧
      (resting n).power.stop = 0 ∧ exitLatency (n + 1) ≤ tolerance (resting n) 0 ∧ delayed (resting n) (restedFrom (resting n) 0 (n + 1)) (n + 1) = true ∧
      restsIn1 (resting n) 0 = true ∧ restsIn3 (resting n) 0 = true) ∧
    (exitLatency 5 ≤ deviceTolerance asleep ∧ delayed asleep asleep.power.idleSince 5 = true ∧ deviceRests asleep = true ∧
      asleep.power.stop = 0 ∧ ∀ p, p < 16 → (getPart asleep p).stop = 3) ∧
    (corePresent (cored false 0) 0 = true ∧ ownerOfCore (cored false 0) 0 = some 0 ∧ (getCore (cored false 0) 0).gated = false ∧
      exitLatency 1 ≤ tolerance (cored false 0) 0 ∧ delayed (cored false 0) (getCore (cored false 0) 0).restSince 1 = true ∧
      coreIdle (getCore (cored false 0) 0) = true) ∧
    (isReady (cored true 0) = true ∧ (getCore (cored true 0) 0).gated = true ∧ ownerOfCore (cored true 0) 0 = some 0 ∧
      (getPart (cored true 0) 0).stop = 0 ∧ partStop (cored true 0) 0 = 1 ∧ partStop (cored true 3) 0 = 3 ∧ (cored true 3).power.stop = 0) ∧
    (isReady (stopped 4) = true ∧ (stopped 4).power.stop ≠ 0 ∧ wakes 4 (.ebund .mctp) = true ∧ (getPart (resting 3) 0).stop ≠ 0) ∧
    (isReady (drained .ready) = true ∧ isFatal (drained (.fatal none)) = true ∧ (drained .ready).power.powerDownReady = false) := by decide +kernel

/-- A commit at its tick with a value for partition 0 staged; one whose GDDR ranges pass the GDDR fitted; commits in the states that follow. -/
def committing (k : Nat) (b : List Byte) : State :=
  { State.reset with now := 100, prev := 99, staged := [(k, b)], commit := { Commit.init with state := 1, tick := 64 } }
def running (c : Commit) (f : Part → Part) : State := { State.reset with now := 10000000, commit := c, parts := [(0, f Part.init)] }
def holding : Commit := { Commit.init with state := 2, ticked := true, tick := 64, held := [0] }
def sHolding : State := running holding (fun x => { x with held := true, holdReached := true })
def sLate : State := running holding (fun x => { x with held := true })
def phase (k : Nat) : State := running { holding with state := 3, phase := k } (fun x => { x with held := true, holdReached := true })

theorem test_wit_commit_tick : AtCommitTick (committing (objKey 0x6800 0x10) (natLe 4 (129 * 65536))) ∧
    ((committing (objKey 0x6800 0x10) (natLe 4 (129 * 65536))).staged.find?
      (refusedAtTick (commitTaken (committing (objKey 0x6800 0x10) (natLe 4 (129 * 65536)))))) = some (objKey 0x6800 0x10, natLe 4 (129 * 65536)) ∧
    AtCommitTick (committing (objKey 0x3000 6) [1]) ∧
    (∀ e, e ∈ (committing (objKey 0x3000 6) [1]).staged → refusedAtTick (commitTaken (committing (objKey 0x3000 6) [1])) e = false) ∧
    0 ∈ holdsFor (commitTaken (committing (objKey 0x3000 6) [1])) (objKey 0x3000 6) [1] :=
  ⟨⟨by decide +kernel, by decide +kernel, by decide +kernel, by decide +kernel, by decide +kernel⟩, by decide +kernel,
   ⟨by decide +kernel, by decide +kernel, by decide +kernel, by decide +kernel, by decide +kernel⟩, by decide +kernel, by decide +kernel⟩

theorem test_wit_commit_phases :
    (isReady (phase 0) = true ∧ (getPart (phase 0) 0).held = true ∧ (getPart (phase 0) 0).flight = none ∧ (getPart (phase 0) 0).committed = []) ∧
    (sHolding.commit.state = 2 ∧ sHolding.commit.ticked = true ∧ ∀ p, p ∈ sHolding.commit.held → (getPart sHolding p).holdReached = true) ∧
    (∀ k, k < 8 → AtPhase (phase k) k) ∧
    ((phase 1).commit.held.foldl (leavePlaces (withValues (phase 1) (phase 1).commit.values)) (phase 1, true)).2 = true ∧
    ((phase 1).commit.held.foldl (leavePlaces (withValues (phase 1) (phase 1).commit.values)) (phase 1, false)).2 = false ∧
    (getStack { phase 3 with prara := [(11, { Stack.init with stripOp := some { isSeal := true, clear := true, regions := 1, done := 0 } })] } 11).stripOp.isSome
      = true ∧
    (∀ n, n < 12 → (getStack (phase 3) n).stripOp = none) ∧ (∀ v, v ∈ (phase 3).commit.values → keyIndex v.1 = 0x4040 → isPhased (phase 3) v.1 v.2 = false) ∧
    ((phaseValues (phase 5) [7, 8]).foldl (loadValue (withValues (phase 5) (phase 5).commit.values) []) (phase 5, none) = (phase 5, none)) ∧
    ((getPart sLate 0).holdReached = false ∧ sLate.commit.tick + objNat sLate 0x3010 1 ≤ sLate.now) ∧
    (running { holding with state := 4 } id).commit.state = 4 :=
  ⟨by decide +kernel, ⟨rfl, rfl, by decide +kernel⟩, fun k _ => ⟨by revert k; decide +kernel, rfl, rfl⟩, by decide +kernel, by decide +kernel,
   by decide +kernel, by decide +kernel, by decide +kernel, rfl, by decide +kernel, rfl⟩

/-- A manifest outside any memory: the load fails and names its value. -/
def phaseBad : State :=
  running { holding with state := 3, phase := 5, values := [(objKey 0x3000 7, natLe 8 64)] } (fun x => { x with held := true, holdReached := true })

theorem test_wit_load_fails : AtPhase phaseBad 5 ∧
    ((phaseValues phaseBad [7, 8]).foldl (loadValue (withValues phaseBad phaseBad.commit.values) []) (phaseBad, none)).2 = some (objKey 0x3000 7) :=
  ⟨⟨by decide +kernel, rfl, rfl⟩, by decide +kernel⟩

/-- A seal and an unseal that wait in a commit for stack 11, of regions that nobody owns. -/
def stripping (op : Nat) : State :=
  { State.reset with now := 100, commit := { Commit.init with state := 1, ticked := true, tick := 64, values := [(objKey 0x4040 12, natLe 4 (op * 2 ^ 30 + 2 ^ 29 + 0x8001))] } }
/-- A strip operation under way on region 15 of stack 11. -/
def stripped (o : StripOp) : State := { State.reset with prara := [(11, { Stack.init with stripOp := some o, trans := 0x8000, prot := (if o.isSeal then 0 else 0xFFFF) })] }
/-- The same seal when partition 0 owns region 15, in phase 3. -/
def stripOwned : State :=
  obj 0x3000 3 24 (0x8000 * 2 ^ 176) { stripping 1 with commit := { (stripping 1).commit with state := 3, phase := 3, tick := 100 } }
def op0 (sl cl : Bool) : StripOp := { isSeal := sl, clear := cl, regions := 0x8000, done := 0 }

theorem test_wit_strip : (∀ op, op = 1 ∨ op = 2 → StripDue (stripping op) 11 op (op * 2 ^ 30 + 2 ^ 29 + 0x8001) 0x8001) ∧
    StripDue stripOwned 11 1 (1 * 2 ^ 30 + 2 ^ 29 + 0x8001) 0x8000 ∧
    (isReady (stripped (op0 true false)) = true ∧ stackPresent (stripped (op0 true false)) 11 = true ∧
      (getStack (stripped (op0 true false)) 11).stripOp = some (op0 true false)) ∧
    ((getStack (stripped (op0 false true)) 11).stripOp = some (op0 false true)) ∧
    ((getStack (stripped (op0 false false)) 11).stripOp = some (op0 false false) ∧ bitAt 0x8000 15 = true ∧
      (regionRange (stripped (op0 false false)) 11 15).1 < (regionRange (stripped (op0 false false)) 11 15).2) := by
  refine ⟨?_, ⟨by decide +kernel, by decide +kernel, by decide +kernel, by decide +kernel,
    ⟨natLe 4 (1 * 2 ^ 30 + 2 ^ 29 + 0x8001), by decide +kernel, by decide +kernel⟩, by decide +kernel, by decide +kernel, by decide +kernel⟩,
    by decide +kernel⟩
  rintro op (rfl | rfl)
  · exact ⟨by decide +kernel, by decide +kernel, by decide +kernel, by decide +kernel,
      ⟨natLe 4 (1 * 2 ^ 30 + 2 ^ 29 + 0x8001), by decide +kernel, by decide +kernel⟩, by decide +kernel, by decide +kernel, by decide +kernel⟩
  · exact ⟨by decide +kernel, by decide +kernel, by decide +kernel, by decide +kernel,
      ⟨natLe 4 (2 * 2 ^ 30 + 2 ^ 29 + 0x8001), by decide +kernel, by decide +kernel⟩, by decide +kernel, by decide +kernel, by decide +kernel⟩

/-- No error is latent at reset, so a strip operation that reads what it rewrites goes through; one is latent where a burst is bad. -/
theorem test_wit_bad_burst : NoBadBurst State.reset ∧ isReady (phase 3) = true ∧
    ∃ e, e ∈ ({ State.reset with errs := [(0, ErrKind.uncorrectable 0)] } : State).errs :=
  ⟨fun _ _ => List.not_mem_nil, by decide +kernel, (0, ErrKind.uncorrectable 0), by simp⟩

/-! ### Ebund, firmware, resets -/

/-- An Ebund request. -/
def eb (op index sub flags handle offset : Nat) (body : List Byte) : List Byte :=
  natLe 1 1 ++ natLe 1 op ++ natLe 2 9 ++ natLe 2 index ++ natLe 1 sub ++ natLe 1 flags ++ natLe 2 handle ++ natLe 2 body.length ++ natLe 4 offset ++ body

/-- The block at reset with the host link up. -/
def sUp : State := upLink State.reset

/-- The request that a message spells, and the state in which it is handled. -/
def rq (b : List Byte) : Req := parseReq .doe (messageOf .doe b)
def at2 (s : State) (b : List Byte) : State := dropIdle (wakeDevice (receive s .doe b).1)

theorem heard_of {s : State} {b : List Byte} (h : ebundUp s .doe = true ∧ (receive s .doe b).2 = true ∧
    ((at2 s b).principals.find? (fun e => e.1 == principalOf .doe && e.2.1 == messageOf .doe b)).isNone = true) :
    Heard s .doe b (rq b) (at2 s b) :=
  ⟨h.1, rfl, ⟨(receive s .doe b).1, Prod.ext rfl h.2.1, rfl⟩, Option.isNone_iff_eq_none.mp h.2.2⟩

theorem writes_of {s : State} {index sub : Nat} {v b : List Byte}
    (h : (formCheck (rq b) = 0 ∧ objectCheck s (rq b) = 0 ∧ accessCheck (principalOf .doe) (rq b) true = 0 ∧ lengthCheck (rq b) (rq b).length = 0) ∧
      (rq b).op = 2 ∧ ((rq b).index = index ∧ (rq b).sub = sub) ∧ (rq b).body = v ∧ valueRange s index sub v = 0 ∧
      stateCheck s index sub (cleanValue index sub v) = 0) : Writes s .doe (rq b) index sub v :=
  ⟨⟨h.1.1, h.1.2.1, h.1.2.2.1, h.1.2.2.2⟩, h.2.1, h.2.2.1, h.2.2.2.1, h.2.2.2.2.1, h.2.2.2.2.2⟩

/-- Reads and a write of the device's power cap, and its descriptor. -/
def rdCap (f : Nat) : List Byte := eb 1 0x2000 1 f 0 0 []
def wrCap : List Byte := eb 2 0x2000 1 0 0 0 (natLe 2 2200)
/-- With 2,200 W staged for it. -/
def sStaged : State := { sUp with staged := [(objKey 0x2000 1, natLe 2 2200)] }

theorem test_wit_read : Heard sUp .doe (rdCap 0) (rq (rdCap 0)) (at2 sUp (rdCap 0)) ∧ (rq (rdCap 0)).op = 1 ∧
    Reads (at2 sUp (rdCap 0)) .doe (rq (rdCap 0)) ∧ (readValue (at2 sUp (rdCap 0)) (rq (rdCap 0))).1.length ≤ 1008 :=
  ⟨heard_of (by decide +kernel), by decide +kernel, ⟨by decide +kernel, by decide +kernel, by decide +kernel, by decide +kernel⟩,
   by decide +kernel⟩

/-- The cap's value lies in poisoned memory. -/
def sObjPoison : State := { sUp with objPoison := [objKey 0x2000 1] }

theorem test_wit_read_poisoned : Heard sObjPoison .doe (rdCap 0) (rq (rdCap 0)) (at2 sObjPoison (rdCap 0)) ∧ formCheck (rq (rdCap 0)) = 0 ∧
    objectCheck (at2 sObjPoison (rdCap 0)) (rq (rdCap 0)) = 0 ∧ accessCheck (principalOf .doe) (rq (rdCap 0)) false = 0 ∧
    (readValue (at2 sObjPoison (rdCap 0)) (rq (rdCap 0))).1.length ≤ 1008 ∧
    (readValue (at2 sObjPoison (rdCap 0)) (rq (rdCap 0))).2 = false ∧
    (at2 sObjPoison (rdCap 0)).objPoison.contains (objKey (rq (rdCap 0)).index (rq (rdCap 0)).sub) = true :=
  ⟨heard_of (by decide +kernel), by decide +kernel, by decide +kernel, by decide +kernel, by decide +kernel, by decide +kernel, by decide +kernel⟩

theorem test_wit_read_staged : Heard sStaged .doe (rdCap 1) (rq (rdCap 1)) (at2 sStaged (rdCap 1)) ∧ (rq (rdCap 1)).op = 1 ∧
    Reads (at2 sStaged (rdCap 1)) .doe (rq (rdCap 1)) ∧ bitAt (rq (rdCap 1)).flags 0 = true ∧
    (at2 sStaged (rdCap 1)).staged.find? (fun e => e.1 == objKey 0x2000 1) = some (objKey 0x2000 1, natLe 2 2200) ∧
    Heard sUp .doe (rdCap 1) (rq (rdCap 1)) (at2 sUp (rdCap 1)) ∧ Reads (at2 sUp (rdCap 1)) .doe (rq (rdCap 1)) ∧
    (at2 sUp (rdCap 1)).staged.find? (fun e => e.1 == objKey 0x2000 1) = none :=
  ⟨heard_of (by decide +kernel), by decide +kernel, ⟨by decide +kernel, by decide +kernel, by decide +kernel, by decide +kernel⟩, by decide +kernel,
   by decide +kernel, heard_of (by decide +kernel), ⟨by decide +kernel, by decide +kernel, by decide +kernel, by decide +kernel⟩, by decide +kernel⟩

theorem test_wit_write : Heard sUp .doe wrCap (rq wrCap) (at2 sUp wrCap) ∧ Writes (at2 sUp wrCap) .doe (rq wrCap) 0x2000 1 (natLe 2 2200) ∧
    accessOf 0x2000 1 = 3 :=
  ⟨heard_of (by decide +kernel), writes_of (by decide +kernel), by decide +kernel⟩

/-- A descriptor asked for, an unknown op, an index that does not exist, a write of a read-only object; a message repeated. -/
def dsCap : List Byte := eb 8 0x2000 1 0 0 0 []
def op9 : List Byte := eb 9 0x2000 1 0 0 0 []
def rdNone : List Byte := eb 1 0x0001 1 0 0 0 []
def wrName : List Byte := eb 2 0x1000 1 0 0 0 [1]
def repeated : State := { sUp with principals := [(principalOf .doe, rdCap 0, [1, 2])] }

theorem test_wit_ebund_others :
    (Heard sUp .doe dsCap (rq dsCap) (at2 sUp dsCap) ∧ (rq dsCap).op = 8 ∧ formCheck (rq dsCap) = 0 ∧
      objectCheck (at2 sUp dsCap) (rq dsCap) = 0) ∧
    (Heard sUp .doe op9 (rq op9) (at2 sUp op9) ∧ 8 < (rq op9).op ∧ formCheck (rq op9) = 0x05040001) ∧
    (Heard sUp .doe rdNone (rq rdNone) (at2 sUp rdNone) ∧ formCheck (rq rdNone) = 0 ∧
      objectCheck (at2 sUp rdNone) (rq rdNone) = 0x06020000) ∧
    (Heard sUp .doe wrName (rq wrName) (at2 sUp wrName) ∧ formCheck (rq wrName) = 0 ∧
      objectCheck (at2 sUp wrName) (rq wrName) = 0 ∧ accessCheck (principalOf .doe) (rq wrName) true ≠ 0) ∧
    (ebundUp repeated .doe = true ∧ (receive repeated .doe (rdCap 0)).2 = true ∧
      ((wakeDevice (receive repeated .doe (rdCap 0)).1).principals.find? (fun e => e.1 == principalOf .doe && e.2.1 == rdCap 0)).isSome = true) :=
  ⟨⟨heard_of (by decide +kernel), by decide +kernel, by decide +kernel, by decide +kernel⟩,
   ⟨heard_of (by decide +kernel), by decide +kernel, by decide +kernel⟩,
   ⟨heard_of (by decide +kernel), by decide +kernel, by decide +kernel⟩,
   ⟨heard_of (by decide +kernel), by decide +kernel, by decide +kernel, by decide +kernel⟩, by decide +kernel⟩

/-- Transfers: one to read and one being written, of two bytes. -/
def xfer (w : Bool) : Transfer :=
  { handle := 3, principal := principalOf .doe, write := w, staged := false, index := 0x2000, sub := 1, total := 2,
    data := [(0, 0x98), (1, 8)], seen := [(0, true), (1, true)], last := 0 }
def xferring (w : Bool) : State := { sUp with transfers := [xfer w] }
def sgOpen : List Byte := eb 3 0x2000 1 0 0 0 []
def sgRead : List Byte := eb 3 0x2000 1 0 3 2 []
def sgBegin : List Byte := eb 4 0x2000 1 0 0 2 []
def sgWrite : List Byte := eb 5 0x2000 1 0 3 1 [7]
def sgEnd : List Byte := eb 6 0x2000 1 0 3 0 []
def sgAbort : List Byte := eb 7 0x2000 1 0 3 0 []

theorem test_wit_segments :
    (Heard sUp .doe sgOpen (rq sgOpen) (at2 sUp sgOpen) ∧ ((rq sgOpen).op = 3 ∧ (rq sgOpen).handle = 0 ∧ (rq sgOpen).offset = 0) ∧
      Reads (at2 sUp sgOpen) .doe (rq sgOpen) ∧ tooMany (at2 sUp sgOpen) (principalOf .doe) = false) ∧
    (Heard (xferring false) .doe sgRead (rq sgRead) (at2 (xferring false) sgRead) ∧ (rq sgRead).op = 3 ∧ formCheck (rq sgRead) = 0 ∧ (rq sgRead).handle ≠ 0 ∧
      findTransfer (at2 (xferring false) sgRead) (principalOf .doe) (rq sgRead).handle false = some (xfer false) ∧ (rq sgRead).offset ≤ (xfer false).total) ∧
    (Heard sUp .doe sgBegin (rq sgBegin) (at2 sUp sgBegin) ∧ (rq sgBegin).op = 4 ∧
      Puts (at2 sUp sgBegin) .doe (rq sgBegin) (rq sgBegin).offset) ∧
    (Heard (xferring true) .doe sgWrite (rq sgWrite) (at2 (xferring true) sgWrite) ∧ (rq sgWrite).op = 5 ∧ formCheck (rq sgWrite) = 0 ∧
      findTransfer (at2 (xferring true) sgWrite) (principalOf .doe) (rq sgWrite).handle true = some (xfer true) ∧
      (rq sgWrite).offset + (rq sgWrite).length ≤ (xfer true).total) ∧
    (Heard (xferring true) .doe sgEnd (rq sgEnd) (at2 (xferring true) sgEnd) ∧ (rq sgEnd).op = 6 ∧ formCheck (rq sgEnd) = 0 ∧
      findTransfer (at2 (xferring true) sgEnd) (principalOf .doe) (rq sgEnd).handle true = some (xfer true) ∧ (xfer true).seen.length = (xfer true).total ∧
      (writeValue (closeTransfer (at2 (xferring true) sgEnd) 3) 0x2000 1 (sGetMany 0 (xfer true).data 0 2)).2 = 0) ∧
    (Heard (xferring true) .doe sgAbort (rq sgAbort) (at2 (xferring true) sgAbort) ∧ (rq sgAbort).op = 7 ∧ formCheck (rq sgAbort) = 0 ∧
      (at2 (xferring true) sgAbort).transfers.find? (fun x => x.handle == (rq sgAbort).handle && x.principal == principalOf .doe) = some (xfer true)) :=
  ⟨⟨heard_of (by decide +kernel), by decide +kernel, ⟨by decide +kernel, by decide +kernel, by decide +kernel, by decide +kernel⟩, by decide +kernel⟩,
   ⟨heard_of (by decide +kernel), by decide +kernel⟩,
   ⟨heard_of (by decide +kernel), by decide +kernel, ⟨by decide +kernel, by decide +kernel, by decide +kernel, by decide +kernel⟩⟩,
   ⟨heard_of (by decide +kernel), by decide +kernel⟩, ⟨heard_of (by decide +kernel), by decide +kernel⟩, ⟨heard_of (by decide +kernel), by decide +kernel⟩⟩

/-- Writes that act at once. -/
def wrNow (index sub : Nat) (v : List Byte) : List Byte := eb 2 index sub 0 0 0 v

theorem test_wit_writes_now : ∀ e, e ∈ [(0x7F00, 1, natLe 4 77), (0x7F00, 6, [1]), (0x2000, 5, [6]), (0x7800, 0x20, List.replicate 32 5), (0x481B, 8, [1]),
      (0x4821, 5, [1])] →
    Heard sUp .doe (wrNow e.1 e.2.1 e.2.2) (rq (wrNow e.1 e.2.1 e.2.2)) (at2 sUp (wrNow e.1 e.2.1 e.2.2)) ∧
    Writes (at2 sUp (wrNow e.1 e.2.1 e.2.2)) .doe (rq (wrNow e.1 e.2.1 e.2.2)) e.1 e.2.1 e.2.2 := by
  intro e he
  simp only [List.mem_cons, List.not_mem_nil, or_false] at he
  rcases he with rfl | rfl | rfl | rfl | rfl | rfl <;> exact ⟨heard_of (by decide +kernel), writes_of (by decide +kernel)⟩

/-- Firmware: an image of 16 bytes in host memory, and the stages of an update. -/
def sImage : State :=
  put hostA (natLe 8 0 ++ natLe 4 16 ++ natLe 4 9)
    (obj 0x7C00 0x10 8 hostA (obj 0x7C00 0x11 4 16 (upLink { State.reset with fw := { State.reset.fw with op := 1 } })))
def updating (u op : Nat) (p : Option Nat) : State := { State.reset with fw := { State.reset.fw with update := u, op := op, pendingSlot := p, image := [1, 2] } }

theorem test_wit_firmware : (isReady sImage = true ∧ sImage.fw.op = 1 ∧ sImage.fw.update ≠ 1 ∧ sImage.fw.update ≠ 2 ∧ objNat sImage 0x7C00 0x10 = hostA ∧
      objNat sImage 0x7C00 0x11 = 16 ∧ accessHeld sImage hostA 16 = false ∧ imageSource sImage hostA 16 = true ∧ (unitRead sImage hostA 16).2.2 = false ∧
      bytesAt (unitRead sImage hostA 16).2.1 8 4 = 16) ∧
    (isReady (updating 1 0 none) = true ∧ (updating 1 0 none).fw.update = 1 ∧ (updating 2 0 none).fw.update = 2) ∧
    ((updating 3 2 none).fw.op = 2 ∧ (updating 3 2 none).fw.update = 3 ∧ (updating 3 3 (some 1)).fw.pendingSlot.isSome = true) := by decide +kernel

/-- A block that starts. -/
def booting (b : Boot) : State := { State.reset with boot := b }
def cold0 (n : Nat) : ColdEnv := { reach := n, straps := 0, variant := .wdn4812, gddrMiB := 131072, failing := [], otherFail := none, trialMs := 0 }

theorem test_wit_resets : State.reset.boot ≠ .off ∧ (booting .off).boot = .off ∧ (booting .reset).boot = .reset ∧ (cold0 11).otherFail = none ∧
    mayTrain (upLink State.reset) = true ∧ linkUp (upLink State.reset) = true ∧ abandonUpdate (booting .off) = Hw.init ∧
    (selector Hw.init).1.pending = none ∧ (selector Hw.init).1.active = 0 ∧ (booting (.starting 6)).boot = .starting 6 ∧
    linkUp (upLink (booting (.starting 6))) = true ∧ (upLink State.reset).boot = .ready := by decide +kernel

/-- The image of slot 0 passes R505. -/
theorem test_slot_valid : slotValid Hw.init 0 = true := by decide +kernel

/-- Cold starts that stop short of ready, of a block that is off and of one that is starting with its beads at 0. -/
theorem test_wit_start_beads : (booting .off).boot = .off ∧ ((booting (.starting 6)).beads = [] ∧ (booting (.starting 6)).boot = .starting 6) ∧
    went (exec (.coldStart (cold0 11)) (booting (.starting 6))) = true ∧ (after (exec (.coldStart (cold0 11)) (booting (.starting 6)))).boot = .ready := by
  decide +kernel

/-! ### Span, DOE and attestation -/

/-- A packet of a kind for device 5, and one of its stream 3 that waits first at port 0, whose peer is device 9. -/
def pk (kind tag seq cls : Nat) : Packet :=
  { dstDev := 5, dstPart := 0, kind := kind, poison := false, tag := tag, cls := cls, ackreq := true, seq := seq, offset := 2, signal := 0,
    payload := [1, 2, 3, 4] }
def port0 (st : Nat) (rx : List Packet) : Port := { Port.init with state := st, peer := 9, rx := rx }

/-- Device 5, with a stream entry 3 of partition 0 that names device 9, may be written and read, and a route to device 9 by port 0. -/
def entry3 : Nat := hostA + 2 ^ 64 + 9 * 2 ^ 96 + 0x83 * 2 ^ 112
def spanned (q : Port) (x : Part) (s : State) : State :=
  obj 0x6000 1 2 5 (obj 0x6040 1 20 (0x8001 * 2 ^ 144) (obj 0x6100 1 64 (entry3 * 2 ^ 384) (part 0 x { s with ports := [(0, q)] })))
def sSpan (k : Packet) : State := spanned (port0 2 [k]) Part.init (upLink State.reset)

/-- An XSEND of four FP32 elements on stream 3. -/
def eXsend : QEntry := qe (wrd 0xAC 4 (1 * 2 ^ 111 + 3 * 2 ^ 72)) [(1, BitVec.ofNat 64 (hostA + 0x1000))] []
def sXsend : State :=
  { moving 4 eXsend (desc 64 0) with ports := [(0, port0 2 [])], objs := (spanned (port0 2 []) Part.init (moving 4 eXsend (desc 64 0))).objs }
abbrev SendRun := EStateM.Result (Nat × Option Nat) State (Xfer × Nat × List Byte)
def rXsend : SendRun := (startXsend 0 eXsend).run sXsend
def sendOf : SendRun → Xfer × Nat × List Byte
  | .ok x _ => x
  | .error _ _ => (parseXfer 0 true (qe 0 [] []) [], 0, [])
def sendState : SendRun → State
  | .ok _ s => s
  | .error _ s => s
def sendOk : SendRun → Bool
  | .ok _ _ => true
  | .error _ _ => false

theorem sent_of {r : SendRun} (h : sendOk r = true) : r = .ok (sendOf r) (sendState r) := by
  cases r with
  | ok _ _ => rfl
  | error _ _ => simp [sendOk] at h

theorem test_wit_xsend : AtHead sXsend 0 4 0xAC eXsend ∧ eXsend.send = none ∧
    (startXsend 0 eXsend).run sXsend = .ok (sendOf rXsend) (sendState rXsend) ∧ accessHeld sXsend (descAddr eXsend) 128 = false :=
  ⟨atHead_of (by decide +kernel), rfl, sent_of (by decide +kernel), by decide +kernel⟩

/-- A packet that waits at port 0, frames, and ports in each state. -/
def tx0 : TxPacket := { pkt := { pk 1 3 0 0 with dstDev := 9 }, part := 0, since := 0, waited := false }
def sQueued : State := spanned { port0 2 [] with queue := [tx0] } { Part.init with txSeq := [(3, 1)] } State.reset
/-- The same with a regulator on the partition's Span traffic and nothing in its bucket. -/
def sShut : State := obj 0x3400 (regKey .span).2 4 5 sQueued
def ported (st fails : Nat) : State := spanned { port0 st [] with fails := fails, rxFrame := 65535 } Part.init State.reset
def spanFrame0 (fec crc : Bool) : Frame :=
  { number := 65535, ack := 0, nak := false, retrain := false, credits := [0, 0, 0], device := 9, caps := true, fecOk := fec, corrected := 0,
    crcOk := crc, packets := [pk 1 3 0 0] }

theorem test_wit_ports : (isReady sQueued = true ∧ portPresent sQueued 0 = true ∧ (getPort sQueued 0).queue = [tx0] ∧ maySend sQueued 0 tx0 = true ∧
      regOpen sQueued 0 .span = true) ∧
    (∀ st, st < 5 → isReady (ported st 7) = true ∧ portPresent (ported st 7) 0 = true ∧ (getPort (ported st 7) 0).state = st) ∧
    (regOpen sShut tx0.part .span = false ∧ maySend sShut 0 tx0 = true ∧ (getPort sShut 0).queue = [tx0] ∧ tx0.pkt.payload ≠ [] ∧
      tx0.waited = false) ∧
    ({ spanFrame0 true true with number := 0 } : Frame).number ≠ (getPort (ported 2 7) 0).rxFrame ∧
    ((spanFrame0 true true).number = (getPort (ported 2 7) 0).rxFrame ∧ 7 ≤ (getPort (ported 2 7) 0).fails ∧ (getPort (ported 2 6) 0).fails = 6) ∧
    objNat (ported 1 0) 0x6000 1 ≠ 0x0FFF := by decide +kernel

theorem test_wit_packets : ∀ kind, kind ∈ [1, 2, 4] → ∀ tag, tag = (if kind = 4 then 4095 else 3) →
    (FirstPacket (sSpan (pk kind tag 0 0)) 0 kind (pk kind tag 0 0) [] ∧ Ours (sSpan (pk kind tag 0 0)) (pk kind tag 0 0) ∧
      OnStream (sSpan (pk kind tag 0 0)) 0 (pk kind tag 0 0) ∧ Reached (sSpan (pk kind tag 0 0)) (pk kind tag 0 0) ∧ NextOfStream (sSpan (pk kind tag 0 0)) 0 (pk kind tag 0 0)) ∧
    (FirstPacket (sSpan (pk kind tag 4095 1)) 0 kind (pk kind tag 4095 1) [] ∧ OnStream (sSpan (pk kind tag 4095 1)) 0 (pk kind tag 4095 1) ∧ Reached (sSpan (pk kind tag 4095 1)) (pk kind tag 4095 1) ∧
      32768 < (sGet 0 (getPart (sSpan (pk kind tag 4095 1)) 0).rxNext (rxKey (sSpan (pk kind tag 4095 1)) 0 (pk kind tag 4095 1)) + 65536 - 4095) % 65536) ∧
    (FirstPacket (sSpan (pk kind tag 65535 0)) 0 kind (pk kind tag 65535 0) [] ∧
      (sGet 0 (getPart (sSpan (pk kind tag 65535 0)) 0).rxNext (rxKey (sSpan (pk kind tag 65535 0)) 0 (pk kind tag 65535 0)) + 65536 - 65535) % 65536 = 1) ∧
    (FirstPacket (sSpan { pk kind tag 0 0 with dstDev := 6 }) 0 kind { pk kind tag 0 0 with dstDev := 6 } [] ∧
      ¬Ours (sSpan { pk kind tag 0 0 with dstDev := 6 }) { pk kind tag 0 0 with dstDev := 6 } ∧
      Reached (sSpan { pk kind tag 0 0 with dstDev := 6 }) { pk kind tag 0 0 with dstDev := 6 }) ∧
    (FirstPacket (sSpan (pk kind 4 0 0)) 0 kind (pk kind 4 0 0) [] ∧ ¬OnStream (sSpan (pk kind 4 0 0)) 0 (pk kind 4 0 0) ∧
      Reached (sSpan (pk kind 4 0 0)) (pk kind 4 0 0)) := by
  intro kind hk tag ht
  simp only [List.mem_cons, List.not_mem_nil, or_false] at hk
  unfold Ours OnStream NextOfStream Reached
  rcases hk with rfl | rfl | rfl <;> subst ht <;>
    exact ⟨⟨⟨by decide +kernel, by decide +kernel, by decide +kernel, by decide +kernel⟩, by decide +kernel⟩,
      ⟨⟨by decide +kernel, by decide +kernel, by decide +kernel, by decide +kernel⟩, by decide +kernel⟩,
      ⟨⟨by decide +kernel, by decide +kernel, by decide +kernel, by decide +kernel⟩, by decide +kernel⟩,
      ⟨⟨by decide +kernel, by decide +kernel, by decide +kernel, by decide +kernel⟩, by decide +kernel⟩,
      ⟨by decide +kernel, by decide +kernel, by decide +kernel, by decide +kernel⟩, by decide +kernel⟩

/-- A WRITE to host memory while the link is down. -/
def sCut : State := spanned (port0 2 [pk 1 3 0 0]) Part.init State.reset

theorem test_wit_packet_waits : FirstPacket sCut 0 1 (pk 1 3 0 0) [] ∧ OnStream sCut 0 (pk 1 3 0 0) ∧ ¬Reached sCut (pk 1 3 0 0) := by
  unfold OnStream Reached
  exact ⟨⟨by decide +kernel, by decide +kernel, by decide +kernel, by decide +kernel⟩, by decide +kernel, by decide +kernel⟩

/-- A window in stack 0, whose regions partition 0 does not own. -/
def entryS : Nat := 0x10000000000 + 2 ^ 64 + 9 * 2 ^ 96 + 0x83 * 2 ^ 112

theorem test_wit_perform_write_fenced : (entryWindow (natLe 16 entryS)).2 = 4096 ∧ bitAt (bytesAt (natLe 16 entryS) 14 1) 0 = true ∧
    (locBacked (sSpan (pk 1 3 0 0)) (locate ((entryWindow (natLe 16 entryS)).1 + 8)) &&
      fenced (sSpan (pk 1 3 0 0)) 0 ((entryWindow (natLe 16 entryS)).1 + 8) 4) = true ∧
    (locBacked (sSpan (pk 1 3 0 0)) (locate (hostA + 4 * 1023)) && fenced (sSpan (pk 1 3 0 0)) 0 (hostA + 4 * 1023) 4) = false ∧
    (entryWindow (natLe 16 entry3)).2 < 4 * 1024 + 4 := by decide +kernel

theorem test_wit_perform_write : entryWindow (natLe 16 entry3) = (hostA, 4096) ∧ bitAt (bytesAt (natLe 16 entry3) 14 1) 0 = true ∧
    4 * 1023 + (pk 1 3 0 0).payload.length ≤ 4096 ∧ fenced (sSpan (pk 1 3 0 0)) 0 (hostA + 4 * 1023) 4 = false ∧
    windowClosed (sSpan (pk 1 3 0 0)) none (hostA + 4 * 1023) = false ∧ (match locate (hostA + 4 * 1023) with | .host _ => true | _ => false) = true := by decide +kernel

/-- ACKs of stream 3 and of the page stream to device 9. -/
def sAck (k : Packet) : State := spanned (port0 2 [k]) { Part.init with txSeq := [(3, 1), (4096 + 9 * 16, 1)] } State.reset

theorem first_of {s : State} {n kind : Nat} {k : Packet} {rest : List Packet}
    (h : isReady s = true ∧ portPresent s n = true ∧ (getPort s n).rx = k :: rest ∧ k.kind = kind) : FirstPacket s n kind k rest :=
  ⟨h.1, h.2.1, h.2.2.1, h.2.2.2⟩

theorem test_wit_acks : (FirstPacket (sAck (pk 8 3 0 0)) 0 8 (pk 8 3 0 0) [] ∧ Ours (sAck (pk 8 3 0 0)) (pk 8 3 0 0) ∧
      ackedTo (takeRx (sAck (pk 8 3 0 0)) 0 (pk 8 3 0 0)) 0 3 0 = some 1) ∧
    (FirstPacket (sAck (pk 8 4095 0 0)) 0 8 (pk 8 4095 0 0) [] ∧ Ours (sAck (pk 8 4095 0 0)) (pk 8 4095 0 0) ∧
      (ackKeys (takeRx (sAck (pk 8 4095 0 0)) 0 (pk 8 4095 0 0)) 0 (pk 8 4095 0 0)).find?
        (fun key => (ackedTo (takeRx (sAck (pk 8 4095 0 0)) 0 (pk 8 4095 0 0)) 0 key 0).isSome) = some (4096 + 9 * 16) ∧
      ackedTo (takeRx (sAck (pk 8 4095 0 0)) 0 (pk 8 4095 0 0)) 0 (4096 + 9 * 16) 0 = some 1) ∧
    FirstPacket (sSpan (pk 0 0 0 0)) 0 0 (pk 0 0 0 0) [] :=
  ⟨⟨first_of (by decide +kernel), by unfold Ours; decide +kernel, by decide +kernel⟩,
   ⟨first_of (by decide +kernel), by unfold Ours; decide +kernel, by decide +kernel, by decide +kernel⟩, first_of (by decide +kernel)⟩

def sHeld : State := { ported 4 0 with spanHeld := [tx0], now := 10000000 }

theorem test_wit_held : isReady sHeld = true ∧ tx0 ∈ sHeld.spanHeld ∧ tx0.pkt.dstDev = 9 ∧ tx0.since + objNat sHeld 0x6000 2 ≤ sHeld.now ∧
    upPorts sHeld tx0.part 9 = [] := by decide +kernel

/-- A responder over DOE with its version settled, and messages of 48 bytes. -/
def settled (alg : Bool) : State := setSpdm sUp .doe { version := 0x12, algorithms := alg }
def spdmMsg (v code p1 p2 : Nat) : List Byte := natLe 1 v ++ natLe 1 code ++ natLe 1 p1 ++ natLe 1 p2 ++ List.replicate 44 0

theorem test_wit_doe : isReady sUp = true ∧ linkUp sUp = true ∧ [((1, 0, 1) : Nat × Nat × Nat), (1, 1, 2), (0x1E98, 2, 3), (0x1F9A, 1, 0)][3]? = some (0x1F9A, 1, 0) ∧
    ∃ e, (cdat sUp (freeNat sUp))[0]? = some e := ⟨by decide +kernel, by decide +kernel, by decide +kernel, _, rfl⟩

theorem test_wit_spdm :
    (SpdmHeard sUp .doe (spdmMsg 0x10 0x84 0 0) 0x84 ∧ bytesAt (spdmMsg 0x10 0x84 0 0) 0 1 = 0x10) ∧
    (SpdmHeard sUp .doe (spdmMsg 0x13 0xE1 0 0) 0xE1 ∧ bytesAt (spdmMsg 0x13 0xE1 0 0) 0 1 = 0x13) ∧
    (SpdmHeard (settled false) .doe (spdmMsg 0x12 0xE3 0 0) 0xE3 ∧ Settled12 (settled false) .doe (spdmMsg 0x12 0xE3 0 0) 0x12) ∧
    (∀ c, c ∈ [0x81, 0x82, 0x83] → SpdmHeard (settled true) .doe (spdmMsg 0x12 c 0 0) c ∧ Settled12 (settled true) .doe (spdmMsg 0x12 c 0 0) 0x12) ∧
    (SpdmHeard (settled true) .doe (spdmMsg 0x12 0xE0 1 6) 0xE0 ∧ Settled12 (settled true) .doe (spdmMsg 0x12 0xE0 1 6) 0x12 ∧
      bytesAt (spdmMsg 0x12 0xE0 1 6) 2 1 % 2 = 1 ∧ bytesAt (spdmMsg 0x12 0xE0 1 6) 3 1 = 5 + 1 ∧ ((settled true).fw.measures[5]?).isSome = true) ∧
    ((spdmOf (wakeDevice (settled true)) .doe).algorithms = true ∧ bytesAt (spdmMsg 0x12 0x82 0 0) 2 1 % 16 = 0 ∧
      bytesAt (spdmMsg 0x12 0x82 0 0) 4 2 = 0) := by
  refine ⟨⟨⟨by decide +kernel, by decide +kernel⟩, by decide +kernel⟩, ⟨⟨by decide +kernel, by decide +kernel⟩, by decide +kernel⟩,
    ⟨⟨by decide +kernel, by decide +kernel⟩, by decide +kernel, by decide +kernel, by decide +kernel⟩, ?_,
    ⟨⟨by decide +kernel, by decide +kernel⟩, ⟨by decide +kernel, by decide +kernel, by decide +kernel⟩, by decide +kernel, by decide +kernel,
      by decide +kernel⟩, by decide +kernel⟩
  intro c hc
  simp only [List.mem_cons, List.not_mem_nil, or_false] at hc
  rcases hc with rfl | rfl | rfl <;> exact ⟨⟨by decide +kernel, by decide +kernel⟩, by decide +kernel, by decide +kernel, by decide +kernel⟩

theorem test_wit_own_frames : went (exec (.close 0) (about (aboutB 0x04 []) [sess .parked] none)) = true ∧ Instr.close ∈ quietCommandRows ∧
    CadenceRow (cad 1 1 0 0) .sourceLost ∧ went (exec .sourceLost (cad 1 1 0 0)) = true ∧ went (exec (.stackTrip 0 12000 0) (warm 0 0)) = true ∧
    went (exec .linkDown sUp) = true ∧ went (exec (.blockLockLoss 0) (ported 2 0)) = true ∧ sUp.power.stop = 0 ∧
    went (exec (.ebRead .doe (rdCap 0)) sUp) = true :=
  ⟨by decide +kernel, by simp [quietCommandRows], Or.inr (Or.inr (Or.inl rfl)), by decide +kernel, by decide +kernel, by decide +kernel,
   by decide +kernel, by decide +kernel, by decide +kernel⟩

end Sys2Proof.Tests
end

section
/-! Core updates: one update of a core after another, and a core whose kernel runs. -/

namespace Sys2Proof.Machine

open Sys2Proof

theorem sDel_sIns {β : Type} (m : Store β) (k : Nat) (v : β) : sDel (sIns m k v) k = sDel m k := by
  induction m with
  | nil => simp [sIns, sDel]
  | cons x r ih =>
    obtain ⟨a, b⟩ := x
    simp only [sIns]
    split
    · simp [sDel]
    · split
      · simp [sDel, *]
      · simp [sDel, ih]

theorem sIns_sIns {β : Type} (m : Store β) (k : Nat) (v u : β) : sIns (sIns m k v) k u = sIns m k u := by
  induction m with
  | nil => simp [sIns]
  | cons x r ih =>
    obtain ⟨a, b⟩ := x
    by_cases hlt : k < a
    · simp [sIns, hlt]
    · by_cases heq : k = a
      · simp [sIns, heq]
      · simp [sIns, hlt, heq, ih]

/-- The second of two writes to a key replaces the first, when the first lists the key. -/
theorem sSet_sSet_of_ne {β : Type} [DecidableEq β] {d v : β} (m : Store β) (k : Nat) (u : β) (h : v ≠ d) :
    sSet d (sSet d m k v) k u = sSet d m k u := by
  simp only [sSet, if_neg h, sDel_sIns, sIns_sIns]

/-- A core with a kernel is not the core at reset, so an update of it leaves it listed. -/
theorem ne_init_of_kernel {c : Core} {k : Kernel} (h : c.kernel = some k) : c ≠ Core.init :=
  fun e => absurd (e ▸ h : Core.init.kernel = some k) (by simp [Core.init])

/-- Two updates of a core are one, when the core runs a kernel after the first. -/
theorem updCore_updCore {s : State} {t : Nat} {f : Core → Core} {k : Kernel} (h : (f (getCore s t)).kernel = some k)
    (g : Core → Core) : updCore (updCore s t f) t g = updCore s t (fun c => g (f c)) := by
  have e : sMod Core.init (sMod Core.init s.cores t f) t g = sMod Core.init s.cores t (fun c => g (f c)) := by
    rw [sMod, sGet_sMod_same]
    exact sSet_sSet_of_ne s.cores t _ (ne_init_of_kernel h)
  unfold updCore
  rw [e]

/-- An update of a core depends only on what it makes of that core. -/
theorem updCore_congr {s : State} {t : Nat} {f g : Core → Core} (h : f (getCore s t) = g (getCore s t)) :
    updCore s t f = updCore s t g := by
  have e : sMod Core.init s.cores t f = sMod Core.init s.cores t g := congrArg (sSet Core.init s.cores t) h
  unfold updCore
  rw [e]

@[simp] theorem getCore_setKernel (s : State) (t : Nat) (k : Kernel) :
    getCore (setKernel s t k) t = { getCore s t with kernel := some k } := getCore_updCore_same s t _

/-- A core set whole between two settings of its kernel: the state is that of one update. -/
theorem setKernel_updCore_setKernel {s : State} {t : Nat} {c : Core} {k₀ : Kernel} (h : c.kernel = some k₀) (k k' : Kernel) :
    setKernel (updCore (setKernel s t k) t (fun _ => c)) t k' = updCore s t (fun _ => { c with kernel := some k' }) := by
  unfold setKernel
  rw [updCore_updCore (k := k₀) h, updCore_updCore (k := k) rfl]

/-! ### The fetch of an instruction -/

theorem MemStep.getCore_eq {s u : State} (h : MemStep s u) (x : Nat) : getCore u x = getCore s x := by
  have e : u.cores = s.cores := by rw [h.frame]
  unfold getCore
  rw [e]

theorem UnitStep.getCore_eq {s u : State} (h : UnitStep s u) (x : Nat) : getCore u x = getCore s x :=
  (MemStep.getCore_eq h x).trans rfl

/-- Two cores hold the same A and L registers. -/
def SameScalars (c d : Core) : Prop := c.a = d.a ∧ c.l = d.l

theorem specRead_of_sameScalars {c d : Core} (h : SameScalars c d) (r : Nat) : specRead c r = specRead d r := by
  unfold specRead
  rw [h.1, h.2]

theorem sameScalars_meetFetch (s : State) (t key : Nat) : SameScalars (getCore (meetFetch s t key) t) (getCore s t) := by
  unfold meetFetch
  split
  · rw [MemStep.getCore_eq (((memStep_bump _ _ _ _).trans (memStep_noteDie _ _ _)).trans (memStep_countCorrected _)),
      getCore_updCore_same]
    exact ⟨rfl, rfl⟩
  · exact ⟨rfl, rfl⟩

/-- A fetch changes the instruction cache of its core and no register that a scalar instruction reads. -/
theorem sameScalars_fetchWord (s : State) (t addr : Nat) : SameScalars (getCore (fetchWord s t addr).1 t) (getCore s t) := by
  have met := sameScalars_meetFetch s t (addr / 128)
  have read : getCore (unitRead (meetFetch s t (addr / 128)) (addr / 128 * 128) 128 (.core t)).1 t =
      getCore (meetFetch s t (addr / 128)) t := UnitStep.getCore_eq (unitStep_unitRead _ _ _ _) t
  unfold fetchWord
  dsimp only
  split
  · exact met
  · split
    · rw [read]; exact met
    · rw [getCore_updCore_same]
      have drawn : ∀ b : Bool, ∀ x : State, getCore (if b = true then drew x else x) t = getCore x t := by
        intro b x; cases b <;> rfl
      rw [drawn, read]
      exact met

end Sys2Proof.Machine
end

section
/-! The issue stage at a scalar instruction (03 R53, R57). -/

namespace Sys2Proof.Machine

open Sys2Proof

/-! ### Register specifiers -/

theorem specRead_a (c : Core) {r : Nat} (h : r < 32) : specRead c r = some (sGet 0 c.a r).toNat := if_pos h

theorem specRead_l (c : Core) {r : Nat} (h : r < 8) : specRead c (32 + r) = some (sGet 0 c.l r).toNat := by
  rw [specRead, if_neg (by omega), if_pos (by omega), Nat.add_sub_cancel_left]

theorem specRead_eq_none {c : Core} {r : Nat} (h : 40 ≤ r) : specRead c r = none := by
  rw [specRead, if_neg (by omega), if_neg (by omega)]

theorem specWrite_a (c : Core) {r : Nat} (v : Nat) (h : r < 32) :
    specWrite c r v = { c with a := sSet 0 c.a r (BitVec.ofNat 64 v) } := if_pos h

theorem specWrite_l (c : Core) (r v : Nat) :
    specWrite c (32 + r) v = { c with l := sSet 0 c.l r (BitVec.ofNat 32 v) } := by
  rw [specWrite, if_neg (by omega), Nat.add_sub_cancel_left]

/-- A write to a register neither reads nor changes the kernel. -/
theorem specWrite_withKernel (c : Core) (k : Option Kernel) (r v : Nat) :
    specWrite { c with kernel := k } r v = { specWrite c r v with kernel := k } := by
  unfold specWrite
  split <;> rfl

/-! ### What a scalar word makes of its core -/

/-- The value of a source field: the specifier's where the opcode uses the field, 0 where it does not. -/
def sourceOf (c : Core) (uses : Bool) (r : Nat) : Option Nat := if uses then specRead c r else some 0

theorem sourceOf_of_sameScalars {c d : Core} (h : SameScalars c d) (uses : Bool) (r : Nat) :
    sourceOf c uses r = sourceOf d uses r := by
  unfold sourceOf
  rw [specRead_of_sameScalars h]

theorem sourceOf_eq_none {c : Core} {uses : Bool} {r : Nat} (h : uses = true ∧ 40 ≤ r) : sourceOf c uses r = none := by
  rw [sourceOf, if_pos h.1, specRead_eq_none h.2]

theorem scalarStep_nop {c : Core} {w : BitVec 128} (h : wOp w = 0xF2) : scalarStep c w = some c := by
  simp [scalarStep, h]

/-- A scalar word whose sources read writes the result of its opcode to its destination. -/
theorem scalarStep_writes {c : Core} {w : BitVec 128} (nop : wOp w ≠ 0xF2) {x y : Nat}
    (hx : sourceOf c (scalarUses (wOp w)).1 (wf' w 109 104) = some x)
    (hy : sourceOf c (scalarUses (wOp w)).2 (wf' w 103 98) = some y) (hd : wf' w 115 110 < 40) :
    scalarStep c w = some (specWrite c (wf' w 115 110) (scalarResult (wOp w) x y (wf' w 63 0))) := by
  unfold sourceOf at hx hy
  simp [scalarStep, nop, hx, hy, hd]

/-- A scalar word with a reserved specifier in a field that it uses makes nothing of its core. -/
theorem scalarStep_reserved {c : Core} {w : BitVec 128} (nop : wOp w ≠ 0xF2)
    (h : 40 ≤ wf' w 115 110 ∨ sourceOf c (scalarUses (wOp w)).1 (wf' w 109 104) = none ∨
      sourceOf c (scalarUses (wOp w)).2 (wf' w 103 98) = none) : scalarStep c w = none := by
  unfold sourceOf at h
  unfold scalarStep
  simp only [beq_iff_eq, if_neg nop]
  split
  · rename_i x y hx hy
    obtain hd | hx' | hy' := h
    · exact if_neg (by omega)
    · rw [hx] at hx'; cases hx'
    · rw [hy] at hy'; cases hy'
  · rfl

/-! ### The issue stage -/

/-- The opcodes that the issue stage carries out on the registers alone: the scalar instructions and NOP. -/
def isScalarOp (op : Nat) : Bool :=
  opQueue op == some 0xF && decide (0xE0 ≤ op) && op != 0xF0 && op != 0xF1 && op != 0xF3

theorem isScalarOp_iff {op : Nat} :
    isScalarOp op = true ↔ opQueue op = some 0xF ∧ 0xE0 ≤ op ∧ op ≠ 0xF0 ∧ op ≠ 0xF1 ∧ op ≠ 0xF3 := by
  simp [isScalarOp, and_assoc]

/-- The checks of the vector, tally and bead instructions do not concern the opcodes of the issue stage. -/
theorem issueIllegal_of_issue_op {w : BitVec 128} (h : 0xE0 ≤ wOp w) : issueIllegal w = false := by
  unfold issueIllegal
  dsimp only
  rw [if_neg (by simp; omega), if_neg (by simp; omega), if_neg (by simp; omega)]

section
variable {s : State} {t : Nat} {k : Kernel} {w : BitVec 128} (op : isScalarOp (wOp w) = true) (code : wf' w 119 116 = 0xF)
include op code

/-- A scalar word with its queue code sets its core to what scalarStep makes of it, and the kernel goes on. -/
theorem issueWord_of_scalarStep_some {c : Core} (h : scalarStep (getCore s t) w = some c) :
    issueWord s t k w = setKernel (updCore s t (fun _ => c)) t (advance k) := by
  obtain ⟨queue, high, loop, barrier, ends⟩ := isScalarOp_iff.1 op
  simp [issueWord, queue, code, issueIllegal_of_issue_op high, loop, barrier, ends, h]

/-- Where scalarStep makes nothing of its core, the word faults. -/
theorem issueWord_of_scalarStep_none (h : scalarStep (getCore s t) w = none) :
    issueWord s t k w = issueFault s t k fIllegalOp := by
  obtain ⟨queue, high, loop, barrier, ends⟩ := isScalarOp_iff.1 op
  simp [issueWord, queue, code, issueIllegal_of_issue_op high, loop, barrier, ends, h]

end

end Sys2Proof.Machine

namespace Sys2Proof.Says

open Sys2Proof Sys2Proof.Machine

/-- The state in which the issue stage handles the word it fetched, no barrier holding the kernel. -/
def handling (s : State) (t : Nat) (k : Kernel) : State :=
  setKernel (fetchWord s t (k.pkt.image + 64 + 16 * k.next)).1 t { k with stall := none }

theorem sameScalars_handling (s : State) (t : Nat) (k : Kernel) : SameScalars (getCore (handling s t k) t) (getCore s t) := by
  have h := sameScalars_fetchWord s t (k.pkt.image + 64 + 16 * k.next)
  unfold handling
  rw [getCore_setKernel]
  exact h

/-- A row of one opcode handles the word of that opcode that the issue stage is about to handle. -/
theorem issueStep_of_issuing {s : State} {t : Nat} {k : Kernel} {w : BitVec 128} (h : Issuing s t k w) :
    issueStep s t (some (wOp w)) = .next (issueWord (handling s t k) t { k with stall := none } w) := by
  have inside : ¬ k.count ≤ k.next := Nat.not_le.2 h.inside
  unfold issueStep handling
  cases stall : k.stall <;>
    simp [stall, h.released, h.ready, h.present, h.kernel, h.goesOn, inside, h.linked, h.word, h.sound]

/-- A scalar word that makes a core of its core: the kernel is past it, and nothing else has changed since the fetch. -/
theorem issueWord_handling {s : State} {t : Nat} {k : Kernel} {w : BitVec 128} {f : Core → Core}
    (op : isScalarOp (wOp w) = true) (code : wf' w 119 116 = 0xF)
    (kept : ∀ (c : Core) (k' : Option Kernel), f { c with kernel := k' } = { f c with kernel := k' })
    (h : scalarStep (getCore (handling s t k) t) w = some (f (getCore (handling s t k) t))) :
    issueWord (handling s t k) t { k with stall := none } w =
      issued s t k (fun c => { f c with kernel := some (past k) }) := by
  have runs : (f (getCore (handling s t k) t)).kernel = some { k with stall := none } := by
    rw [handling, getCore_setKernel, kept]
  rw [issueWord_of_scalarStep_some op code h]
  refine (setKernel_updCore_setKernel runs _ _).trans (updCore_congr ?_)
  dsimp only
  rw [handling, getCore_setKernel, kept]
  rfl

/-- NOP takes the kernel past it and changes nothing else. -/
theorem exec_nop {s : State} {t : Nat} {k : Kernel} {w : BitVec 128} (h : Issuing s t k w) (op : wOp w = 0xF2)
    (code : wf' w 119 116 = 0xF) :
    exec (.nop t) s = .next (issued s t k (fun c => { c with kernel := some (past k) })) := by
  have e : exec (.nop t) s = issueStep s t (some (wOp w)) := by rw [op]; rfl
  rw [e, issueStep_of_issuing h]
  exact congrArg _ (issueWord_handling (f := id) (by rw [op]; decide) code (fun _ _ => rfl) (scalarStep_nop op))

/-- What the model knows of a scalar row that writes a register: it is the issue stage at that opcode, which uses these
sources. -/
structure ScalarRow (row : Nat → Instr) (op : Nat) (usesX usesY : Bool) : Prop where
  exec_eq : ∀ t s, exec (row t) s = issueStep s t (some op)
  scalar : isScalarOp op = true
  writes : op ≠ 0xF2
  uses : scalarUses op = (usesX, usesY)

section
variable {row : Nat → Instr} {op : Nat} {usesX usesY : Bool} (r : ScalarRow row op usesX usesY)
include r

theorem ScalarRow.exec_issuing {s : State} {t : Nat} {k : Kernel} {w : BitVec 128} (h : Issuing s t k w) (hop : wOp w = op) :
    exec (row t) s = .next (issueWord (handling s t k) t { k with stall := none } w) := by
  rw [r.exec_eq, ← hop, issueStep_of_issuing h]

/-- The row writes the result that the model gives its opcode. -/
theorem ScalarRow.scalarWrites {f : Nat → Nat → Nat → Nat} (result : ∀ x y i, scalarResult op x y i = f x y i) :
    ScalarWrites row op usesX usesY f := by
  intro s t k w h hop code hd x y hx hy
  have same := sameScalars_handling s t k
  have step : scalarStep (getCore (handling s t k) t) w =
      some (specWrite (getCore (handling s t k) t) (wf' w 115 110) (f x y (wf' w 63 0))) := by
    rw [← result, ← hop]
    refine scalarStep_writes (hop ▸ r.writes) ?_ ?_ hd
    · rw [sourceOf_of_sameScalars same, hop, r.uses]; exact hx
    · rw [sourceOf_of_sameScalars same, hop, r.uses]; exact hy
  rw [r.exec_issuing h hop]
  exact congrArg _ (issueWord_handling (f := fun c => specWrite c (wf' w 115 110) (f x y (wf' w 63 0))) (hop ▸ r.scalar) code
    (fun c k' => specWrite_withKernel c k' _ _) step)

/-- The row faults when a specifier in a field that it uses is reserved. -/
theorem ScalarRow.scalarFaults : ScalarFaults row op usesX usesY := by
  intro s t k w h hop code reserved
  have step : scalarStep (getCore (handling s t k) t) w = none := by
    refine scalarStep_reserved (hop ▸ r.writes) ?_
    rw [hop, r.uses]
    exact reserved.imp_right (Or.imp sourceOf_eq_none sourceOf_eq_none)
  rw [r.exec_issuing h hop, issueWord_of_scalarStep_none (hop ▸ r.scalar) code step]
  rfl

end

theorem scalarRow_mov : ScalarRow .mov 0xE0 true false := ⟨fun _ _ => rfl, by decide, by decide, rfl⟩
theorem scalarRow_movi : ScalarRow .movi 0xE1 false false := ⟨fun _ _ => rfl, by decide, by decide, rfl⟩
theorem scalarRow_add : ScalarRow .add 0xE2 true true := ⟨fun _ _ => rfl, by decide, by decide, rfl⟩
theorem scalarRow_addi : ScalarRow .addi 0xE3 true false := ⟨fun _ _ => rfl, by decide, by decide, rfl⟩
theorem scalarRow_sub : ScalarRow .sub 0xE4 true true := ⟨fun _ _ => rfl, by decide, by decide, rfl⟩
theorem scalarRow_shl : ScalarRow .shl 0xE6 true true := ⟨fun _ _ => rfl, by decide, by decide, rfl⟩
theorem scalarRow_shli : ScalarRow .shli 0xE7 true false := ⟨fun _ _ => rfl, by decide, by decide, rfl⟩
theorem scalarRow_shr : ScalarRow .shr 0xE8 true true := ⟨fun _ _ => rfl, by decide, by decide, rfl⟩
theorem scalarRow_shri : ScalarRow .shri 0xE9 true false := ⟨fun _ _ => rfl, by decide, by decide, rfl⟩
theorem scalarRow_and : ScalarRow .and 0xEA true true := ⟨fun _ _ => rfl, by decide, by decide, rfl⟩
theorem scalarRow_andi : ScalarRow .andi 0xEB true false := ⟨fun _ _ => rfl, by decide, by decide, rfl⟩
theorem scalarRow_or : ScalarRow .or 0xEC true true := ⟨fun _ _ => rfl, by decide, by decide, rfl⟩
theorem scalarRow_ori : ScalarRow .ori 0xED true false := ⟨fun _ _ => rfl, by decide, by decide, rfl⟩

theorem specWrite_a_only (c : Core) (r v : Nat) (h : r < 32) :
    (∀ x, sGet 0 (specWrite c r v).a x = if x = r then BitVec.ofNat 64 v else sGet 0 c.a x) ∧
    specWrite c r v = { c with a := (specWrite c r v).a } := by
  rw [specWrite_a c v h]
  exact ⟨sGet_sSet 0 c.a r _, rfl⟩

theorem specWrite_l_only (c : Core) (r v : Nat) :
    (∀ x, sGet 0 (specWrite c (32 + r) v).l x = if x = r then BitVec.ofNat 32 v else sGet 0 c.l x) ∧
    specWrite c (32 + r) v = { c with l := (specWrite c (32 + r) v).l } := by
  rw [specWrite_l]
  exact ⟨sGet_sSet 0 c.l r _, rfl⟩

/-- The model's left shift multiplies by a power of two. -/
theorem shiftLeft_mod_eq (x n m : Nat) : (x <<< n) % m = x * 2 ^ n % m := by rw [Nat.shiftLeft_eq]

/-- Settles O6: each row is the issue stage at its opcode, and a fetch leaves the registers it reads as they were. -/
theorem scalarInstructionsWriteTheirResult : Obligations.ScalarInstructionsWriteTheirResult := by
  refine ⟨fun c _ => specRead_a c, fun c _ => specRead_l c, specWrite_a_only, fun c r v _ => specWrite_l_only c r v,
    fun _ _ _ _ => exec_nop,
    scalarRow_mov.scalarFaults, scalarRow_movi.scalarFaults, scalarRow_add.scalarFaults, scalarRow_addi.scalarFaults,
    scalarRow_sub.scalarFaults, scalarRow_shl.scalarFaults, scalarRow_shli.scalarFaults, scalarRow_shr.scalarFaults,
    scalarRow_shri.scalarFaults, scalarRow_and.scalarFaults, scalarRow_andi.scalarFaults, scalarRow_or.scalarFaults,
    scalarRow_ori.scalarFaults,
    scalarRow_mov.scalarWrites fun _ _ _ => rfl, scalarRow_movi.scalarWrites fun _ _ _ => rfl,
    scalarRow_add.scalarWrites fun _ _ _ => rfl, scalarRow_addi.scalarWrites fun _ _ _ => rfl,
    scalarRow_sub.scalarWrites fun x y i => by unfold scalarResult; simp only,
    scalarRow_shl.scalarWrites fun x y _ => shiftLeft_mod_eq x (y % 64) _,
    scalarRow_shli.scalarWrites fun x _ i => shiftLeft_mod_eq x (i % 64) _,
    scalarRow_shr.scalarWrites fun x y _ => Nat.shiftRight_eq_div_pow x (y % 64),
    scalarRow_shri.scalarWrites fun x _ i => Nat.shiftRight_eq_div_pow x (i % 64),
    scalarRow_and.scalarWrites fun _ _ _ => rfl, scalarRow_andi.scalarWrites fun _ _ _ => rfl,
    scalarRow_or.scalarWrites fun _ _ _ => rfl, scalarRow_ori.scalarWrites fun _ _ _ => rfl⟩

end Sys2Proof.Says
end

section
/-! Ebund requests handled, and the shadow copy (16 R441, R445, R447, R453). -/

namespace Sys2Proof.Machine

open Sys2Proof

/-! ### What a request's answer leaves of the objects -/

/-- The value in force of an object depends on the part and on the stored values alone. -/
theorem objBytes_congr {s u : State} (hw : u.hw = s.hw) (objs : u.objs = s.objs) (index sub : Nat) :
    objBytes u index sub = objBytes s index sub := by
  unfold objBytes objDefault
  rw [hw, objs]

@[simp] theorem sendReply_hw (s : State) (tr : Transport) (key b r : List Byte) : (sendReply s tr key b r).hw = s.hw := by
  cases tr <;> rfl

@[simp] theorem sendReply_objs (s : State) (tr : Transport) (key b r : List Byte) : (sendReply s tr key b r).objs = s.objs := by
  cases tr <;> rfl

@[simp] theorem sendReply_staged (s : State) (tr : Transport) (key b r : List Byte) :
    (sendReply s tr key b r).staged = s.staged := by
  cases tr <;> rfl

/-! ### The checks of a READ and a WRITE -/

/-- When none of a list of checks fails, none is the first that fails. -/
theorem firstOf_eq_zero {l : List Nat} (h : ∀ c ∈ l, c = 0) : firstOf l = 0 := by
  induction l with
  | nil => rfl
  | cons c l ih =>
    obtain ⟨rfl, rest⟩ := List.forall_mem_cons.1 h
    exact ih rest

/-- A well-formed request outside segments has handle 0 (R443). -/
theorem handle_of_formCheck {q : Req} (form : formCheck q = 0) (op : q.op < 3) : q.handle = 0 := by
  refine Decidable.byContradiction fun h => ?_
  simp [formCheck, op, h, abMalformed] at form

/-- A READ that passes its checks answers the object's value. -/
theorem serve_read {s : State} {pr : Nat} {q : Req} (op : q.op = 1) (form : formCheck q = 0) (object : objectCheck s q = 0)
    (access : accessCheck pr q false = 0) (short : (readValue s q).1.length ≤ valueMax)
    (sound : poisonCheck s q (readValue s q).2 = 0) :
    serve s pr q = (afterRead s q,
      { abort := 0, flags := b2n (readValue s q).2, handle := 0, value := (readValue s q).1 }) := by
  have passes : firstOf [objectCheck s q, accessCheck pr q false, if valueMax < (readValue s q).1.length then abTooLong else 0,
      poisonCheck s q (readValue s q).2] = 0 :=
    firstOf_eq_zero (by simp [object, access, Nat.not_lt.2 short, sound])
  have handle : q.handle = 0 := handle_of_formCheck form (by omega)
  simp [serve, form, op, serveRead, passes, handle]

/-- A value that passes checks 8 and 9 is staged for an RWS object and acts at once on every other. -/
theorem writeValue_of_checks {s : State} {index sub : Nat} {v : List Byte} (range : valueRange s index sub v = 0)
    (state : stateCheck s index sub (cleanValue index sub v) = 0) :
    writeValue s index sub v =
      (if accessOf index sub = 3 then { s with staged := sIns s.staged (objKey index sub) (cleanValue index sub v) }
       else applyNow s index sub (cleanValue index sub v), 0) := by
  have passes : firstOf [valueRange s index sub v, stateCheck s index sub (cleanValue index sub v)] = 0 :=
    firstOf_eq_zero (by simp [range, state])
  simp [writeValue, passes]

/-- A WRITE that passes its own checks, of a value that passes the value's, answers success with the value written. -/
theorem serve_write {s s' : State} {pr : Nat} {q : Req} (op : q.op = 2) (form : formCheck q = 0) (object : objectCheck s q = 0)
    (access : accessCheck pr q true = 0) (length : lengthCheck q q.length = 0)
    (written : writeValue s q.index q.sub q.body = (s', 0)) : serve s pr q = (s', okReply q) := by
  have passes : firstOf [objectCheck s q, accessCheck pr q true, lengthCheck q q.length] = 0 :=
    firstOf_eq_zero (by simp [object, access, length])
  simp [serve, form, op, serveWrite, passes, written]

/-! ### The staged value of an object -/

/-- A READ that asks for the staged value gets the one that is staged. -/
theorem readValue_staged {s : State} {q : Req} (asks : bitAt q.flags 0 = true) {e : Nat × List Byte}
    (h : s.staged.find? (fun e => e.1 == objKey q.index q.sub) = some e) : readValue s q = (e.2, true) := by
  simp [readValue, asks, h]

/-- Where none is staged, it gets the value in force. -/
theorem readValue_unstaged {s : State} {q : Req} (asks : bitAt q.flags 0 = true)
    (h : s.staged.find? (fun e => e.1 == objKey q.index q.sub) = none) :
    readValue s q = (objRead s q.index q.sub, false) := by
  simp only [readValue, asks, Bool.and_true, h]

/-- 0x7F00:06 is not an RWS object, so a write of it acts at once (R441, R457). -/
theorem accessOf_shadowClear : accessOf 0x7F00 6 ≠ 3 := by decide

/-- Writing 1 to 0x7F00:06 empties the shadow copy (R453). -/
theorem applyNow_shadowClear (s : State) {v : List Byte} (one : leNat v = 1) :
    applyNow s 0x7F00 6 (cleanValue 0x7F00 6 v) = clearShadow s := by
  have kept : cleanValue 0x7F00 6 v = v := by simp [cleanValue]
  rw [kept]
  simp [applyNow, one]

end Sys2Proof.Machine

namespace Sys2Proof.Says

open Sys2Proof Sys2Proof.Machine

section
variable {s s2 : State} {tr : Transport} {b : List Byte} {q : Req}

/-- A message that is heard and that the row takes is answered as its request is served (R445, R448). -/
theorem ebundCommand_of_heard (h : Heard s tr b q s2) {sel : Req → Bool} (takes : sel q = true) :
    ebundCommand tr b sel s =
      .next (answers s2 tr b q (serve s2 (principalOf tr) q).1 (serve s2 (principalOf tr) q).2) := by
  obtain ⟨up, rfl, ⟨s1, received, rfl⟩, fresh⟩ := h
  have fresh' : (wakeDevice s1).principals.find? (fun e => e.1 == principalOf tr && e.2.1 == messageOf tr b) = none := fresh
  simp only [ebundCommand, up, takes, received, handleMsg, fresh', Bool.and_self, if_true]
  rfl

/-- A sound READ of a value that one message carries. -/
theorem exec_ebRead (h : Heard s tr b q s2) (op : q.op = 1) (r : Reads s2 tr q) (short : (readValue s2 q).1.length ≤ 1008) :
    exec (.ebRead tr b) s =
      .next (answers s2 tr b q (afterRead s2 q) (saying (b2n (readValue s2 q).2) 0 (readValue s2 q).1)) := by
  have e : exec (.ebRead tr b) s = ebundCommand tr b (fun q => q.op == 1) s := rfl
  rw [e, ebundCommand_of_heard h (by simp [op]), serve_read op r.form r.object r.access short r.sound]
  rfl

/-- A sound WRITE changes the state as writeValue does. -/
theorem ebundCommand_of_writes {index sub : Nat} {v : List Byte} (h : Heard s tr b q s2) (w : Writes s2 tr q index sub v)
    {sel : Req → Bool} (takes : sel q = true) :
    ebundCommand tr b sel s = .next (answers s2 tr b q (writeValue s2 index sub v).1 (okReply q)) := by
  obtain ⟨⟨form, object, access, length⟩, op, ⟨rfl, rfl⟩, rfl, range, state⟩ := w
  have written := writeValue_of_checks range state
  rw [ebundCommand_of_heard h takes, serve_write op form object access length written, written]

@[simp] theorem answers_staged (s3 : State) (r : Reply) : (answers s2 tr b q s3 r).staged = s3.staged := sendReply_staged _ _ _ _ _

theorem objBytes_answers (s3 : State) (r : Reply) (index sub : Nat) :
    objBytes (answers s2 tr b q s3 r) index sub = objBytes s3 index sub :=
  objBytes_congr (sendReply_hw _ _ _ _ _) (sendReply_objs _ _ _ _ _) index sub

/-- A write of an RWS object replaces its staged value and leaves the other staged values and its value in force. -/
theorem ebWrite_stages {index sub : Nat} {v : List Byte} (h : Heard s tr b q s2) (w : Writes s2 tr q index sub v)
    (rws : accessOf index sub = 3) :
    ∃ u, exec (.ebWrite tr b) s = .next u ∧ sGet [] u.staged (objKey index sub) = cleanValue index sub v ∧
      (∀ k, k ≠ objKey index sub → sGet [] u.staged k = sGet [] s2.staged k) ∧
      objBytes u index sub = objBytes s2 index sub := by
  have written := writeValue_of_checks w.range w.state
  rw [if_pos rws] at written
  refine ⟨_, ebundCommand_of_writes h w (sel := fun q => q.op == 2) (by simp [w.op]), ?_, fun k hk => ?_, ?_⟩
  · rw [answers_staged, written]
    exact sGet_sIns_same _ _ _ _
  · rw [answers_staged, written]
    exact sGet_sIns_ne _ _ _ hk
  · rw [objBytes_answers, written]
    rfl

/-- A write of 1 to 0x7F00:06 empties the shadow copy. -/
theorem shadowClear_empties {v : List Byte} (h : Heard s tr b q s2) (w : Writes s2 tr q 0x7F00 6 v) (one : leNat v = 1) :
    ∃ u, exec (.shadowClear tr b) s = .next u ∧ u.staged = [] := by
  have takes : writesObj 0x7F00 6 q = true := by simp [writesObj, w.op, w.names]
  refine ⟨_, ebundCommand_of_writes h w (sel := writesObj 0x7F00 6) takes, ?_⟩
  rw [answers_staged, writeValue_of_checks w.range w.state, if_neg accessOf_shadowClear, applyNow_shadowClear s2 one]
  rfl

end

/-- Settles O51: a message that is heard is answered as its request is served, and the staged values are one store that the
answer leaves as the request made it. -/
theorem theShadowCopyIsSharedAndReadBack : Obligations.TheShadowCopyIsSharedAndReadBack := by
  refine ⟨fun s tr b q s2 index sub v => ebWrite_stages, ?_, fun s tr b q s2 v => shadowClear_empties⟩
  rintro s tr b q s2 _ heard op reads asks short rfl
  refine ⟨exec_ebRead heard op reads short, fun e staged => ?_, fun unstaged => ?_⟩
  · rw [readValue_staged asks staged]
    exact ⟨rfl, rfl⟩
  · rw [readValue_unstaged asks unstaged]
    exact ⟨rfl, rfl⟩

end Sys2Proof.Says
end
